-- ==== Sys2Proof/Word.lean ====
section
/-! DEFINITION. The word types of the PLV-KX512 and the operand records of its instruction words (R258 to R272).
Every record holds the fields of one format exactly as wide as the format encodes them, so that no bit of a word
is lost between the decoder and the encoder. -/
namespace Sys2Proof

/-- One byte. -/
abbrev Byte := BitVec 8
/-- A 32-bit lane of a line (R253). -/
abbrev Lane := BitVec 32
/-- A 64-bit register of CT. -/
abbrev Word := BitVec 64
/-- A 512-byte row (R345). -/
abbrev Row := BitVec 4096

/-- The streams of a tile (R141), and the logit words of a Sluice program (R272). -/
inductive Col where
  | ct | ld | st | vx | mx | sq | lk | ce | logit
  deriving DecidableEq, Repr

/-- The delay count and the four token bits of a synchronous word (R258). -/
structure Tok where
  dly : BitVec 3
  popL : Bool
  popR : Bool
  pushL : Bool
  pushR : Bool
  deriving DecidableEq, Repr

/-- The common fields of an MX or SQ word, with the start stamp of the stamped form (R268). -/
structure MTok where
  tok : Tok
  stamp : Option Lane
  deriving DecidableEq, Repr

/-- Format CR (R261). -/
structure CrOp where
  d : BitVec 5
  s : BitVec 5
  t : BitVec 5
  qd : Bool
  qs : Bool
  qt : Bool
  deriving DecidableEq, Repr

/-- Format CI (R261). -/
structure CiOp where
  d : BitVec 5
  s : BitVec 5
  imm : BitVec 16
  deriving DecidableEq, Repr

/-- A shift by an immediate: format CI with IMM 15:6 zero (R261). -/
structure ShOp where
  d : BitVec 5
  s : BitVec 5
  k : BitVec 6
  deriving DecidableEq, Repr

/-- Format CB (R261). -/
structure CbOp where
  a : BitVec 5
  b : BitVec 5
  off : BitVec 16
  deriving DecidableEq, Repr

/-- Format CM of `LDS` (R261). -/
structure LdsOp where
  v : BitVec 5
  b : BitVec 5
  sz : BitVec 2
  sx : Bool
  off : BitVec 13
  deriving DecidableEq, Repr

/-- Format CM of `STS`, whose SX is 0 (R261). -/
structure StsOp where
  v : BitVec 5
  b : BitVec 5
  sz : BitVec 2
  off : BitVec 13
  deriving DecidableEq, Repr

/-- `SEMW` and `SEMS` (R261). -/
structure SemOp where
  sm : BitVec 6
  s : BitVec 5
  mask : BitVec 4
  scope : BitVec 3
  deriving DecidableEq, Repr

/-- An LD word with MOD or CLS and RN (R262). LD has no left neighbour, so it has no `<L` and no `>L` bit. -/
structure LdOp where
  dly : BitVec 3
  popR : Bool
  pushR : Bool
  m : BitVec 4
  a : BitVec 4
  p : BitVec 3
  rn : BitVec 8
  deriving DecidableEq, Repr

/-- An LD word whose MOD is zero (R262). -/
structure LdNOp where
  dly : BitVec 3
  popR : Bool
  pushR : Bool
  a : BitVec 4
  p : BitVec 3
  rn : BitVec 8
  deriving DecidableEq, Repr

/-- `LPF`, whose CLS and RN are zero (R262, R330). -/
structure LdPOp where
  dly : BitVec 3
  popR : Bool
  pushR : Bool
  a : BitVec 4
  p : BitVec 3
  deriving DecidableEq, Repr

/-- An ST word with MOD or CLS and RN (R262). -/
structure StOp where
  tok : Tok
  m : BitVec 4
  a : BitVec 4
  p : BitVec 3
  rn : BitVec 8
  deriving DecidableEq, Repr

/-- An ST word whose MOD is zero (R262). -/
structure StNOp where
  tok : Tok
  a : BitVec 4
  p : BitVec 3
  rn : BitVec 8
  deriving DecidableEq, Repr

/-- `STZ`, whose RN is zero (R262). -/
structure StZOp where
  tok : Tok
  m : BitVec 4
  a : BitVec 4
  p : BitVec 3
  deriving DecidableEq, Repr

/-- A VX word and its extension (R263). -/
structure VxOp where
  tok : Tok
  et : BitVec 4
  rnd : BitVec 3
  fn : BitVec 12
  d : BitVec 8
  a : BitVec 8
  b : BitVec 8
  c : BitVec 8
  deriving DecidableEq, Repr

/-- A CE word and its extension (R267). -/
structure CeOp where
  ch : BitVec 8
  sw : BitVec 6
  sr : BitVec 6
  scope : BitVec 3
  now : Bool
  nor : Bool
  chv : Bool
  rel : Bool
  rmask : BitVec 4
  fn : BitVec 7
  thr : BitVec 20
  deriving DecidableEq, Repr

/-- An LK word and its extension (R267). -/
structure LkOp where
  tok : Tok
  ch : BitVec 8
  sw : BitVec 6
  now : Bool
  nor : Bool
  chv : Bool
  sr : BitVec 6
  scope : BitVec 3
  rel : Bool
  rmask : BitVec 4
  fn : BitVec 4
  thr : BitVec 14
  deriving DecidableEq, Repr

end Sys2Proof
end

