-- ==== Sys2Proof/Syntax.lean ====
section
/-! DEFINITION. The instructions of the PLV-KX512: one constructor for each row of the spec's opcode table. First stand the
words of the eight streams of a tile and the words of a logit program, with their fields exactly as wide as the encoding
(R258 to R272), and the fate of a word that no row matches (R260, R270). Then come the events of the hardware, each one
indivisible step (95_what_each_step_holds); what an event acts on (its tile, die, partition, value ...) is the event's
argument record, which the state holds while the event takes place (`State.arg`). -/
namespace Sys2Proof

/-- One step of the machine: a row of the opcode table with its operands. -/
inductive Instr where
  /-- `ADD` (R296). -/
  | add (o : CrOp)
  /-- `SUB` (R296). -/
  | sub (o : CrOp)
  /-- `AND` (R296). -/
  | and (o : CrOp)
  /-- `OR` (R296). -/
  | or (o : CrOp)
  /-- `XOR` (R296). -/
  | xor (o : CrOp)
  /-- `SLL` (R296). -/
  | sll (o : CrOp)
  /-- `SRL` (R296). -/
  | srl (o : CrOp)
  /-- `SRA` (R296). -/
  | sra (o : CrOp)
  /-- `SLT` (R296). -/
  | slt (o : CrOp)
  /-- `SLTU` (R296). -/
  | sltu (o : CrOp)
  /-- `SEQ` (R296). -/
  | seq (o : CrOp)
  /-- `MUL` (R296). -/
  | mul (o : CrOp)
  /-- `MULH` (R296). -/
  | mulh (o : CrOp)
  /-- `DIV` (R296). -/
  | div (o : CrOp)
  /-- `DIVU` (R296). -/
  | divu (o : CrOp)
  /-- `REM` (R296). -/
  | rem (o : CrOp)
  /-- `MIN` (R296). -/
  | min (o : CrOp)
  /-- `MAX` (R296). -/
  | max (o : CrOp)
  /-- `ADDI` (R297). -/
  | addi (o : CiOp)
  /-- `ANDI` (R297). -/
  | andi (o : CiOp)
  /-- `ORI` (R297). -/
  | ori (o : CiOp)
  /-- `XORI` (R297). -/
  | xori (o : CiOp)
  /-- `SLLI` (R297). -/
  | slli (o : ShOp)
  /-- `SRLI` (R297). -/
  | srli (o : ShOp)
  /-- `SRAI` (R297). -/
  | srai (o : ShOp)
  /-- `SLTI` (R297). -/
  | slti (o : CiOp)
  /-- `LDI` (R297). -/
  | ldi (d : BitVec 5) (imm : BitVec 21)
  /-- `LDI_LONG` (R268). -/
  | ldiLong (d : BitVec 5) (imm : BitVec 21) (ext : BitVec 32)
  /-- `ORHI` (R297). -/
  | orhi (d : BitVec 5) (sh : BitVec 2) (imm : BitVec 16)
  /-- `BEQ` (R298). -/
  | beq (o : CbOp)
  /-- `BNE` (R298). -/
  | bne (o : CbOp)
  /-- `BLT` (R298). -/
  | blt (o : CbOp)
  /-- `BGE` (R298). -/
  | bge (o : CbOp)
  /-- `BLTU` (R298). -/
  | bltu (o : CbOp)
  /-- `BGEU` (R298). -/
  | bgeu (o : CbOp)
  /-- `JAL` (R299). -/
  | jal (d : BitVec 5) (off : BitVec 21)
  /-- `JALR` (R299). -/
  | jalr (o : CiOp)
  /-- `LDS` (R302). -/
  | lds (o : LdsOp)
  /-- `STS` (R302). -/
  | sts (o : StsOp)
  /-- `FENCE` (R303). -/
  | fence (mask : BitVec 4) (scope : BitVec 3)
  /-- `CMO` (R304). -/
  | cmo (opc : BitVec 2) (lvl : BitVec 2) (a : BitVec 5) (n : BitVec 5)
  /-- `SEMW` (R305). -/
  | semw (o : SemOp)
  /-- `SEMR` (R305). -/
  | semr (d : BitVec 5) (sm : BitVec 6)
  /-- `SEMS` (R305). -/
  | sems (o : SemOp)
  /-- `WFE` (R306). -/
  | wfe
  /-- `SEV` (R306). -/
  | sev
  /-- `GBAR` (R307). -/
  | gbar (mask : BitVec 4)
  /-- `MARK` (R308). -/
  | mark (s : BitVec 5)
  /-- `DONE` (R309). -/
  | done
  /-- `MLOOP` (R310). -/
  | mloop (b : BitVec 6) (ii : BitVec 7) (sc : BitVec 5) (s : BitVec 5)
  /-- `MLOOP_LCB` (R310). -/
  | mloopLcb (b : BitVec 6) (ii : BitVec 7) (sc : BitVec 5)
  /-- `MLCB` (R311). -/
  | mlcb (idx : BitVec 3) (a : BitVec 5)
  /-- `LOOP` (R312). -/
  | loop (s : BitVec 5) (e : BitVec 11)
  /-- `UNLOOP` (R312). -/
  | unloop
  /-- `RDID` (R313). -/
  | rdid (d : BitVec 5) (sel : BitVec 4)
  /-- `SRR` (R314). -/
  | srr (d : BitVec 5) (sys : BitVec 12)
  /-- `SRW` (R314). -/
  | srw (s : BitVec 5) (sys : BitVec 12)
  /-- `RDSTAMP` (R315). -/
  | rdstamp (d : BitVec 5)
  /-- `MOVA` (R316). -/
  | mova (tgt : BitVec 7) (s : BitVec 5)
  /-- `TRAP` (R317). -/
  | trap (code : BitVec 16)
  /-- `ERET` (R318). -/
  | eret
  /-- `HALT` (R319). -/
  | halt
  /-- `LDV` (R327). -/
  | ldv (o : LdOp)
  /-- `LDQ` (R327). -/
  | ldq (o : LdOp)
  /-- `LDT` (R327). -/
  | ldt (o : LdNOp)
  /-- `LDG` (R327). -/
  | ldg (o : LdOp)
  /-- `LDB` (R328). -/
  | ldb (o : LdNOp)
  /-- `LDSC` (R327). -/
  | ldsc (o : LdOp)
  /-- `LDP` (R329). -/
  | ldp (o : LdOp)
  /-- `LPF` (R330). -/
  | lpf (o : LdPOp)
  /-- `LDX` (R327). -/
  | ldx (o : LdOp)
  /-- `LDBC` (R327). -/
  | ldbc (o : LdOp)
  /-- `STV` (R331). -/
  | stv (o : StOp)
  /-- `STQ` (R331). -/
  | stq (o : StOp)
  /-- `STT` (R331). -/
  | stt (o : StNOp)
  /-- `SCT` (R331). -/
  | sct (o : StOp)
  /-- `STP` (R329). -/
  | stp (o : StOp)
  /-- `STC` (R331). -/
  | stc (o : StOp)
  /-- `STZ` (R331). -/
  | stz (o : StZOp)
  /-- `STM` (R332). -/
  | stm (o : StOp)
  /-- `COPY` (R336). -/
  | copy (o : CeOp)
  /-- `COPYA` (R336). -/
  | copya (o : CeOp)
  /-- `FILL` (R336). -/
  | fill (o : CeOp)
  /-- `ACCW` (R337). -/
  | accw (o : CeOp)
  /-- `XADD` (R338). -/
  | xadd (o : CeOp)
  /-- `CAS` (R338). -/
  | cas (o : CeOp)
  /-- `MCAST` (R339). -/
  | mcast (o : CeOp)
  /-- `MSEND` (R340). -/
  | msend (o : CeOp)
  /-- `MRECV` (R341). -/
  | mrecv (o : CeOp)
  /-- `CMOA` (R343). -/
  | cmoa (o : CeOp)
  /-- `PFB` (R343). -/
  | pfb (o : CeOp)
  /-- `CEFLUSH` (R343). -/
  | ceflush (o : CeOp)
  /-- `VADD` (R350). -/
  | vadd (o : VxOp)
  /-- `VSUB` (R350). -/
  | vsub (o : VxOp)
  /-- `VMUL` (R350). -/
  | vmul (o : VxOp)
  /-- `VFMA` (R350). -/
  | vfma (o : VxOp)
  /-- `VFMS` (R350). -/
  | vfms (o : VxOp)
  /-- `VMAX` (R350). -/
  | vmax (o : VxOp)
  /-- `VMIN` (R350). -/
  | vmin (o : VxOp)
  /-- `VABS` (R350). -/
  | vabs (o : VxOp)
  /-- `VNEG` (R350). -/
  | vneg (o : VxOp)
  /-- `VAND` (R351). -/
  | vand (o : VxOp)
  /-- `VOR` (R351). -/
  | vor (o : VxOp)
  /-- `VXOR` (R351). -/
  | vxor (o : VxOp)
  /-- `VSHL` (R351). -/
  | vshl (o : VxOp)
  /-- `VSHR` (R351). -/
  | vshr (o : VxOp)
  /-- `VSRA` (R351). -/
  | vsra (o : VxOp)
  /-- `VCMP` (R352). -/
  | vcmp (o : VxOp)
  /-- `VSEL` (R352). -/
  | vsel (o : VxOp)
  /-- `VCVT` (R353). -/
  | vcvt (o : VxOp)
  /-- `VQBLK` (R354). -/
  | vqblk (o : VxOp)
  /-- `VRCP` (R355). -/
  | vrcp (o : VxOp)
  /-- `VRSQ` (R355). -/
  | vrsq (o : VxOp)
  /-- `VEXP2` (R355). -/
  | vexp2 (o : VxOp)
  /-- `VLOG2` (R355). -/
  | vlog2 (o : VxOp)
  /-- `VTIE` (R357). -/
  | vtie (o : VxOp)
  /-- `VTLD` (R356). -/
  | vtld (o : VxOp)
  /-- `VRED` (R358). -/
  | vred (o : VxOp)
  /-- `VBCAST` (R359). -/
  | vbcast (o : VxOp)
  /-- `VPERM` (R359). -/
  | vperm (o : VxOp)
  /-- `VPACK` (R360). -/
  | vpack (o : VxOp)
  /-- `VUNPK` (R360). -/
  | vunpk (o : VxOp)
  /-- `VMOV` (R351). -/
  | vmov (o : VxOp)
  /-- `VIDX` (R361). -/
  | vidx (o : VxOp)
  /-- `VWIN` (R363). -/
  | vwin (o : VxOp)
  /-- `VAMAX` (R362). -/
  | vamax (o : VxOp)
  /-- `VRNG` (R361). -/
  | vrng (o : VxOp)
  /-- `VCLR` (R361). -/
  | vclr (o : VxOp)
  /-- `MMA` (R369). -/
  | mma (t : MTok) (acc : BitVec 7) (p : BitVec 3) (et : BitVec 3) (ovw : Bool)
  /-- `MMAS` (R369). -/
  | mmas (t : MTok) (acc : BitVec 7) (p : BitVec 3) (et : BitVec 3) (ovw : Bool)
  /-- `MMAX` (R369). -/
  | mmax (t : MTok) (acc : BitVec 7) (p : BitVec 3) (et : BitVec 3) (ovw : Bool)
  /-- `MTILE` (R371). -/
  | mtile (t : MTok) (acc : BitVec 7) (p : BitVec 3) (et : BitVec 3) (ovw : Bool)
  /-- `MBSEL` (R373). -/
  | mbsel (t : MTok) (spn : BitVec 2) (ksel : BitVec 4)
  /-- `MACLR` (R378). -/
  | maclr (t : MTok) (d : BitVec 7) (n : BitVec 5)
  /-- `MACMV` (R378). -/
  | macmv (t : MTok) (d : BitVec 7) (s : BitVec 7) (n : BitVec 5)
  /-- `MWAKE` (R377). -/
  | mwake (t : MTok) (m : BitVec 4)
  /-- `MMSK` (R376). -/
  | mmsk (t : MTok) (m : BitVec 2) (b : BitVec 7) (r : BitVec 4) (q : BitVec 4)
  /-- `MSCL` (R375). -/
  | mscl (t : MTok) (b : BitVec 1) (a : BitVec 11)
  /-- `MTRN` (R378). -/
  | mtrn (t : MTok) (d : BitVec 7) (s : BitVec 7) (g : BitVec 2)
  /-- `MSPX` (R374). -/
  | mspx (t : MTok) (p : BitVec 3)
  /-- `SOPDEF` (R381). -/
  | sopdef (t : MTok) (op : BitVec 3) (v : BitVec 7)
  /-- `SCAN` (R382). -/
  | scan (t : MTok) (op : BitVec 3) (ws : BitVec 6) (v : BitVec 7)
  /-- `SUP` (R382). -/
  | sup (t : MTok) (op : BitVec 3) (ws : BitVec 6) (v : BitVec 7)
  /-- `SDN` (R382). -/
  | sdn (t : MTok) (op : BitVec 3) (ws : BitVec 6) (v : BitVec 7)
  /-- `SXSC` (R382). -/
  | sxsc (t : MTok) (op : BitVec 3) (ws : BitVec 6) (v : BitVec 7)
  /-- `SLBK` (R383). -/
  | slbk (t : MTok) (op : BitVec 3) (va : BitVec 7) (vb : BitVec 7)
  /-- `SCSND` (R384). -/
  | scsnd (t : MTok) (ch : BitVec 8) (tag : BitVec 8) (rb : BitVec 3)
  /-- `SCRCV` (R384). -/
  | scrcv (t : MTok) (ch : BitVec 8) (tag : BitVec 8) (rb : BitVec 3)
  /-- `PBIND` (R385). -/
  | pbind (t : MTok) (ps : BitVec 6)
  /-- `PBIND_PAIR` (R385). -/
  | pbindPair (t : MTok) (ps : BitVec 6) (ph : BitVec 6)
  /-- `PUNB` (R385). -/
  | punb (t : MTok) (ps : BitVec 6)
  /-- `PLD` (R386). -/
  | pld (t : MTok) (ps : BitVec 6) (row : BitVec 4) (v : BitVec 7)
  /-- `PST` (R386). -/
  | pst (t : MTok) (ps : BitVec 6) (row : BitVec 4) (v : BitVec 7)
  /-- `STEP` (R387). -/
  | step (t : MTok) (ps : BitVec 6) (k : BitVec 4) (op : BitVec 3) (v : BitVec 6)
  /-- `PSPILL` (R388). -/
  | pspill (t : MTok) (ps : BitVec 6) (sw : BitVec 6) (sr : BitVec 6) (now : Bool)
  /-- `PFILL` (R388). -/
  | pfill (t : MTok) (ps : BitVec 6) (sw : BitVec 6) (sr : BitVec 6) (now : Bool)
  /-- `PSHD` (R385). -/
  | pshd (t : MTok) (ps : BitVec 6)
  /-- `COLL` (R396). -/
  | coll (o : LkOp)
  /-- `RADD` (R397). -/
  | radd (o : LkOp)
  /-- `SEND` (R401). -/
  | send (o : LkOp)
  /-- `RECV` (R401). -/
  | recv (o : LkOp)
  /-- `PUT` (R402). -/
  | put (o : LkOp)
  /-- `GET` (R402). -/
  | get (o : LkOp)
  /-- `APPEND` (R403). -/
  | append (o : LkOp)
  /-- `PRED` (R398). -/
  | pred (o : LkOp)
  /-- `LBAR` (R399). -/
  | lbar (o : LkOp)
  /-- `GRPDEF` (R393). -/
  | grpdef (o : LkOp)
  /-- `LQUIET` (R404). -/
  | lquiet (o : LkOp)
  /-- `LFENCE` (R404). -/
  | lfence (o : LkOp)
  /-- `LLDL` (R407). -/
  | lldl (d : BitVec 4)
  /-- `LBIAS` (R407). -/
  | lbias (d : BitVec 4) (a : BitVec 4)
  /-- `LPEN` (R407). -/
  | lpen (d : BitVec 4) (a : BitVec 4) (k : BitVec 3) (m : BitVec 2)
  /-- `LTEMP` (R407). -/
  | ltemp (d : BitVec 4) (a : BitVec 4) (k : BitVec 3)
  /-- `LMASK` (R407). -/
  | lmask (d : BitVec 4) (a : BitVec 4)
  /-- `LMAX` (R407). -/
  | lmax (a : BitVec 4) (k : BitVec 3)
  /-- `LSUBX` (R407). -/
  | lsubx (d : BitVec 4) (a : BitVec 4) (k : BitVec 3)
  /-- `LSUM` (R407). -/
  | lsum (a : BitVec 4) (k : BitVec 3) (e : BitVec 1)
  /-- `LLOGP` (R407). -/
  | llogp (d : BitVec 4) (a : BitVec 4)
  /-- `LTOPK` (R407). -/
  | ltopk (d : BitVec 4) (a : BitVec 4) (k : BitVec 3)
  /-- `LTOPP` (R407). -/
  | ltopp (d : BitVec 4) (a : BitVec 4) (k : BitVec 3)
  /-- `LMINP` (R407). -/
  | lminp (d : BitVec 4) (a : BitVec 4) (k : BitVec 3)
  /-- `LGUMB` (R407). -/
  | lgumb (d : BitVec 4) (a : BitVec 4)
  /-- `LARG` (R407). -/
  | larg (a : BitVec 4) (k : BitVec 3)
  /-- `LCMP` (R407). -/
  | lcmp (d : BitVec 4) (a : BitVec 4) (b : BitVec 4) (c : BitVec 3)
  /-- `LCMP_K` (R407). -/
  | lcmpK (d : BitVec 4) (a : BitVec 4) (k : BitVec 3) (c : BitVec 3)
  /-- `LSEL` (R407). -/
  | lsel (d : BitVec 4) (a : BitVec 4) (b : BitVec 4) (c : BitVec 4)
  /-- `LMOV` (R407). -/
  | lmov (d : BitVec 4) (a : BitVec 4)
  /-- `LMOV_K` (R407). -/
  | lmovK (d : BitVec 4) (k : BitVec 3)
  /-- `LLDK` (R407). -/
  | lldk (k : BitVec 3) (s : BitVec 4)
  /-- `LLDK_LIT` (R407). -/
  | lldkLit (k : BitVec 3) (s : BitVec 4) (lit : BitVec 32)
  /-- `LCNT` (R407). -/
  | lcnt (d : BitVec 4)
  /-- `LSKIP` (R407). -/
  | lskip (k : BitVec 3) (m : BitVec 6) (i : BitVec 1) (c : BitVec 3)
  /-- `LEMIT` (R408). -/
  | lemit (a : BitVec 4) (b : BitVec 4)
  /-- `LGRP` (R409). -/
  | lgrp (k : BitVec 3) (s : BitVec 3)
  /-- `LGRP_ADDCUM` (R409). -/
  | lgrpAddcum (d : BitVec 4) (a : BitVec 4)
  /-- `LEND` (R407). -/
  | lend
  /-- `LADD` (R407). -/
  | ladd (d : BitVec 4) (a : BitVec 4) (b : BitVec 4)
  /-- `LADD_K` (R407). -/
  | laddK (d : BitVec 4) (a : BitVec 4) (k : BitVec 3)
  /-- `UNASSIGNED_OPCODE` (R270). -/
  | unassignedOpcode (col : Col) (word : BitVec 32) (ext : Option (BitVec 32))
  /-- `PACKAGE_RESET` (R167). -/
  | packageReset
  /-- `SECURITY_CORE_ERROR` (R112). -/
  | securityCoreError
  /-- `THERMAL_TRIP` (R28). -/
  | thermalTrip
  /-- `THERMAL_RELEASE` (R28). -/
  | thermalRelease
  /-- `WEIR_WINDOW` (R29). -/
  | weirWindow
  /-- `THROTTLE_HOLD_END` (R33). -/
  | throttleHoldEnd
  /-- `WEIR_SLOPE_WRITE` (R32). -/
  | weirSlopeWrite
  /-- `TIME_FREQ_WRITE` (R41). -/
  | timeFreqWrite
  /-- `TIME_FREQ_APPLY` (R37). -/
  | timeFreqApply
  /-- `TIME_START_WRITE` (R41). -/
  | timeStartWrite
  /-- `EPOCH_START` (R38). -/
  | epochStart
  /-- `PPS_EDGE` (R39). -/
  | ppsEdge
  /-- `EVENT_MESSAGE` (R39). -/
  | eventMessage
  /-- `TELEMETRY_SAMPLE` (R42). -/
  | telemetrySample
  /-- `TELE_WRITE` (R43). -/
  | teleWrite
  /-- `SUBARRAY_GATE` (R44). -/
  | subarrayGate
  /-- `FLIT_REPLAY` (R50). -/
  | flitReplay
  /-- `PORT_DOWN` (R50). -/
  | portDown
  /-- `LINK_PROTOCOL_ERROR` (R51). -/
  | linkProtocolError
  /-- `PORT_ENABLE` (R65). -/
  | portEnable
  /-- `PORT_DISABLE` (R65). -/
  | portDisable
  /-- `ROUTE_WRITE` (R53). -/
  | routeWrite
  /-- `CTMO_WRITE` (R65). -/
  | ctmoWrite
  /-- `CONTRIBUTION_ARRIVAL` (R59). -/
  | contributionArrival
  /-- `CONTRIBUTION_RETRY` (R59). -/
  | contributionRetry
  /-- `COLLECTIVE_COMMIT` (R63). -/
  | collectiveCommit
  /-- `COLLECTIVE_TIMEOUT` (R63). -/
  | collectiveTimeout
  /-- `TOWPATH_ARRIVAL` (R207). -/
  | towpathArrival
  /-- `CXL_PORT_DOWN` (R68). -/
  | cxlPortDown
  /-- `SLICE_ACCESS` (R77). -/
  | sliceAccess
  /-- `LINE_FILL` (R189). -/
  | lineFill
  /-- `WRITE_BACK` (R93). -/
  | writeBack
  /-- `DRAM_SCRUB` (R25). -/
  | dramScrub
  /-- `BASIN_MAP_WRITE` (R86). -/
  | basinMapWrite
  /-- `BASIN_MAP_APPLY` (R87). -/
  | basinMapApply
  /-- `MOVEDONE` (R87). -/
  | movedone
  /-- `CARVE_CREATE` (R88). -/
  | carveCreate
  /-- `CARVE_READY` (R88). -/
  | carveReady
  /-- `CARVE_RELEASE` (R89). -/
  | carveRelease
  /-- `SHOOTDOWN_GO` (R90). -/
  | shootdownGo
  /-- `SHOOTDOWN_TILE_CLEAN` (R90). -/
  | shootdownTileClean
  /-- `SHOOTDOWN_BASIN_CLEAN` (R90). -/
  | shootdownBasinClean
  /-- `SHOOTDOWN_RELEASE` (R90). -/
  | shootdownRelease
  /-- `MIGRATION_COPY` (R92). -/
  | migrationCopy
  /-- `PAGER_REPLY` (R84). -/
  | pagerReply
  /-- `HOST_READ` (R95). -/
  | hostRead
  /-- `HOST_WRITE` (R95). -/
  | hostWrite
  /-- `FLR` (R109). -/
  | flr
  /-- `QBASE_WRITE` (R101). -/
  | qbaseWrite
  /-- `QCTL_WRITE` (R101). -/
  | qctlWrite
  /-- `QCTL_FLUSH` (R101). -/
  | qctlFlush
  /-- `QTAIL_WRITE` (R102). -/
  | qtailWrite
  /-- `RING_CONFIG_WRITE` (R103). -/
  | ringConfigWrite
  /-- `PART_CTL_RST` (R116). -/
  | partCtlRst
  /-- `PART_RST_TRIG` (R119). -/
  | partRstTrig
  /-- `PARTITION_ABORT_DONE` (R109). -/
  | partitionAbortDone
  /-- `PART_RST_GO` (R119). -/
  | partRstGo
  /-- `PARTITION_QUIESCE_DONE` (R109). -/
  | partitionQuiesceDone
  /-- `PARTITION_CLEAR_DONE` (R109). -/
  | partitionClearDone
  /-- `PART_HERR_CLEAR` (R116). -/
  | partHerrClear
  /-- `PART_FRCONS_WRITE` (R116). -/
  | partFrconsWrite
  /-- `PART_FRCTL_CLR` (R116). -/
  | partFrctlClr
  /-- `PART_SAVE_WRITE` (R137). -/
  | partSaveWrite
  /-- `PART_HWIN_WRITE` (R119). -/
  | partHwinWrite
  /-- `ASSIGN` (R100). -/
  | assign
  /-- `RELEASE` (R100). -/
  | release
  /-- `CLEAR_DONE` (R100). -/
  | clearDone
  /-- `SETWT` (R100). -/
  | setwt
  /-- `ENABLE` (R100). -/
  | enable
  /-- `DISABLE` (R100). -/
  | disable
  /-- `ATTEST` (R114). -/
  | attest
  /-- `WATCHDOG_EXPIRY` (R108). -/
  | watchdogExpiry
  /-- `BARGE_HEAD_READ` (R122). -/
  | bargeHeadRead
  /-- `BARGE_SELECT` (R128). -/
  | bargeSelect
  /-- `CHANNEL_TABLE_READ` (R105). -/
  | channelTableRead
  /-- `GANG_START` (R130). -/
  | gangStart
  /-- `JOIN_DECREMENT` (R131). -/
  | joinDecrement
  /-- `SLICE_CTL_WRITE` (R135). -/
  | sliceCtlWrite
  /-- `SLICE_SWITCH` (R135). -/
  | sliceSwitch
  /-- `CONTEXT_SAVE_DONE` (R136). -/
  | contextSaveDone
  /-- `SLICE_RESUME` (R135). -/
  | sliceResume
  /-- `GANG_RESTORE` (R136). -/
  | gangRestore
  /-- `RESTORE_DONE` (R135). -/
  | restoreDone
  /-- `GW_CONFIG_WRITE` (R134). -/
  | gwConfigWrite
  /-- `GW_START` (R134). -/
  | gwStart
  /-- `GW_STOP` (R134). -/
  | gwStop
  /-- `BARGE_NODE` (R132). -/
  | bargeNode
  /-- `ENGINE_NODE` (R132). -/
  | engineNode
  /-- `WAIT_NODE` (R132). -/
  | waitNode
  /-- `RAISE_NODE` (R132). -/
  | raiseNode
  /-- `COND_NODE` (R132). -/
  | condNode
  /-- `LOOP_NODE` (R132). -/
  | loopNode
  /-- `SWITCH_NODE` (R132). -/
  | switchNode
  /-- `REARM_NODE` (R132). -/
  | rearmNode
  /-- `END_NODE` (R132). -/
  | endNode
  /-- `FETCH_LINE` (R142). -/
  | fetchLine
  /-- `TRAP_ENTRY` (R161). -/
  | trapEntry
  /-- `STALL_WIRE_FREEZE` (R155). -/
  | stallWireFreeze
  /-- `STALL_WIRE_RESUME` (R155). -/
  | stallWireResume
  /-- `SCHEDULE_MISS_RECOVERY` (R154). -/
  | scheduleMissRecovery
  /-- `SCHEDMISS` (R154). -/
  | schedmiss
  /-- `SEQUENCER_ADVANCE` (R157). -/
  | sequencerAdvance
  /-- `BARRIER_COMPLETE` (R307). -/
  | barrierComplete
  /-- `FLIGHT_LEVEL` (R202). -/
  | flightLevel
  /-- `MESSAGE_ARRIVAL` (R341). -/
  | messageArrival
  /-- `MULTICAST_LINE_ARRIVAL` (R183). -/
  | multicastLineArrival
  /-- `SEND_MATCH` (R401). -/
  | sendMatch
  /-- `SLUICE_SEQUENCE` (R223). -/
  | sluiceSequence
  /-- `ACCEPT_SEQUENCE` (R230). -/
  | acceptSequence
  /-- `COMMIT_UNIT` (R233). -/
  | commitUnit
  /-- `JOB_END` (R219). -/
  | jobEnd
  /-- `COALESCE_TIMER` (R237). -/
  | coalesceTimer
  /-- `BEAT` (R239). -/
  | beat
  /-- `JUDGEMENT` (R240). -/
  | judgement
  /-- `EVALUATION` (R244). -/
  | evaluation
  /-- `APPEAL_START` (R249). -/
  | appealStart
  /-- `SELF_TEST_END` (R249). -/
  | selfTestEnd
  /-- `SELF_TEST_TIMEOUT` (R244). -/
  | selfTestTimeout
  /-- `WATCH_CMD_FENCE` (R251). -/
  | watchCmdFence
  /-- `WATCH_CTL_EN` (R251). -/
  | watchCtlEn
  /-- `REGISTER_WRITE` (R7). -/
  | registerWrite
  /-- `BRIDGE_FAILURE` (R13). -/
  | bridgeFailure
  /-- `LANE_LOSS` (R49). -/
  | laneLoss
  /-- `SWITCH_ABANDON` (R64). -/
  | switchAbandon
  /-- `PUT_ARRIVAL` (R183). -/
  | putArrival
  /-- `PROTOCOL_VIOLATION` (R241). -/
  | protocolViolation
  /-- `COMMAND_END` (R389). -/
  | commandEnd
  deriving DecidableEq, Repr

end Sys2Proof
end

