-- ==== Sys2Proof/WellFormed.lean ====
section
/-! DEFINITION. The fixed limits of the fields of an instruction word: `wellFormed i` is false exactly when a field of the
word holds a reserved value or an operand outside its limits, so that the word is the ILLINSN trap of R260 when it issues (a
logit word ends its job with PROG instead, R272). Limits that depend on the state of the machine are checked by the
meanings. -/
namespace Sys2Proof

/-- Scopes 5 to 7 are reserved (R172). -/
def scopeOk (s : BitVec 3) : Bool := s.toNat < 5

/-- A row name v0–v127 or q4–q7 (R259, R346). -/
def rowName (r : BitVec 8) : Bool := r.toNat < 128 || (132 ≤ r.toNat && r.toNat < 136)

/-- One of the word queues q0–q3 (R259). -/
def qWord (r : BitVec 8) : Bool := 128 ≤ r.toNat && r.toNat < 132

/-- One of the row queues q4–q7 (R259). -/
def qRow (r : BitVec 8) : Bool := 132 ≤ r.toNat && r.toNat < 136

/-- With its Q bit a field of format CR names q0–q3, so its bits 4:2 are zero (R261). -/
def crWf (o : CrOp) : Bool :=
  (!o.qd || o.d.toNat < 4) && (!o.qs || o.s.toNat < 4) && (!o.qt || o.t.toNat < 4)

/-- The SYS numbers of R271. -/
def sysKnown (y : BitVec 12) : Bool :=
  let n := y.toNat
  n < 4 || n == 0x10 || n == 0x11 || (0x18 ≤ n && n ≤ 0x1B) || n == 0x20 || n == 0x21 || n == 0x28 || n == 0x30 ||
    n == 0x38 || n == 0x39 || (0x40 ≤ n && n ≤ 0x4F) || (0x80 ≤ n && n ≤ 0x82)

/-- The sets of element types of R347. -/
def isFp (et : BitVec 4) : Bool := et.toNat < 3
def isF8 (et : BitVec 4) : Bool := et == 3 || et == 4
def isInt (et : BitVec 4) : Bool := 6 ≤ et.toNat && et.toNat < 12
def fpOrInt (et : BitVec 4) : Bool := isFp et || isInt et
def setW (et : BitVec 4) : Bool := et.toNat < 12 && et != 5

/-- The width in bits of an element type (R263, R281). -/
def width (et : BitVec 4) : Nat :=
  match et.toNat with
  | 0 | 10 | 11 => 32
  | 1 | 2 | 8 | 9 => 16
  | 5 => 4
  | _ => 8

/-- The number of lanes of a row (R345). -/
def lanes (et : BitVec 4) : Nat := 4096 / width et

/-- A field of FN. -/
def fnFld (o : VxOp) (lo n : Nat) : Nat := o.fn.toNat / 2 ^ lo % 2 ^ n
/-- A bit of FN. -/
def fnBit (o : VxOp) (lo : Nat) : Bool := o.fn.toNat / 2 ^ lo % 2 == 1
/-- FN has no bit outside the mask. -/
def fnOnly (o : VxOp) (m : BitVec 12) : Bool := o.fn &&& ~~~m == 0
/-- RND 0–4 for a float type, 0 for an integer type (R347). -/
def rndOk (o : VxOp) : Bool := if isInt o.et then o.rnd == 0 else o.rnd.toNat < 5

/-- `VCVT` (R348, R353). -/
def cvtWf (o : VxOp) : Bool :=
  let src : BitVec 4 := .ofNat 4 (fnFld o 0 4)
  o.et.toNat < 12 && src.toNat < 12 && o.rnd.toNat < 5 && fnOnly o 0x3BF && !(isInt o.et && isInt src && o.rnd != 0) &&
    !((isInt o.et || o.et == 5) && fnBit o 4) && rowName o.d && rowName o.a && o.c == 0 &&
    (if width o.et < width src then fnFld o 7 3 < width src / width o.et && rowName o.b
     else fnFld o 7 3 < width o.et / width src && o.b == 0)

/-- `VRED` (R348, R358). -/
def redWf (o : VxOp) : Bool :=
  let op := fnFld o 0 2
  fpOrInt o.et && fnOnly o 0xF && op != 3 && (if op == 0 && isFp o.et then o.rnd.toNat < 5 else o.rnd == 0) &&
    (op == 0 || !fnBit o 2) && rowName o.a && o.b == 0 && o.c == 0 && (rowName o.d || (qWord o.d && !fnBit o 3))

/-- The values of VX.WIN that `VWIN` accepts (R363). -/
def winOk (rb rs wb : Nat) : Bool :=
  rs ≤ 128 && rb + rs ≤ 128 && (if rs == 0 then rb == 0 && wb == 0 else wb < rs)

/-- Source and destination space and OPX of a CE command (R334). -/
def ssp (o : CeOp) : Nat := o.fn.toNat / 32
def dsp (o : CeOp) : Nat := o.fn.toNat / 8 % 4
def opx (o : CeOp) : Nat := o.fn.toNat % 8
def spaces (o : CeOp) : Bool := ssp o < 2 && dsp o < 3 && (o.chv || dsp o != 2)

/-- The required zeros of R267 and the scope of R172 for a CE word. -/
def ceWf (o : CeOp) : Bool :=
  scopeOk o.scope && (!o.now || (o.sw == 0 && o.thr == 0)) && (!o.nor || o.sr == 0) && (o.chv || o.ch == 0) && (o.rel || o.rmask == 0)

/-- The same for an LK word, which has no right neighbour (R149, R267, R389). -/
def lkWf (o : LkOp) : Bool :=
  scopeOk o.scope && (!o.now || (o.sw == 0 && o.thr == 0)) && (!o.nor || o.sr == 0) && (o.chv || o.ch == 0) && (o.rel || o.rmask == 0) &&
    !o.tok.popR && !o.tok.pushR

/-- The fixed limits of every instruction word; events have none. -/
def wellFormed (i : Instr) : Bool :=
  match i with
  | .add o => crWf o
  | .sub o => crWf o
  | .and o => crWf o
  | .or o => crWf o
  | .xor o => crWf o
  | .sll o => crWf o
  | .srl o => crWf o
  | .sra o => crWf o
  | .slt o => crWf o
  | .sltu o => crWf o
  | .seq o => crWf o
  | .mul o => crWf o
  | .mulh o => crWf o
  | .div o => crWf o
  | .divu o => crWf o
  | .rem o => crWf o
  | .min o => crWf o
  | .max o => crWf o
  | .addi _ => true
  | .andi _ => true
  | .ori _ => true
  | .xori _ => true
  | .slli _ => true
  | .srli _ => true
  | .srai _ => true
  | .slti _ => true
  | .ldi _ _ => true
  | .ldiLong _ _ _ => true
  | .orhi _ _ _ => true
  | .beq _ => true
  | .bne _ => true
  | .blt _ => true
  | .bge _ => true
  | .bltu _ => true
  | .bgeu _ => true
  | .jal _ _ => true
  | .jalr _ => true
  | .lds o => !(o.sx && o.sz == 3)
  | .sts _ => true
  | .fence _ scope => scopeOk scope
  | .cmo opc _ _ _ => opc != 3
  | .semw o => scopeOk o.scope
  | .semr _ _ => true
  | .sems o => scopeOk o.scope
  | .wfe => true
  | .sev => true
  | .gbar _ => true
  | .mark _ => true
  | .done => true
  | .mloop _ _ _ _ => true
  | .mloopLcb _ _ _ => true
  | .mlcb idx _ => idx != 0
  | .loop _ e => e != 0
  | .unloop => true
  | .rdid _ sel => sel.toNat < 7
  | .srr _ sys => sysKnown sys
  | .srw _ sys => sysKnown sys
  | .rdstamp _ => true
  | .mova tgt _ => tgt.toNat < 88
  | .trap _ => true
  | .eret => true
  | .halt => true
  | .ldv o => rowName o.rn
  | .ldq o => qWord o.rn
  | .ldt o => rowName o.rn
  | .ldg o => qRow o.rn
  | .ldb o => o.rn.toNat < 16
  | .ldsc o => o.rn.toNat < 16
  | .ldp o => o.rn.toNat < 64
  | .lpf _ => true
  | .ldx o => qWord o.rn
  | .ldbc o => qRow o.rn
  | .stv o => rowName o.rn
  | .stq o => qWord o.rn
  | .stt o => rowName o.rn
  | .sct o => rowName o.rn
  | .stp o => o.rn.toNat < 64
  | .stc o => qWord o.rn
  | .stz _ => true
  | .stm o => o.rn.toNat < 127 || qRow o.rn
  | .copy o => ceWf o && spaces o && opx o == 0
  | .copya o => ceWf o && spaces o && opx o == 0
  | .fill o => ceWf o && spaces o && ssp o == 0 && opx o == 0
  | .accw o => ceWf o && spaces o
  | .xadd o => ceWf o && spaces o && ssp o == 0 && opx o < 4
  | .cas o => ceWf o && spaces o && ssp o == 0 && opx o < 4
  | .mcast o => ceWf o && ssp o < 2 && dsp o == 2 && opx o == 0 && o.chv
  | .msend o => ceWf o && ssp o < 2 && dsp o == 0 && opx o == 0 && o.chv
  | .mrecv o => ceWf o && ssp o == 0 && dsp o < 2 && opx o == 0 && o.chv && !o.nor
  | .cmoa o => ceWf o && ssp o == 0 && opx o < 4 && opx o != 3 && !o.chv
  | .pfb o => ceWf o && o.fn == 0 && !o.chv
  | .ceflush o => ceWf o && ssp o == 0 && dsp o == 0 && opx o < 2
  | .vadd o => fpOrInt o.et && rndOk o && fnOnly o 1 && rowName o.d && rowName o.a && rowName o.b && o.c == 0
  | .vsub o => fpOrInt o.et && rndOk o && fnOnly o 1 && rowName o.d && rowName o.a && rowName o.b && o.c == 0
  | .vmul o => fpOrInt o.et && rndOk o && fnOnly o 1 && rowName o.d && rowName o.a && rowName o.b && o.c == 0
  | .vfma o => fpOrInt o.et && rndOk o && fnOnly o 1 && rowName o.d && rowName o.a && rowName o.b && rowName o.c
  | .vfms o => fpOrInt o.et && rndOk o && fnOnly o 1 && rowName o.d && rowName o.a && rowName o.b && rowName o.c
  | .vmax o => fpOrInt o.et && o.rnd == 0 && o.fn == 0 && rowName o.d && rowName o.a && rowName o.b && o.c == 0
  | .vmin o => fpOrInt o.et && o.rnd == 0 && o.fn == 0 && rowName o.d && rowName o.a && rowName o.b && o.c == 0
  | .vabs o => fpOrInt o.et && o.rnd == 0 && fnOnly o 1 && (isInt o.et || o.fn == 0) && rowName o.d && rowName o.a && o.b == 0 && o.c == 0
  | .vneg o => fpOrInt o.et && o.rnd == 0 && fnOnly o 1 && (isInt o.et || o.fn == 0) && rowName o.d && rowName o.a && o.b == 0 && o.c == 0
  | .vand o => o.et == 0 && o.rnd == 0 && o.fn == 0 && rowName o.d && rowName o.a && rowName o.b && o.c == 0
  | .vor o => o.et == 0 && o.rnd == 0 && o.fn == 0 && rowName o.d && rowName o.a && rowName o.b && o.c == 0
  | .vxor o => o.et == 0 && o.rnd == 0 && o.fn == 0 && rowName o.d && rowName o.a && rowName o.b && o.c == 0
  | .vshl o => isInt o.et && o.rnd == 0 && fnOnly o 0x83F && rowName o.d && rowName o.a && o.c == 0 &&
      (if fnBit o 11 then o.b == 0 else rowName o.b && fnFld o 0 6 == 0)
  | .vshr o => isInt o.et && o.rnd == 0 && fnOnly o 0x83F && rowName o.d && rowName o.a && o.c == 0 &&
      (if fnBit o 11 then o.b == 0 else rowName o.b && fnFld o 0 6 == 0)
  | .vsra o => isInt o.et && o.rnd == 0 && fnOnly o 0x83F && rowName o.d && rowName o.a && o.c == 0 &&
      (if fnBit o 11 then o.b == 0 else rowName o.b && fnFld o 0 6 == 0)
  | .vcmp o => fpOrInt o.et && o.rnd == 0 && fnOnly o 7 && fnFld o 0 3 != 7 && !(isInt o.et && fnFld o 0 3 == 6) && rowName o.d && rowName o.a &&
      rowName o.b && o.c == 0
  | .vsel o => setW o.et && o.rnd == 0 && o.fn == 0 && rowName o.d && rowName o.a && rowName o.b && rowName o.c
  | .vcvt o => cvtWf o
  | .vqblk o => (isF8 o.et || o.et == 5) && o.rnd.toNat < 5 && fnOnly o 0xFA0 && fnFld o 7 3 < (if o.et == 5 then 8 else 4) && rowName o.d && rowName o.a &&
      rowName o.b && o.c == 0
  | .vrcp o => isFp o.et && o.rnd.toNat < 5 && fnOnly o 0x10 && rowName o.d && rowName o.a && o.b == 0 && o.c == 0
  | .vrsq o => isFp o.et && o.rnd.toNat < 5 && fnOnly o 0x10 && rowName o.d && rowName o.a && o.b == 0 && o.c == 0
  | .vexp2 o => isFp o.et && o.rnd.toNat < 5 && fnOnly o 0x10 && rowName o.d && rowName o.a && o.b == 0 && o.c == 0
  | .vlog2 o => isFp o.et && o.rnd.toNat < 5 && fnOnly o 0x10 && rowName o.d && rowName o.a && o.b == 0 && o.c == 0
  | .vtie o => isFp o.et && o.rnd.toNat < 5 && fnOnly o 0x13 && rowName o.d && rowName o.a && o.b == 0 && o.c == 0
  | .vtld o => o.et == 0 && o.rnd == 0 && fnOnly o 0xF && o.d == 0 && rowName o.a && o.b == 0 && o.c == 0
  | .vred o => redWf o
  | .vbcast o => setW o.et && o.rnd == 0 && fnOnly o 0x3FF && rowName o.d && o.b == 0 && o.c == 0 &&
      (if qWord o.a then fnFld o 0 10 == 0 else rowName o.a && fnFld o 0 10 < lanes o.et)
  | .vperm o => setW o.et && o.rnd == 0 && o.fn == 0 && rowName o.d && rowName o.a && rowName o.c && (if width o.et == 8 then rowName o.b else o.b == 0)
  | .vpack o => setW o.et && o.rnd == 0 && fnOnly o 0xE00 && (fnBit o 11 || fnFld o 9 2 == 0) && rowName o.d && rowName o.a && o.b == 0 && rowName o.c
  | .vunpk o => setW o.et && o.rnd == 0 && o.fn == 0 && rowName o.d && rowName o.a && rowName o.b && rowName o.c
  | .vmov o => o.et == 0 && o.rnd == 0 && o.fn == 0 && rowName o.d && rowName o.a && o.b == 0 && o.c == 0
  | .vidx o => (o.et == 0 || isInt o.et) && o.rnd == 0 && rowName o.d && o.a == 0 && o.b == 0 && o.c == 0
  | .vwin o => o.et == 0 && o.rnd == 0 && fnOnly o 0x7F && winOk o.d.toNat o.a.toNat (fnFld o 0 7) && o.b == 0 && o.c == 0
  | .vamax o => (isFp o.et || isF8 o.et) && o.rnd == 0 && o.fn == 0 && o.d == 0 && rowName o.a && o.b == 0 && o.c == 0
  | .vrng o => (o.et == 7 || o.et == 9 || o.et == 11) && o.rnd == 0 && o.fn == 0 && rowName o.d && o.a == 0 && o.b == 0 && o.c == 0
  | .vclr o => o.et == 0 && o.rnd == 0 && o.fn == 0 && rowName o.d && o.a == 0 && o.b == 0 && o.c == 0
  | .mma _ _ _ et _ => et.toNat < 4 || et == 5 || et == 6
  | .mmas _ _ _ et _ => et.toNat < 4 || et == 5 || et == 6
  | .mmax _ _ _ et _ => et == 0 || et == 1 || et == 4
  | .mtile _ _ _ et _ => et.toNat < 4 || et == 5 || et == 6
  | .mbsel _ _ _ => true
  | .maclr _ d n => d.toNat + n.toNat ≤ 127
  | .macmv _ d s n => d.toNat + n.toNat ≤ 127 && s.toNat + n.toNat ≤ 127
  | .mwake _ _ => true
  | .mmsk _ m b r q => (match m.toNat with | 0 => b == 0 && r == 0 && q == 0 | 1 => r == 0 && q == 0 | 2 => true | _ => false)
  | .mscl _ _ _ => true
  | .mtrn _ d s _ => d.toNat + 31 ≤ 127 && s.toNat + 31 ≤ 127
  | .mspx _ _ => true
  | .sopdef _ _ _ => true
  | .scan _ _ _ _ => true
  | .sup _ _ _ _ => true
  | .sdn _ _ _ _ => true
  | .sxsc _ _ _ _ => true
  | .slbk _ _ _ _ => true
  | .scsnd _ _ _ _ => true
  | .scrcv _ _ _ _ => true
  | .pbind _ _ => true
  | .pbindPair _ _ _ => true
  | .punb _ _ => true
  | .pld _ _ _ _ => true
  | .pst _ _ _ _ => true
  | .step _ _ _ _ _ => true
  | .pspill _ _ sw _ now => !now || sw == 0
  | .pfill _ _ sw _ now => !now || sw == 0
  | .pshd _ _ => true
  | .coll o => lkWf o && o.chv && o.fn == 0
  | .radd o => lkWf o && o.chv && o.fn.toNat < 11
  | .send o => lkWf o && o.chv && o.fn.toNat < 2
  | .recv o => lkWf o && o.chv && o.fn.toNat < 2
  | .put o => lkWf o && o.chv && o.fn.toNat < 2
  | .get o => lkWf o && o.chv && o.fn.toNat < 2
  | .append o => lkWf o && o.chv
  | .pred o => lkWf o && o.chv && o.fn.toNat < 2
  | .lbar o => lkWf o && o.chv
  | .grpdef o => lkWf o && o.chv && o.fn.toNat < 2
  | .lquiet o => lkWf o && !o.chv && o.fn == 0
  | .lfence o => lkWf o && !o.chv && o.fn == 0
  | .lldl _ => true
  | .lbias _ _ => true
  | .lpen _ _ _ m => m != 3
  | .ltemp _ _ _ => true
  | .lmask _ _ => true
  | .lmax _ _ => true
  | .lsubx _ _ _ => true
  | .lsum _ _ _ => true
  | .llogp _ _ => true
  | .ltopk _ _ _ => true
  | .ltopp _ _ _ => true
  | .lminp _ _ _ => true
  | .lgumb _ _ => true
  | .larg _ _ => true
  | .lcmp _ _ _ c => c != 7
  | .lcmpK _ _ _ c => c != 7
  | .lsel _ _ _ _ => true
  | .lmov _ _ => true
  | .lmovK _ _ => true
  | .lldk _ s => 1 ≤ s.toNat && s.toNat ≤ 5
  | .lldkLit _ s _ => s == 0
  | .lcnt _ => true
  | .lskip k m _ c => c.toNat < 5 && m != 0 && !(c == 4 && k != 0)
  | .lemit _ _ => true
  | .lgrp _ s => s.toNat < 5
  | .lgrpAddcum _ _ => true
  | .lend => true
  | .ladd _ _ _ => true
  | .laddK _ _ _ => true
  | .unassignedOpcode _ _ _ => false
  | .packageReset => true
  | .securityCoreError => true
  | .thermalTrip => true
  | .thermalRelease => true
  | .weirWindow => true
  | .throttleHoldEnd => true
  | .weirSlopeWrite => true
  | .timeFreqWrite => true
  | .timeFreqApply => true
  | .timeStartWrite => true
  | .epochStart => true
  | .ppsEdge => true
  | .eventMessage => true
  | .telemetrySample => true
  | .teleWrite => true
  | .subarrayGate => true
  | .flitReplay => true
  | .portDown => true
  | .linkProtocolError => true
  | .portEnable => true
  | .portDisable => true
  | .routeWrite => true
  | .ctmoWrite => true
  | .contributionArrival => true
  | .contributionRetry => true
  | .collectiveCommit => true
  | .collectiveTimeout => true
  | .towpathArrival => true
  | .cxlPortDown => true
  | .sliceAccess => true
  | .lineFill => true
  | .writeBack => true
  | .dramScrub => true
  | .basinMapWrite => true
  | .basinMapApply => true
  | .movedone => true
  | .carveCreate => true
  | .carveReady => true
  | .carveRelease => true
  | .shootdownGo => true
  | .shootdownTileClean => true
  | .shootdownBasinClean => true
  | .shootdownRelease => true
  | .migrationCopy => true
  | .pagerReply => true
  | .hostRead => true
  | .hostWrite => true
  | .flr => true
  | .qbaseWrite => true
  | .qctlWrite => true
  | .qctlFlush => true
  | .qtailWrite => true
  | .ringConfigWrite => true
  | .partCtlRst => true
  | .partRstTrig => true
  | .partitionAbortDone => true
  | .partRstGo => true
  | .partitionQuiesceDone => true
  | .partitionClearDone => true
  | .partHerrClear => true
  | .partFrconsWrite => true
  | .partFrctlClr => true
  | .partSaveWrite => true
  | .partHwinWrite => true
  | .assign => true
  | .release => true
  | .clearDone => true
  | .setwt => true
  | .enable => true
  | .disable => true
  | .attest => true
  | .watchdogExpiry => true
  | .bargeHeadRead => true
  | .bargeSelect => true
  | .channelTableRead => true
  | .gangStart => true
  | .joinDecrement => true
  | .sliceCtlWrite => true
  | .sliceSwitch => true
  | .contextSaveDone => true
  | .sliceResume => true
  | .gangRestore => true
  | .restoreDone => true
  | .gwConfigWrite => true
  | .gwStart => true
  | .gwStop => true
  | .bargeNode => true
  | .engineNode => true
  | .waitNode => true
  | .raiseNode => true
  | .condNode => true
  | .loopNode => true
  | .switchNode => true
  | .rearmNode => true
  | .endNode => true
  | .fetchLine => true
  | .trapEntry => true
  | .stallWireFreeze => true
  | .stallWireResume => true
  | .scheduleMissRecovery => true
  | .schedmiss => true
  | .sequencerAdvance => true
  | .barrierComplete => true
  | .flightLevel => true
  | .messageArrival => true
  | .multicastLineArrival => true
  | .sendMatch => true
  | .sluiceSequence => true
  | .acceptSequence => true
  | .commitUnit => true
  | .jobEnd => true
  | .coalesceTimer => true
  | .beat => true
  | .judgement => true
  | .evaluation => true
  | .appealStart => true
  | .selfTestEnd => true
  | .selfTestTimeout => true
  | .watchCmdFence => true
  | .watchCtlEn => true
  | .registerWrite => true
  | .bridgeFailure => true
  | .laneLoss => true
  | .switchAbandon => true
  | .putArrival => true
  | .protocolViolation => true
  | .commandEnd => true

end Sys2Proof
end

