-- ==== Sys2Proof/Decode.lean ====
section
/-! DEFINITION. The decoder and the encoder of the instruction words (R258 to R272), and the fields they read. The decoder is
total: a word that no row of the opcode map matches decodes to `unassignedOpcode` with its column and its bits, and that
instruction's meaning is the fate R260 gives it. The encoder is written from the same tables. -/
namespace Sys2Proof

/-- Bits `lo + n - 1` down to `lo` of a lane. -/
def fld (w : Lane) (lo n : Nat) : BitVec n := BitVec.ofNat n (w.toNat / 2 ^ lo)

/-- Bit `lo` of a lane. -/
def bit (w : Lane) (lo : Nat) : Bool := w.toNat / 2 ^ lo % 2 == 1

/-- The delay count and the token bits of a synchronous word (R258). -/
def tokOf (w : Lane) : Tok := ⟨fld w 23 3, bit w 22, bit w 21, bit w 20, bit w 19⟩

/-- The delay count and the token bits as they stand in a word. -/
def tokBits (t : Tok) : Nat :=
  t.dly.toNat * 2 ^ 23 + t.popL.toNat * 2 ^ 22 + t.popR.toNat * 2 ^ 21 + t.pushL.toNat * 2 ^ 20 + t.pushR.toNat * 2 ^ 19

/-- The words of column CT (R261, R269). -/
def decodeCt (w : Lane) (e : Option Lane) : Option Instr :=
  match (fld w 26 6).toNat with
    | 1 => if e.isSome then none else if fld w 0 8 = 0 then some (.add ⟨fld w 21 5, fld w 16 5, fld w 11 5, bit w 10, bit w 9, bit w 8⟩) else none
    | 2 => if e.isSome then none else if fld w 0 8 = 0 then some (.sub ⟨fld w 21 5, fld w 16 5, fld w 11 5, bit w 10, bit w 9, bit w 8⟩) else none
    | 3 => if e.isSome then none else if fld w 0 8 = 0 then some (.and ⟨fld w 21 5, fld w 16 5, fld w 11 5, bit w 10, bit w 9, bit w 8⟩) else none
    | 4 => if e.isSome then none else if fld w 0 8 = 0 then some (.or ⟨fld w 21 5, fld w 16 5, fld w 11 5, bit w 10, bit w 9, bit w 8⟩) else none
    | 5 => if e.isSome then none else if fld w 0 8 = 0 then some (.xor ⟨fld w 21 5, fld w 16 5, fld w 11 5, bit w 10, bit w 9, bit w 8⟩) else none
    | 6 => if e.isSome then none else if fld w 0 8 = 0 then some (.sll ⟨fld w 21 5, fld w 16 5, fld w 11 5, bit w 10, bit w 9, bit w 8⟩) else none
    | 7 => if e.isSome then none else if fld w 0 8 = 0 then some (.srl ⟨fld w 21 5, fld w 16 5, fld w 11 5, bit w 10, bit w 9, bit w 8⟩) else none
    | 8 => if e.isSome then none else if fld w 0 8 = 0 then some (.sra ⟨fld w 21 5, fld w 16 5, fld w 11 5, bit w 10, bit w 9, bit w 8⟩) else none
    | 9 => if e.isSome then none else if fld w 0 8 = 0 then some (.slt ⟨fld w 21 5, fld w 16 5, fld w 11 5, bit w 10, bit w 9, bit w 8⟩) else none
    | 10 => if e.isSome then none else if fld w 0 8 = 0 then some (.sltu ⟨fld w 21 5, fld w 16 5, fld w 11 5, bit w 10, bit w 9, bit w 8⟩) else none
    | 11 => if e.isSome then none else if fld w 0 8 = 0 then some (.seq ⟨fld w 21 5, fld w 16 5, fld w 11 5, bit w 10, bit w 9, bit w 8⟩) else none
    | 12 => if e.isSome then none else if fld w 0 8 = 0 then some (.mul ⟨fld w 21 5, fld w 16 5, fld w 11 5, bit w 10, bit w 9, bit w 8⟩) else none
    | 13 => if e.isSome then none else if fld w 0 8 = 0 then some (.mulh ⟨fld w 21 5, fld w 16 5, fld w 11 5, bit w 10, bit w 9, bit w 8⟩) else none
    | 14 => if e.isSome then none else if fld w 0 8 = 0 then some (.div ⟨fld w 21 5, fld w 16 5, fld w 11 5, bit w 10, bit w 9, bit w 8⟩) else none
    | 15 => if e.isSome then none else if fld w 0 8 = 0 then some (.divu ⟨fld w 21 5, fld w 16 5, fld w 11 5, bit w 10, bit w 9, bit w 8⟩) else none
    | 16 => if e.isSome then none else if fld w 0 8 = 0 then some (.rem ⟨fld w 21 5, fld w 16 5, fld w 11 5, bit w 10, bit w 9, bit w 8⟩) else none
    | 17 => if e.isSome then none else if fld w 0 8 = 0 then some (.min ⟨fld w 21 5, fld w 16 5, fld w 11 5, bit w 10, bit w 9, bit w 8⟩) else none
    | 18 => if e.isSome then none else if fld w 0 8 = 0 then some (.max ⟨fld w 21 5, fld w 16 5, fld w 11 5, bit w 10, bit w 9, bit w 8⟩) else none
    | 19 => if e.isSome then none else some (.addi ⟨fld w 21 5, fld w 16 5, fld w 0 16⟩)
    | 20 => if e.isSome then none else some (.andi ⟨fld w 21 5, fld w 16 5, fld w 0 16⟩)
    | 21 => if e.isSome then none else some (.ori ⟨fld w 21 5, fld w 16 5, fld w 0 16⟩)
    | 22 => if e.isSome then none else some (.xori ⟨fld w 21 5, fld w 16 5, fld w 0 16⟩)
    | 23 => if e.isSome then none else if fld w 6 10 = 0 then some (.slli ⟨fld w 21 5, fld w 16 5, fld w 0 6⟩) else none
    | 24 => if e.isSome then none else if fld w 6 10 = 0 then some (.srli ⟨fld w 21 5, fld w 16 5, fld w 0 6⟩) else none
    | 25 => if e.isSome then none else if fld w 6 10 = 0 then some (.srai ⟨fld w 21 5, fld w 16 5, fld w 0 6⟩) else none
    | 26 => if e.isSome then none else some (.slti ⟨fld w 21 5, fld w 16 5, fld w 0 16⟩)
    | 27 => match e with
      | none => some (.ldi (fld w 21 5) (fld w 0 21))
      | some x => some (.ldiLong (fld w 21 5) (fld w 0 21) (fld x 0 32))
    | 28 => if e.isSome then none else if fld w 18 3 = 0 then some (.orhi (fld w 21 5) (fld w 16 2) (fld w 0 16)) else none
    | 29 => if e.isSome then none else some (.beq ⟨fld w 21 5, fld w 16 5, fld w 0 16⟩)
    | 30 => if e.isSome then none else some (.bne ⟨fld w 21 5, fld w 16 5, fld w 0 16⟩)
    | 31 => if e.isSome then none else some (.blt ⟨fld w 21 5, fld w 16 5, fld w 0 16⟩)
    | 32 => if e.isSome then none else some (.bge ⟨fld w 21 5, fld w 16 5, fld w 0 16⟩)
    | 33 => if e.isSome then none else some (.bltu ⟨fld w 21 5, fld w 16 5, fld w 0 16⟩)
    | 34 => if e.isSome then none else some (.bgeu ⟨fld w 21 5, fld w 16 5, fld w 0 16⟩)
    | 35 => if e.isSome then none else some (.jal (fld w 21 5) (fld w 0 21))
    | 36 => if e.isSome then none else some (.jalr ⟨fld w 21 5, fld w 16 5, fld w 0 16⟩)
    | 37 => if e.isSome then none else some (.lds ⟨fld w 21 5, fld w 16 5, fld w 14 2, bit w 13, fld w 0 13⟩)
    | 38 => if e.isSome then none else if fld w 13 1 = 0 then some (.sts ⟨fld w 21 5, fld w 16 5, fld w 14 2, fld w 0 13⟩) else none
    | 39 => if e.isSome then none else if fld w 0 19 = 0 then some (.fence (fld w 22 4) (fld w 19 3)) else none
    | 40 => if e.isSome then none else if fld w 0 12 = 0 then some (.cmo (fld w 24 2) (fld w 22 2) (fld w 17 5) (fld w 12 5)) else none
    | 41 => if e.isSome then none else if fld w 0 8 = 0 then some (.semw ⟨fld w 20 6, fld w 15 5, fld w 11 4, fld w 8 3⟩) else none
    | 42 => if e.isSome then none else if fld w 0 15 = 0 then some (.semr (fld w 21 5) (fld w 15 6)) else none
    | 43 => if e.isSome then none else if fld w 0 8 = 0 then some (.sems ⟨fld w 20 6, fld w 15 5, fld w 11 4, fld w 8 3⟩) else none
    | 44 => if e.isSome then none else if fld w 0 26 = 0 then some (.wfe) else none
    | 45 => if e.isSome then none else if fld w 0 26 = 0 then some (.sev) else none
    | 46 => if e.isSome then none else if fld w 0 22 = 0 then some (.gbar (fld w 22 4)) else none
    | 47 => if e.isSome then none else if fld w 0 16 = 0 ∧ fld w 21 5 = 0 then some (.mark (fld w 16 5)) else none
    | 48 => if e.isSome then none else if fld w 0 26 = 0 then some (.done) else none
    | 49 => if e.isSome then none else if fld w 0 2 = 0 ∧ fld w 7 1 = 0 then some (.mloop (fld w 20 6) (fld w 13 7) (fld w 8 5) (fld w 2 5)) else if fld w 0 8 = 128 then some (.mloopLcb (fld w 20 6) (fld w 13 7) (fld w 8 5)) else none
    | 50 => if e.isSome then none else if fld w 0 18 = 0 then some (.mlcb (fld w 23 3) (fld w 18 5)) else none
    | 51 => if e.isSome then none else if fld w 0 10 = 0 then some (.loop (fld w 21 5) (fld w 10 11)) else none
    | 52 => if e.isSome then none else if fld w 0 26 = 0 then some (.unloop) else none
    | 53 => if e.isSome then none else if fld w 0 17 = 0 then some (.rdid (fld w 21 5) (fld w 17 4)) else none
    | 54 => if e.isSome then none else if fld w 0 9 = 0 then some (.srr (fld w 21 5) (fld w 9 12)) else none
    | 55 => if e.isSome then none else if fld w 0 9 = 0 then some (.srw (fld w 21 5) (fld w 9 12)) else none
    | 56 => if e.isSome then none else if fld w 0 21 = 0 then some (.rdstamp (fld w 21 5)) else none
    | 57 => if e.isSome then none else if fld w 0 14 = 0 then some (.mova (fld w 19 7) (fld w 14 5)) else none
    | 58 => if e.isSome then none else if fld w 0 10 = 0 then some (.trap (fld w 10 16)) else none
    | 59 => if e.isSome then none else if fld w 0 26 = 0 then some (.eret) else none
    | 60 => if e.isSome then none else if fld w 0 26 = 0 then some (.halt) else none
    | _ => none

/-- The words of column LD (R262, R269). -/
def decodeLd (w : Lane) : Option Instr :=
  match (fld w 26 6).toNat with
    | 1 => if fld w 20 1 = 0 ∧ fld w 22 1 = 0 then some (.ldv ⟨fld w 23 3, bit w 21, bit w 19, fld w 15 4, fld w 11 4, fld w 8 3, fld w 0 8⟩) else none
    | 2 => if fld w 20 1 = 0 ∧ fld w 22 1 = 0 then some (.ldq ⟨fld w 23 3, bit w 21, bit w 19, fld w 15 4, fld w 11 4, fld w 8 3, fld w 0 8⟩) else none
    | 3 => if fld w 15 4 = 0 ∧ fld w 20 1 = 0 ∧ fld w 22 1 = 0 then some (.ldt ⟨fld w 23 3, bit w 21, bit w 19, fld w 11 4, fld w 8 3, fld w 0 8⟩) else none
    | 4 => if fld w 20 1 = 0 ∧ fld w 22 1 = 0 then some (.ldg ⟨fld w 23 3, bit w 21, bit w 19, fld w 15 4, fld w 11 4, fld w 8 3, fld w 0 8⟩) else none
    | 5 => if fld w 15 4 = 0 ∧ fld w 20 1 = 0 ∧ fld w 22 1 = 0 then some (.ldb ⟨fld w 23 3, bit w 21, bit w 19, fld w 11 4, fld w 8 3, fld w 0 8⟩) else none
    | 6 => if fld w 20 1 = 0 ∧ fld w 22 1 = 0 then some (.ldsc ⟨fld w 23 3, bit w 21, bit w 19, fld w 15 4, fld w 11 4, fld w 8 3, fld w 0 8⟩) else none
    | 7 => if fld w 20 1 = 0 ∧ fld w 22 1 = 0 then some (.ldp ⟨fld w 23 3, bit w 21, bit w 19, fld w 15 4, fld w 11 4, fld w 8 3, fld w 0 8⟩) else none
    | 8 => if fld w 0 8 = 0 ∧ fld w 15 4 = 0 ∧ fld w 20 1 = 0 ∧ fld w 22 1 = 0 then some (.lpf ⟨fld w 23 3, bit w 21, bit w 19, fld w 11 4, fld w 8 3⟩) else none
    | 9 => if fld w 20 1 = 0 ∧ fld w 22 1 = 0 then some (.ldx ⟨fld w 23 3, bit w 21, bit w 19, fld w 15 4, fld w 11 4, fld w 8 3, fld w 0 8⟩) else none
    | 10 => if fld w 20 1 = 0 ∧ fld w 22 1 = 0 then some (.ldbc ⟨fld w 23 3, bit w 21, bit w 19, fld w 15 4, fld w 11 4, fld w 8 3, fld w 0 8⟩) else none
    | _ => none

/-- The words of column ST (R262, R269). -/
def decodeSt (w : Lane) : Option Instr :=
  match (fld w 26 6).toNat with
    | 1 => some (.stv ⟨tokOf w, fld w 15 4, fld w 11 4, fld w 8 3, fld w 0 8⟩)
    | 2 => some (.stq ⟨tokOf w, fld w 15 4, fld w 11 4, fld w 8 3, fld w 0 8⟩)
    | 3 => if fld w 15 4 = 0 then some (.stt ⟨tokOf w, fld w 11 4, fld w 8 3, fld w 0 8⟩) else none
    | 4 => some (.sct ⟨tokOf w, fld w 15 4, fld w 11 4, fld w 8 3, fld w 0 8⟩)
    | 5 => some (.stp ⟨tokOf w, fld w 15 4, fld w 11 4, fld w 8 3, fld w 0 8⟩)
    | 6 => some (.stc ⟨tokOf w, fld w 15 4, fld w 11 4, fld w 8 3, fld w 0 8⟩)
    | 7 => if fld w 0 8 = 0 then some (.stz ⟨tokOf w, fld w 15 4, fld w 11 4, fld w 8 3⟩) else none
    | 8 => some (.stm ⟨tokOf w, fld w 15 4, fld w 11 4, fld w 8 3, fld w 0 8⟩)
    | _ => none

/-- The words of column VX (R263, R269). -/
def decodeVx (w x : Lane) : Option Instr :=
  match (fld w 26 6).toNat with
    | 1 => some (.vadd ⟨tokOf w, fld w 15 4, fld w 12 3, fld w 0 12, fld x 24 8, fld x 16 8, fld x 8 8, fld x 0 8⟩)
    | 2 => some (.vsub ⟨tokOf w, fld w 15 4, fld w 12 3, fld w 0 12, fld x 24 8, fld x 16 8, fld x 8 8, fld x 0 8⟩)
    | 3 => some (.vmul ⟨tokOf w, fld w 15 4, fld w 12 3, fld w 0 12, fld x 24 8, fld x 16 8, fld x 8 8, fld x 0 8⟩)
    | 4 => some (.vfma ⟨tokOf w, fld w 15 4, fld w 12 3, fld w 0 12, fld x 24 8, fld x 16 8, fld x 8 8, fld x 0 8⟩)
    | 5 => some (.vfms ⟨tokOf w, fld w 15 4, fld w 12 3, fld w 0 12, fld x 24 8, fld x 16 8, fld x 8 8, fld x 0 8⟩)
    | 6 => some (.vmax ⟨tokOf w, fld w 15 4, fld w 12 3, fld w 0 12, fld x 24 8, fld x 16 8, fld x 8 8, fld x 0 8⟩)
    | 7 => some (.vmin ⟨tokOf w, fld w 15 4, fld w 12 3, fld w 0 12, fld x 24 8, fld x 16 8, fld x 8 8, fld x 0 8⟩)
    | 8 => some (.vabs ⟨tokOf w, fld w 15 4, fld w 12 3, fld w 0 12, fld x 24 8, fld x 16 8, fld x 8 8, fld x 0 8⟩)
    | 9 => some (.vneg ⟨tokOf w, fld w 15 4, fld w 12 3, fld w 0 12, fld x 24 8, fld x 16 8, fld x 8 8, fld x 0 8⟩)
    | 10 => some (.vand ⟨tokOf w, fld w 15 4, fld w 12 3, fld w 0 12, fld x 24 8, fld x 16 8, fld x 8 8, fld x 0 8⟩)
    | 11 => some (.vor ⟨tokOf w, fld w 15 4, fld w 12 3, fld w 0 12, fld x 24 8, fld x 16 8, fld x 8 8, fld x 0 8⟩)
    | 12 => some (.vxor ⟨tokOf w, fld w 15 4, fld w 12 3, fld w 0 12, fld x 24 8, fld x 16 8, fld x 8 8, fld x 0 8⟩)
    | 13 => some (.vshl ⟨tokOf w, fld w 15 4, fld w 12 3, fld w 0 12, fld x 24 8, fld x 16 8, fld x 8 8, fld x 0 8⟩)
    | 14 => some (.vshr ⟨tokOf w, fld w 15 4, fld w 12 3, fld w 0 12, fld x 24 8, fld x 16 8, fld x 8 8, fld x 0 8⟩)
    | 15 => some (.vsra ⟨tokOf w, fld w 15 4, fld w 12 3, fld w 0 12, fld x 24 8, fld x 16 8, fld x 8 8, fld x 0 8⟩)
    | 16 => some (.vcmp ⟨tokOf w, fld w 15 4, fld w 12 3, fld w 0 12, fld x 24 8, fld x 16 8, fld x 8 8, fld x 0 8⟩)
    | 17 => some (.vsel ⟨tokOf w, fld w 15 4, fld w 12 3, fld w 0 12, fld x 24 8, fld x 16 8, fld x 8 8, fld x 0 8⟩)
    | 18 => some (.vcvt ⟨tokOf w, fld w 15 4, fld w 12 3, fld w 0 12, fld x 24 8, fld x 16 8, fld x 8 8, fld x 0 8⟩)
    | 19 => some (.vqblk ⟨tokOf w, fld w 15 4, fld w 12 3, fld w 0 12, fld x 24 8, fld x 16 8, fld x 8 8, fld x 0 8⟩)
    | 20 => some (.vrcp ⟨tokOf w, fld w 15 4, fld w 12 3, fld w 0 12, fld x 24 8, fld x 16 8, fld x 8 8, fld x 0 8⟩)
    | 21 => some (.vrsq ⟨tokOf w, fld w 15 4, fld w 12 3, fld w 0 12, fld x 24 8, fld x 16 8, fld x 8 8, fld x 0 8⟩)
    | 22 => some (.vexp2 ⟨tokOf w, fld w 15 4, fld w 12 3, fld w 0 12, fld x 24 8, fld x 16 8, fld x 8 8, fld x 0 8⟩)
    | 23 => some (.vlog2 ⟨tokOf w, fld w 15 4, fld w 12 3, fld w 0 12, fld x 24 8, fld x 16 8, fld x 8 8, fld x 0 8⟩)
    | 24 => some (.vtie ⟨tokOf w, fld w 15 4, fld w 12 3, fld w 0 12, fld x 24 8, fld x 16 8, fld x 8 8, fld x 0 8⟩)
    | 25 => some (.vtld ⟨tokOf w, fld w 15 4, fld w 12 3, fld w 0 12, fld x 24 8, fld x 16 8, fld x 8 8, fld x 0 8⟩)
    | 26 => some (.vred ⟨tokOf w, fld w 15 4, fld w 12 3, fld w 0 12, fld x 24 8, fld x 16 8, fld x 8 8, fld x 0 8⟩)
    | 27 => some (.vbcast ⟨tokOf w, fld w 15 4, fld w 12 3, fld w 0 12, fld x 24 8, fld x 16 8, fld x 8 8, fld x 0 8⟩)
    | 28 => some (.vperm ⟨tokOf w, fld w 15 4, fld w 12 3, fld w 0 12, fld x 24 8, fld x 16 8, fld x 8 8, fld x 0 8⟩)
    | 29 => some (.vpack ⟨tokOf w, fld w 15 4, fld w 12 3, fld w 0 12, fld x 24 8, fld x 16 8, fld x 8 8, fld x 0 8⟩)
    | 30 => some (.vunpk ⟨tokOf w, fld w 15 4, fld w 12 3, fld w 0 12, fld x 24 8, fld x 16 8, fld x 8 8, fld x 0 8⟩)
    | 31 => some (.vmov ⟨tokOf w, fld w 15 4, fld w 12 3, fld w 0 12, fld x 24 8, fld x 16 8, fld x 8 8, fld x 0 8⟩)
    | 32 => some (.vidx ⟨tokOf w, fld w 15 4, fld w 12 3, fld w 0 12, fld x 24 8, fld x 16 8, fld x 8 8, fld x 0 8⟩)
    | 33 => some (.vwin ⟨tokOf w, fld w 15 4, fld w 12 3, fld w 0 12, fld x 24 8, fld x 16 8, fld x 8 8, fld x 0 8⟩)
    | 34 => some (.vamax ⟨tokOf w, fld w 15 4, fld w 12 3, fld w 0 12, fld x 24 8, fld x 16 8, fld x 8 8, fld x 0 8⟩)
    | 35 => some (.vrng ⟨tokOf w, fld w 15 4, fld w 12 3, fld w 0 12, fld x 24 8, fld x 16 8, fld x 8 8, fld x 0 8⟩)
    | 36 => some (.vclr ⟨tokOf w, fld w 15 4, fld w 12 3, fld w 0 12, fld x 24 8, fld x 16 8, fld x 8 8, fld x 0 8⟩)
    | _ => none

/-- The words of column MX (R264, R269). -/
def decodeMx (w : Lane) (x : Option Lane) : Option Instr :=
  match (fld w 26 6).toNat with
    | 1 => if fld w 0 5 = 0 then some (.mma ⟨tokOf w, x⟩ (fld w 12 7) (fld w 9 3) (fld w 6 3) (bit w 5)) else none
    | 2 => if fld w 0 5 = 0 then some (.mmas ⟨tokOf w, x⟩ (fld w 12 7) (fld w 9 3) (fld w 6 3) (bit w 5)) else none
    | 3 => if fld w 0 5 = 0 then some (.mmax ⟨tokOf w, x⟩ (fld w 12 7) (fld w 9 3) (fld w 6 3) (bit w 5)) else none
    | 4 => if fld w 0 5 = 0 then some (.mtile ⟨tokOf w, x⟩ (fld w 12 7) (fld w 9 3) (fld w 6 3) (bit w 5)) else none
    | 5 => if fld w 6 13 = 0 then some (.mbsel ⟨tokOf w, x⟩ (fld w 4 2) (fld w 0 4)) else none
    | 6 => if fld w 5 7 = 0 then some (.maclr ⟨tokOf w, x⟩ (fld w 12 7) (fld w 0 5)) else none
    | 7 => some (.macmv ⟨tokOf w, x⟩ (fld w 12 7) (fld w 5 7) (fld w 0 5))
    | 8 => if fld w 4 15 = 0 then some (.mwake ⟨tokOf w, x⟩ (fld w 0 4)) else none
    | 9 => if fld w 0 2 = 0 then some (.mmsk ⟨tokOf w, x⟩ (fld w 17 2) (fld w 10 7) (fld w 6 4) (fld w 2 4)) else none
    | 10 => if fld w 11 6 = 0 ∧ fld w 18 1 = 0 then some (.mscl ⟨tokOf w, x⟩ (fld w 17 1) (fld w 0 11)) else none
    | 11 => if fld w 2 3 = 0 then some (.mtrn ⟨tokOf w, x⟩ (fld w 12 7) (fld w 5 7) (fld w 0 2)) else none
    | 12 => if fld w 0 9 = 0 ∧ fld w 12 7 = 0 then some (.mspx ⟨tokOf w, x⟩ (fld w 9 3)) else none
    | _ => none

/-- The words of column SQ (R265, R269). -/
def decodeSq (w : Lane) (x : Option Lane) : Option Instr :=
  match (fld w 26 6).toNat with
    | 1 => if fld w 0 3 = 0 ∧ fld w 10 6 = 0 then some (.sopdef ⟨tokOf w, x⟩ (fld w 16 3) (fld w 3 7)) else none
    | 2 => if fld w 0 3 = 0 then some (.scan ⟨tokOf w, x⟩ (fld w 16 3) (fld w 10 6) (fld w 3 7)) else none
    | 3 => if fld w 0 3 = 0 then some (.sup ⟨tokOf w, x⟩ (fld w 16 3) (fld w 10 6) (fld w 3 7)) else none
    | 4 => if fld w 0 3 = 0 then some (.sdn ⟨tokOf w, x⟩ (fld w 16 3) (fld w 10 6) (fld w 3 7)) else none
    | 5 => if fld w 0 3 = 0 then some (.sxsc ⟨tokOf w, x⟩ (fld w 16 3) (fld w 10 6) (fld w 3 7)) else none
    | 6 => if fld w 0 2 = 0 then some (.slbk ⟨tokOf w, x⟩ (fld w 16 3) (fld w 9 7) (fld w 2 7)) else none
    | 7 => some (.scsnd ⟨tokOf w, x⟩ (fld w 11 8) (fld w 3 8) (fld w 0 3))
    | 8 => some (.scrcv ⟨tokOf w, x⟩ (fld w 11 8) (fld w 3 8) (fld w 0 3))
    | 9 => if fld w 0 13 = 0 then some (.pbind ⟨tokOf w, x⟩ (fld w 13 6)) else if fld w 0 7 = 64 then some (.pbindPair ⟨tokOf w, x⟩ (fld w 13 6) (fld w 7 6)) else none
    | 10 => if fld w 0 13 = 0 then some (.punb ⟨tokOf w, x⟩ (fld w 13 6)) else none
    | 11 => if fld w 0 2 = 0 then some (.pld ⟨tokOf w, x⟩ (fld w 13 6) (fld w 9 4) (fld w 2 7)) else none
    | 12 => if fld w 0 2 = 0 then some (.pst ⟨tokOf w, x⟩ (fld w 13 6) (fld w 9 4) (fld w 2 7)) else none
    | 13 => some (.step ⟨tokOf w, x⟩ (fld w 13 6) (fld w 9 4) (fld w 6 3) (fld w 0 6))
    | 14 => some (.pspill ⟨tokOf w, x⟩ (fld w 13 6) (fld w 7 6) (fld w 1 6) (bit w 0))
    | 15 => some (.pfill ⟨tokOf w, x⟩ (fld w 13 6) (fld w 7 6) (fld w 1 6) (bit w 0))
    | 16 => if fld w 0 13 = 0 then some (.pshd ⟨tokOf w, x⟩ (fld w 13 6)) else none
    | _ => none

/-- The words of column LK (R267, R269). -/
def decodeLk (w x : Lane) : Option Instr :=
  match (fld w 26 6).toNat with
    | 1 => if fld w 0 2 = 0 then some (.coll ⟨tokOf w, fld w 11 8, fld w 5 6, bit w 4, bit w 3, bit w 2, fld x 26 6, fld x 23 3, bit x 22, fld x 18 4, fld x 14 4, fld x 0 14⟩) else none
    | 2 => if fld w 0 2 = 0 then some (.radd ⟨tokOf w, fld w 11 8, fld w 5 6, bit w 4, bit w 3, bit w 2, fld x 26 6, fld x 23 3, bit x 22, fld x 18 4, fld x 14 4, fld x 0 14⟩) else none
    | 3 => if fld w 0 2 = 0 then some (.send ⟨tokOf w, fld w 11 8, fld w 5 6, bit w 4, bit w 3, bit w 2, fld x 26 6, fld x 23 3, bit x 22, fld x 18 4, fld x 14 4, fld x 0 14⟩) else none
    | 4 => if fld w 0 2 = 0 then some (.recv ⟨tokOf w, fld w 11 8, fld w 5 6, bit w 4, bit w 3, bit w 2, fld x 26 6, fld x 23 3, bit x 22, fld x 18 4, fld x 14 4, fld x 0 14⟩) else none
    | 5 => if fld w 0 2 = 0 then some (.put ⟨tokOf w, fld w 11 8, fld w 5 6, bit w 4, bit w 3, bit w 2, fld x 26 6, fld x 23 3, bit x 22, fld x 18 4, fld x 14 4, fld x 0 14⟩) else none
    | 6 => if fld w 0 2 = 0 then some (.get ⟨tokOf w, fld w 11 8, fld w 5 6, bit w 4, bit w 3, bit w 2, fld x 26 6, fld x 23 3, bit x 22, fld x 18 4, fld x 14 4, fld x 0 14⟩) else none
    | 7 => if fld w 0 2 = 0 then some (.append ⟨tokOf w, fld w 11 8, fld w 5 6, bit w 4, bit w 3, bit w 2, fld x 26 6, fld x 23 3, bit x 22, fld x 18 4, fld x 14 4, fld x 0 14⟩) else none
    | 8 => if fld w 0 2 = 0 then some (.pred ⟨tokOf w, fld w 11 8, fld w 5 6, bit w 4, bit w 3, bit w 2, fld x 26 6, fld x 23 3, bit x 22, fld x 18 4, fld x 14 4, fld x 0 14⟩) else none
    | 9 => if fld w 0 2 = 0 then some (.lbar ⟨tokOf w, fld w 11 8, fld w 5 6, bit w 4, bit w 3, bit w 2, fld x 26 6, fld x 23 3, bit x 22, fld x 18 4, fld x 14 4, fld x 0 14⟩) else none
    | 10 => if fld w 0 2 = 0 then some (.grpdef ⟨tokOf w, fld w 11 8, fld w 5 6, bit w 4, bit w 3, bit w 2, fld x 26 6, fld x 23 3, bit x 22, fld x 18 4, fld x 14 4, fld x 0 14⟩) else none
    | 11 => if fld w 0 2 = 0 then some (.lquiet ⟨tokOf w, fld w 11 8, fld w 5 6, bit w 4, bit w 3, bit w 2, fld x 26 6, fld x 23 3, bit x 22, fld x 18 4, fld x 14 4, fld x 0 14⟩) else none
    | 12 => if fld w 0 2 = 0 then some (.lfence ⟨tokOf w, fld w 11 8, fld w 5 6, bit w 4, bit w 3, bit w 2, fld x 26 6, fld x 23 3, bit x 22, fld x 18 4, fld x 14 4, fld x 0 14⟩) else none
    | _ => none

/-- The words of column CE (R267, R269). -/
def decodeCe (w x : Lane) : Option Instr :=
  match (fld w 26 6).toNat with
    | 1 => some (.copy ⟨fld w 18 8, fld w 12 6, fld w 6 6, fld w 3 3, bit w 2, bit w 1, bit w 0, bit x 31, fld x 27 4, fld x 20 7, fld x 0 20⟩)
    | 2 => some (.copya ⟨fld w 18 8, fld w 12 6, fld w 6 6, fld w 3 3, bit w 2, bit w 1, bit w 0, bit x 31, fld x 27 4, fld x 20 7, fld x 0 20⟩)
    | 3 => some (.fill ⟨fld w 18 8, fld w 12 6, fld w 6 6, fld w 3 3, bit w 2, bit w 1, bit w 0, bit x 31, fld x 27 4, fld x 20 7, fld x 0 20⟩)
    | 4 => some (.accw ⟨fld w 18 8, fld w 12 6, fld w 6 6, fld w 3 3, bit w 2, bit w 1, bit w 0, bit x 31, fld x 27 4, fld x 20 7, fld x 0 20⟩)
    | 5 => some (.xadd ⟨fld w 18 8, fld w 12 6, fld w 6 6, fld w 3 3, bit w 2, bit w 1, bit w 0, bit x 31, fld x 27 4, fld x 20 7, fld x 0 20⟩)
    | 6 => some (.cas ⟨fld w 18 8, fld w 12 6, fld w 6 6, fld w 3 3, bit w 2, bit w 1, bit w 0, bit x 31, fld x 27 4, fld x 20 7, fld x 0 20⟩)
    | 7 => some (.mcast ⟨fld w 18 8, fld w 12 6, fld w 6 6, fld w 3 3, bit w 2, bit w 1, bit w 0, bit x 31, fld x 27 4, fld x 20 7, fld x 0 20⟩)
    | 8 => some (.msend ⟨fld w 18 8, fld w 12 6, fld w 6 6, fld w 3 3, bit w 2, bit w 1, bit w 0, bit x 31, fld x 27 4, fld x 20 7, fld x 0 20⟩)
    | 9 => some (.mrecv ⟨fld w 18 8, fld w 12 6, fld w 6 6, fld w 3 3, bit w 2, bit w 1, bit w 0, bit x 31, fld x 27 4, fld x 20 7, fld x 0 20⟩)
    | 10 => some (.cmoa ⟨fld w 18 8, fld w 12 6, fld w 6 6, fld w 3 3, bit w 2, bit w 1, bit w 0, bit x 31, fld x 27 4, fld x 20 7, fld x 0 20⟩)
    | 11 => some (.pfb ⟨fld w 18 8, fld w 12 6, fld w 6 6, fld w 3 3, bit w 2, bit w 1, bit w 0, bit x 31, fld x 27 4, fld x 20 7, fld x 0 20⟩)
    | 12 => some (.ceflush ⟨fld w 18 8, fld w 12 6, fld w 6 6, fld w 3 3, bit w 2, bit w 1, bit w 0, bit x 31, fld x 27 4, fld x 20 7, fld x 0 20⟩)
    | _ => none

/-- The words of column LOGIT (R272, R269). -/
def decodeLogit (w : Lane) (e : Option Lane) : Option Instr :=
  match (fld w 26 6).toNat with
    | 1 => if e.isSome then none else if fld w 0 22 = 0 then some (.lldl (fld w 22 4)) else none
    | 2 => if e.isSome then none else if fld w 0 18 = 0 then some (.lbias (fld w 22 4) (fld w 18 4)) else none
    | 3 => if e.isSome then none else if fld w 0 1 = 0 ∧ fld w 3 8 = 0 ∧ fld w 14 4 = 0 then some (.lpen (fld w 22 4) (fld w 18 4) (fld w 11 3) (fld w 1 2)) else none
    | 4 => if e.isSome then none else if fld w 0 11 = 0 ∧ fld w 14 4 = 0 then some (.ltemp (fld w 22 4) (fld w 18 4) (fld w 11 3)) else none
    | 5 => if e.isSome then none else if fld w 0 18 = 0 then some (.lmask (fld w 22 4) (fld w 18 4)) else none
    | 6 => if e.isSome then none else if fld w 0 11 = 0 ∧ fld w 14 4 = 0 ∧ fld w 22 4 = 0 then some (.lmax (fld w 18 4) (fld w 11 3)) else none
    | 7 => if e.isSome then none else if fld w 0 11 = 0 ∧ fld w 14 4 = 0 then some (.lsubx (fld w 22 4) (fld w 18 4) (fld w 11 3)) else none
    | 8 => if e.isSome then none else if fld w 0 1 = 0 ∧ fld w 2 9 = 0 ∧ fld w 14 4 = 0 ∧ fld w 22 4 = 0 then some (.lsum (fld w 18 4) (fld w 11 3) (fld w 1 1)) else none
    | 9 => if e.isSome then none else if fld w 0 18 = 0 then some (.llogp (fld w 22 4) (fld w 18 4)) else none
    | 10 => if e.isSome then none else if fld w 0 11 = 0 ∧ fld w 14 4 = 0 then some (.ltopk (fld w 22 4) (fld w 18 4) (fld w 11 3)) else none
    | 11 => if e.isSome then none else if fld w 0 11 = 0 ∧ fld w 14 4 = 0 then some (.ltopp (fld w 22 4) (fld w 18 4) (fld w 11 3)) else none
    | 12 => if e.isSome then none else if fld w 0 11 = 0 ∧ fld w 14 4 = 0 then some (.lminp (fld w 22 4) (fld w 18 4) (fld w 11 3)) else none
    | 13 => if e.isSome then none else if fld w 0 18 = 0 then some (.lgumb (fld w 22 4) (fld w 18 4)) else none
    | 14 => if e.isSome then none else if fld w 0 11 = 0 ∧ fld w 14 4 = 0 ∧ fld w 22 4 = 0 then some (.larg (fld w 18 4) (fld w 11 3)) else none
    | 15 => if e.isSome then none else if fld w 0 1 = 0 ∧ fld w 4 10 = 0 then some (.lcmp (fld w 22 4) (fld w 18 4) (fld w 14 4) (fld w 1 3)) else if fld w 0 1 = 0 ∧ fld w 4 7 = 1 ∧ fld w 14 4 = 0 then some (.lcmpK (fld w 22 4) (fld w 18 4) (fld w 11 3) (fld w 1 3)) else none
    | 16 => if e.isSome then none else if fld w 0 1 = 0 ∧ fld w 5 9 = 0 then some (.lsel (fld w 22 4) (fld w 18 4) (fld w 14 4) (fld w 1 4)) else none
    | 17 => if e.isSome then none else if fld w 0 18 = 0 then some (.lmov (fld w 22 4) (fld w 18 4)) else if fld w 0 11 = 2 ∧ fld w 14 8 = 0 then some (.lmovK (fld w 22 4) (fld w 11 3)) else none
    | 18 => match e with
      | none => if fld w 0 1 = 0 ∧ fld w 5 6 = 0 ∧ fld w 14 12 = 0 then some (.lldk (fld w 11 3) (fld w 1 4)) else none
      | some x => if fld w 0 1 = 1 ∧ fld w 5 6 = 0 ∧ fld w 14 12 = 0 then some (.lldkLit (fld w 11 3) (fld w 1 4) (fld x 0 32)) else none
    | 19 => if e.isSome then none else if fld w 0 22 = 0 then some (.lcnt (fld w 22 4)) else none
    | 20 => if e.isSome then none else if fld w 0 1 = 0 ∧ fld w 14 12 = 0 then some (.lskip (fld w 11 3) (fld w 5 6) (fld w 4 1) (fld w 1 3)) else none
    | 21 => if e.isSome then none else if fld w 0 14 = 0 ∧ fld w 22 4 = 0 then some (.lemit (fld w 18 4) (fld w 14 4)) else none
    | 22 => if e.isSome then none else if fld w 0 18 = 10 then some (.lgrpAddcum (fld w 22 4) (fld w 18 4)) else if fld w 0 1 = 0 ∧ fld w 4 7 = 0 ∧ fld w 14 12 = 0 then some (.lgrp (fld w 11 3) (fld w 1 3)) else none
    | 23 => if e.isSome then none else if fld w 0 26 = 0 then some (.lend) else none
    | 24 => if e.isSome then none else if fld w 0 14 = 0 then some (.ladd (fld w 22 4) (fld w 18 4) (fld w 14 4)) else if fld w 0 11 = 2 ∧ fld w 14 4 = 0 then some (.laddK (fld w 22 4) (fld w 18 4) (fld w 11 3)) else none
    | _ => none

/-- Read one word of a column with its extension. VX, LK and CE words take exactly one extension, LD and ST words
none (R255). A word that no row matches is `unassignedOpcode` (R260, R270). -/
def decode (c : Col) (w : Lane) (e : Option Lane) : Instr :=
  let r := match c with
    | .ct => decodeCt w e
    | .ld => if e.isSome then none else decodeLd w
    | .st => if e.isSome then none else decodeSt w
    | .mx => decodeMx w e
    | .sq => decodeSq w e
    | .logit => decodeLogit w e
    | .vx => e.bind (decodeVx w)
    | .lk => e.bind (decodeLk w)
    | .ce => e.bind (decodeCe w)
  r.getD (.unassignedOpcode c w e)

/-- The bits below the opcode that must be 0 in a word of a column, by its opcode (R261, R262, R264, R265, R267, R269); none where every bit is a field or the
opcode is unassigned. -/
def mustBeZero (c : Col) (w : Lane) : Nat :=
  let op := w.toNat / 2 ^ 26
  match c with
  | .ct =>
    if 1 ≤ op ∧ op ≤ 18 then 0xFF
    else match op with
    | 23 => 0xFFC0 | 24 => 0xFFC0 | 25 => 0xFFC0 | 28 => 0x1C0000 | 38 => 0x2000 | 39 => 0x7FFFF | 40 => 0xFFF | 41 => 0xFF | 42 => 0x7FFF | 43 => 0xFF
    | 44 => 0x3FFFFFF | 45 => 0x3FFFFFF | 46 => 0x3FFFFF | 47 => 0x3E0FFFF | 48 => 0x3FFFFFF | 49 => if bit w 7 then 0x7F else 0x3 | 50 => 0x3FFFF
    | 51 => 0x3FF | 52 => 0x3FFFFFF | 53 => 0x1FFFF | 54 => 0x1FF | 55 => 0x1FF | 56 => 0x1FFFFF | 57 => 0x3FFF | 58 => 0x3FF | 59 => 0x3FFFFFF
    | 60 => 0x3FFFFFF | _ => 0
  | .ld => match op with
    | 3 => 0x578000 | 5 => 0x578000 | 8 => 0x5780FF | _ => 0x500000
  | .st => match op with
    | 3 => 0x78000 | 7 => 0xFF | _ => 0
  | .mx => match op with
    | 1 => 0x1F | 2 => 0x1F | 3 => 0x1F | 4 => 0x1F | 5 => 0x7FFC0 | 6 => 0xFE0 | 8 => 0x7FFF0 | 9 => 0x3 | 10 => 0x5F800 | 11 => 0x1C | 12 => 0x7F1FF | _ => 0
  | .sq => match op with
    | 1 => 0xFC07 | 2 => 0x7 | 3 => 0x7 | 4 => 0x7 | 5 => 0x7 | 6 => 0x3 | 9 => if bit w 6 then 0x3F else 0x1FFF | 10 => 0x1FFF | 11 => 0x3 | 12 => 0x3
    | 16 => 0x1FFF | _ => 0
  | .lk => 0x3
  | .vx => 0
  | .ce => 0
  | .logit => 0
/-- A word with those bits cleared: what its legal fields make it. -/
def legalPart (c : Col) (w : Lane) : Lane := w &&& ~~~(BitVec.ofNat 32 (mustBeZero c w))

/-- A word with its column and its extension, as a line carries it. -/
structure Coded where
  col : Col
  word : Lane
  ext : Option Lane
  deriving DecidableEq, Repr

/-- The bits of a word with a CrOp below its opcode (R261 to R267). -/
def crBits (op : Nat) (o : CrOp) : Lane :=
  .ofNat 32 (op * 2 ^ 26 + o.d.toNat * 2 ^ 21 + o.s.toNat * 2 ^ 16 + o.t.toNat * 2 ^ 11 + o.qd.toNat * 2 ^ 10 + o.qs.toNat * 2 ^ 9 + o.qt.toNat * 2 ^ 8)

/-- The bits of a word with a CiOp below its opcode (R261 to R267). -/
def ciBits (op : Nat) (o : CiOp) : Lane :=
  .ofNat 32 (op * 2 ^ 26 + o.d.toNat * 2 ^ 21 + o.s.toNat * 2 ^ 16 + o.imm.toNat)

/-- The bits of a word with a ShOp below its opcode (R261 to R267). -/
def shBits (op : Nat) (o : ShOp) : Lane :=
  .ofNat 32 (op * 2 ^ 26 + o.d.toNat * 2 ^ 21 + o.s.toNat * 2 ^ 16 + o.k.toNat)

/-- The bits of a word with a CbOp below its opcode (R261 to R267). -/
def cbBits (op : Nat) (o : CbOp) : Lane :=
  .ofNat 32 (op * 2 ^ 26 + o.a.toNat * 2 ^ 21 + o.b.toNat * 2 ^ 16 + o.off.toNat)

/-- The bits of a word with a LdsOp below its opcode (R261 to R267). -/
def ldsBits (op : Nat) (o : LdsOp) : Lane :=
  .ofNat 32 (op * 2 ^ 26 + o.v.toNat * 2 ^ 21 + o.b.toNat * 2 ^ 16 + o.sz.toNat * 2 ^ 14 + o.sx.toNat * 2 ^ 13 + o.off.toNat)

/-- The bits of a word with a StsOp below its opcode (R261 to R267). -/
def stsBits (op : Nat) (o : StsOp) : Lane :=
  .ofNat 32 (op * 2 ^ 26 + o.v.toNat * 2 ^ 21 + o.b.toNat * 2 ^ 16 + o.sz.toNat * 2 ^ 14 + o.off.toNat)

/-- The bits of a word with a SemOp below its opcode (R261 to R267). -/
def semBits (op : Nat) (o : SemOp) : Lane :=
  .ofNat 32 (op * 2 ^ 26 + o.sm.toNat * 2 ^ 20 + o.s.toNat * 2 ^ 15 + o.mask.toNat * 2 ^ 11 + o.scope.toNat * 2 ^ 8)

/-- The bits of a word with a LdOp below its opcode (R261 to R267). -/
def ldBits (op : Nat) (o : LdOp) : Lane :=
  .ofNat 32 (op * 2 ^ 26 + o.dly.toNat * 2 ^ 23 + o.popR.toNat * 2 ^ 21 + o.pushR.toNat * 2 ^ 19 + o.m.toNat * 2 ^ 15 + o.a.toNat * 2 ^ 11 + o.p.toNat * 2 ^ 8 + o.rn.toNat)

/-- The bits of a word with a LdNOp below its opcode (R261 to R267). -/
def ldnBits (op : Nat) (o : LdNOp) : Lane :=
  .ofNat 32 (op * 2 ^ 26 + o.dly.toNat * 2 ^ 23 + o.popR.toNat * 2 ^ 21 + o.pushR.toNat * 2 ^ 19 + o.a.toNat * 2 ^ 11 + o.p.toNat * 2 ^ 8 + o.rn.toNat)

/-- The bits of a word with a LdPOp below its opcode (R261 to R267). -/
def ldpBits (op : Nat) (o : LdPOp) : Lane :=
  .ofNat 32 (op * 2 ^ 26 + o.dly.toNat * 2 ^ 23 + o.popR.toNat * 2 ^ 21 + o.pushR.toNat * 2 ^ 19 + o.a.toNat * 2 ^ 11 + o.p.toNat * 2 ^ 8)

/-- The bits of a word with a StOp below its opcode (R261 to R267). -/
def stBits (op : Nat) (o : StOp) : Lane :=
  .ofNat 32 (op * 2 ^ 26 + tokBits o.tok + o.m.toNat * 2 ^ 15 + o.a.toNat * 2 ^ 11 + o.p.toNat * 2 ^ 8 + o.rn.toNat)

/-- The bits of a word with a StNOp below its opcode (R261 to R267). -/
def stnBits (op : Nat) (o : StNOp) : Lane :=
  .ofNat 32 (op * 2 ^ 26 + tokBits o.tok + o.a.toNat * 2 ^ 11 + o.p.toNat * 2 ^ 8 + o.rn.toNat)

/-- The bits of a word with a StZOp below its opcode (R261 to R267). -/
def stzBits (op : Nat) (o : StZOp) : Lane :=
  .ofNat 32 (op * 2 ^ 26 + tokBits o.tok + o.m.toNat * 2 ^ 15 + o.a.toNat * 2 ^ 11 + o.p.toNat * 2 ^ 8)

/-- The bits of a word with a CeOp below its opcode (R261 to R267). -/
def ceBits (op : Nat) (o : CeOp) : Lane :=
  .ofNat 32 (op * 2 ^ 26 + o.ch.toNat * 2 ^ 18 + o.sw.toNat * 2 ^ 12 + o.sr.toNat * 2 ^ 6 + o.scope.toNat * 2 ^ 3 + o.now.toNat * 2 ^ 2 + o.nor.toNat * 2 ^ 1 + o.chv.toNat)

/-- The extension of a word with a CeOp (R263, R267). -/
def ceExt (o : CeOp) : Lane :=
  .ofNat 32 (o.rel.toNat * 2 ^ 31 + o.rmask.toNat * 2 ^ 27 + o.fn.toNat * 2 ^ 20 + o.thr.toNat)

/-- The bits of a word with a VxOp below its opcode (R261 to R267). -/
def vxBits (op : Nat) (o : VxOp) : Lane :=
  .ofNat 32 (op * 2 ^ 26 + tokBits o.tok + o.et.toNat * 2 ^ 15 + o.rnd.toNat * 2 ^ 12 + o.fn.toNat)

/-- The extension of a word with a VxOp (R263, R267). -/
def vxExt (o : VxOp) : Lane :=
  .ofNat 32 (o.d.toNat * 2 ^ 24 + o.a.toNat * 2 ^ 16 + o.b.toNat * 2 ^ 8 + o.c.toNat)

/-- The bits of a word with a LkOp below its opcode (R261 to R267). -/
def lkBits (op : Nat) (o : LkOp) : Lane :=
  .ofNat 32 (op * 2 ^ 26 + tokBits o.tok + o.ch.toNat * 2 ^ 11 + o.sw.toNat * 2 ^ 5 + o.now.toNat * 2 ^ 4 + o.nor.toNat * 2 ^ 3 + o.chv.toNat * 2 ^ 2)

/-- The extension of a word with a LkOp (R263, R267). -/
def lkExt (o : LkOp) : Lane :=
  .ofNat 32 (o.sr.toNat * 2 ^ 26 + o.scope.toNat * 2 ^ 23 + o.rel.toNat * 2 ^ 22 + o.rmask.toNat * 2 ^ 18 + o.fn.toNat * 2 ^ 14 + o.thr.toNat)

/-- The word of `LDI`. -/
def ldiBits (d : BitVec 5) (imm : BitVec 21) : Lane :=
  .ofNat 32 (27 * 2 ^ 26 + d.toNat * 2 ^ 21 + imm.toNat)

/-- The word of `LDI_LONG`. -/
def ldiLongBits (d : BitVec 5) (imm : BitVec 21) : Lane :=
  .ofNat 32 (27 * 2 ^ 26 + d.toNat * 2 ^ 21 + imm.toNat)

/-- The word of `ORHI`. -/
def orhiBits (d : BitVec 5) (sh : BitVec 2) (imm : BitVec 16) : Lane :=
  .ofNat 32 (28 * 2 ^ 26 + d.toNat * 2 ^ 21 + sh.toNat * 2 ^ 16 + imm.toNat)

/-- The word of `JAL`. -/
def jalBits (d : BitVec 5) (off : BitVec 21) : Lane :=
  .ofNat 32 (35 * 2 ^ 26 + d.toNat * 2 ^ 21 + off.toNat)

/-- The word of `FENCE`. -/
def fenceBits (mask : BitVec 4) (scope : BitVec 3) : Lane :=
  .ofNat 32 (39 * 2 ^ 26 + mask.toNat * 2 ^ 22 + scope.toNat * 2 ^ 19)

/-- The word of `CMO`. -/
def cmoBits (opc : BitVec 2) (lvl : BitVec 2) (a : BitVec 5) (n : BitVec 5) : Lane :=
  .ofNat 32 (40 * 2 ^ 26 + opc.toNat * 2 ^ 24 + lvl.toNat * 2 ^ 22 + a.toNat * 2 ^ 17 + n.toNat * 2 ^ 12)

/-- The word of `SEMR`. -/
def semrBits (d : BitVec 5) (sm : BitVec 6) : Lane :=
  .ofNat 32 (42 * 2 ^ 26 + d.toNat * 2 ^ 21 + sm.toNat * 2 ^ 15)

/-- The word of `WFE`. -/
def wfeBits : Lane :=
  .ofNat 32 (44 * 2 ^ 26)

/-- The word of `SEV`. -/
def sevBits : Lane :=
  .ofNat 32 (45 * 2 ^ 26)

/-- The word of `GBAR`. -/
def gbarBits (mask : BitVec 4) : Lane :=
  .ofNat 32 (46 * 2 ^ 26 + mask.toNat * 2 ^ 22)

/-- The word of `MARK`. -/
def markBits (s : BitVec 5) : Lane :=
  .ofNat 32 (47 * 2 ^ 26 + s.toNat * 2 ^ 16)

/-- The word of `DONE`. -/
def doneBits : Lane :=
  .ofNat 32 (48 * 2 ^ 26)

/-- The word of `MLOOP`. -/
def mloopBits (b : BitVec 6) (ii : BitVec 7) (sc : BitVec 5) (s : BitVec 5) : Lane :=
  .ofNat 32 (49 * 2 ^ 26 + b.toNat * 2 ^ 20 + ii.toNat * 2 ^ 13 + sc.toNat * 2 ^ 8 + s.toNat * 2 ^ 2)

/-- The word of `MLOOP_LCB`. -/
def mloopLcbBits (b : BitVec 6) (ii : BitVec 7) (sc : BitVec 5) : Lane :=
  .ofNat 32 (49 * 2 ^ 26 + b.toNat * 2 ^ 20 + ii.toNat * 2 ^ 13 + sc.toNat * 2 ^ 8 + 128)

/-- The word of `MLCB`. -/
def mlcbBits (idx : BitVec 3) (a : BitVec 5) : Lane :=
  .ofNat 32 (50 * 2 ^ 26 + idx.toNat * 2 ^ 23 + a.toNat * 2 ^ 18)

/-- The word of `LOOP`. -/
def loopBits (s : BitVec 5) (e : BitVec 11) : Lane :=
  .ofNat 32 (51 * 2 ^ 26 + s.toNat * 2 ^ 21 + e.toNat * 2 ^ 10)

/-- The word of `UNLOOP`. -/
def unloopBits : Lane :=
  .ofNat 32 (52 * 2 ^ 26)

/-- The word of `RDID`. -/
def rdidBits (d : BitVec 5) (sel : BitVec 4) : Lane :=
  .ofNat 32 (53 * 2 ^ 26 + d.toNat * 2 ^ 21 + sel.toNat * 2 ^ 17)

/-- The word of `SRR`. -/
def srrBits (d : BitVec 5) (sys : BitVec 12) : Lane :=
  .ofNat 32 (54 * 2 ^ 26 + d.toNat * 2 ^ 21 + sys.toNat * 2 ^ 9)

/-- The word of `SRW`. -/
def srwBits (s : BitVec 5) (sys : BitVec 12) : Lane :=
  .ofNat 32 (55 * 2 ^ 26 + s.toNat * 2 ^ 21 + sys.toNat * 2 ^ 9)

/-- The word of `RDSTAMP`. -/
def rdstampBits (d : BitVec 5) : Lane :=
  .ofNat 32 (56 * 2 ^ 26 + d.toNat * 2 ^ 21)

/-- The word of `MOVA`. -/
def movaBits (tgt : BitVec 7) (s : BitVec 5) : Lane :=
  .ofNat 32 (57 * 2 ^ 26 + tgt.toNat * 2 ^ 19 + s.toNat * 2 ^ 14)

/-- The word of `TRAP`. -/
def trapBits (code : BitVec 16) : Lane :=
  .ofNat 32 (58 * 2 ^ 26 + code.toNat * 2 ^ 10)

/-- The word of `ERET`. -/
def eretBits : Lane :=
  .ofNat 32 (59 * 2 ^ 26)

/-- The word of `HALT`. -/
def haltBits : Lane :=
  .ofNat 32 (60 * 2 ^ 26)

/-- The word of `MMA`. -/
def mmaBits (t : MTok) (acc : BitVec 7) (p : BitVec 3) (et : BitVec 3) (ovw : Bool) : Lane :=
  .ofNat 32 (1 * 2 ^ 26 + tokBits t.tok + acc.toNat * 2 ^ 12 + p.toNat * 2 ^ 9 + et.toNat * 2 ^ 6 + ovw.toNat * 2 ^ 5)

/-- The word of `MMAS`. -/
def mmasBits (t : MTok) (acc : BitVec 7) (p : BitVec 3) (et : BitVec 3) (ovw : Bool) : Lane :=
  .ofNat 32 (2 * 2 ^ 26 + tokBits t.tok + acc.toNat * 2 ^ 12 + p.toNat * 2 ^ 9 + et.toNat * 2 ^ 6 + ovw.toNat * 2 ^ 5)

/-- The word of `MMAX`. -/
def mmaxBits (t : MTok) (acc : BitVec 7) (p : BitVec 3) (et : BitVec 3) (ovw : Bool) : Lane :=
  .ofNat 32 (3 * 2 ^ 26 + tokBits t.tok + acc.toNat * 2 ^ 12 + p.toNat * 2 ^ 9 + et.toNat * 2 ^ 6 + ovw.toNat * 2 ^ 5)

/-- The word of `MTILE`. -/
def mtileBits (t : MTok) (acc : BitVec 7) (p : BitVec 3) (et : BitVec 3) (ovw : Bool) : Lane :=
  .ofNat 32 (4 * 2 ^ 26 + tokBits t.tok + acc.toNat * 2 ^ 12 + p.toNat * 2 ^ 9 + et.toNat * 2 ^ 6 + ovw.toNat * 2 ^ 5)

/-- The word of `MBSEL`. -/
def mbselBits (t : MTok) (spn : BitVec 2) (ksel : BitVec 4) : Lane :=
  .ofNat 32 (5 * 2 ^ 26 + tokBits t.tok + spn.toNat * 2 ^ 4 + ksel.toNat)

/-- The word of `MACLR`. -/
def maclrBits (t : MTok) (d : BitVec 7) (n : BitVec 5) : Lane :=
  .ofNat 32 (6 * 2 ^ 26 + tokBits t.tok + d.toNat * 2 ^ 12 + n.toNat)

/-- The word of `MACMV`. -/
def macmvBits (t : MTok) (d : BitVec 7) (s : BitVec 7) (n : BitVec 5) : Lane :=
  .ofNat 32 (7 * 2 ^ 26 + tokBits t.tok + d.toNat * 2 ^ 12 + s.toNat * 2 ^ 5 + n.toNat)

/-- The word of `MWAKE`. -/
def mwakeBits (t : MTok) (m : BitVec 4) : Lane :=
  .ofNat 32 (8 * 2 ^ 26 + tokBits t.tok + m.toNat)

/-- The word of `MMSK`. -/
def mmskBits (t : MTok) (m : BitVec 2) (b : BitVec 7) (r : BitVec 4) (q : BitVec 4) : Lane :=
  .ofNat 32 (9 * 2 ^ 26 + tokBits t.tok + m.toNat * 2 ^ 17 + b.toNat * 2 ^ 10 + r.toNat * 2 ^ 6 + q.toNat * 2 ^ 2)

/-- The word of `MSCL`. -/
def msclBits (t : MTok) (b : BitVec 1) (a : BitVec 11) : Lane :=
  .ofNat 32 (10 * 2 ^ 26 + tokBits t.tok + b.toNat * 2 ^ 17 + a.toNat)

/-- The word of `MTRN`. -/
def mtrnBits (t : MTok) (d : BitVec 7) (s : BitVec 7) (g : BitVec 2) : Lane :=
  .ofNat 32 (11 * 2 ^ 26 + tokBits t.tok + d.toNat * 2 ^ 12 + s.toNat * 2 ^ 5 + g.toNat)

/-- The word of `MSPX`. -/
def mspxBits (t : MTok) (p : BitVec 3) : Lane :=
  .ofNat 32 (12 * 2 ^ 26 + tokBits t.tok + p.toNat * 2 ^ 9)

/-- The word of `SOPDEF`. -/
def sopdefBits (t : MTok) (op : BitVec 3) (v : BitVec 7) : Lane :=
  .ofNat 32 (1 * 2 ^ 26 + tokBits t.tok + op.toNat * 2 ^ 16 + v.toNat * 2 ^ 3)

/-- The word of `SCAN`. -/
def scanBits (t : MTok) (op : BitVec 3) (ws : BitVec 6) (v : BitVec 7) : Lane :=
  .ofNat 32 (2 * 2 ^ 26 + tokBits t.tok + op.toNat * 2 ^ 16 + ws.toNat * 2 ^ 10 + v.toNat * 2 ^ 3)

/-- The word of `SUP`. -/
def supBits (t : MTok) (op : BitVec 3) (ws : BitVec 6) (v : BitVec 7) : Lane :=
  .ofNat 32 (3 * 2 ^ 26 + tokBits t.tok + op.toNat * 2 ^ 16 + ws.toNat * 2 ^ 10 + v.toNat * 2 ^ 3)

/-- The word of `SDN`. -/
def sdnBits (t : MTok) (op : BitVec 3) (ws : BitVec 6) (v : BitVec 7) : Lane :=
  .ofNat 32 (4 * 2 ^ 26 + tokBits t.tok + op.toNat * 2 ^ 16 + ws.toNat * 2 ^ 10 + v.toNat * 2 ^ 3)

/-- The word of `SXSC`. -/
def sxscBits (t : MTok) (op : BitVec 3) (ws : BitVec 6) (v : BitVec 7) : Lane :=
  .ofNat 32 (5 * 2 ^ 26 + tokBits t.tok + op.toNat * 2 ^ 16 + ws.toNat * 2 ^ 10 + v.toNat * 2 ^ 3)

/-- The word of `SLBK`. -/
def slbkBits (t : MTok) (op : BitVec 3) (va : BitVec 7) (vb : BitVec 7) : Lane :=
  .ofNat 32 (6 * 2 ^ 26 + tokBits t.tok + op.toNat * 2 ^ 16 + va.toNat * 2 ^ 9 + vb.toNat * 2 ^ 2)

/-- The word of `SCSND`. -/
def scsndBits (t : MTok) (ch : BitVec 8) (tag : BitVec 8) (rb : BitVec 3) : Lane :=
  .ofNat 32 (7 * 2 ^ 26 + tokBits t.tok + ch.toNat * 2 ^ 11 + tag.toNat * 2 ^ 3 + rb.toNat)

/-- The word of `SCRCV`. -/
def scrcvBits (t : MTok) (ch : BitVec 8) (tag : BitVec 8) (rb : BitVec 3) : Lane :=
  .ofNat 32 (8 * 2 ^ 26 + tokBits t.tok + ch.toNat * 2 ^ 11 + tag.toNat * 2 ^ 3 + rb.toNat)

/-- The word of `PBIND`. -/
def pbindBits (t : MTok) (ps : BitVec 6) : Lane :=
  .ofNat 32 (9 * 2 ^ 26 + tokBits t.tok + ps.toNat * 2 ^ 13)

/-- The word of `PBIND_PAIR`. -/
def pbindPairBits (t : MTok) (ps : BitVec 6) (ph : BitVec 6) : Lane :=
  .ofNat 32 (9 * 2 ^ 26 + tokBits t.tok + ps.toNat * 2 ^ 13 + ph.toNat * 2 ^ 7 + 64)

/-- The word of `PUNB`. -/
def punbBits (t : MTok) (ps : BitVec 6) : Lane :=
  .ofNat 32 (10 * 2 ^ 26 + tokBits t.tok + ps.toNat * 2 ^ 13)

/-- The word of `PLD`. -/
def pldBits (t : MTok) (ps : BitVec 6) (row : BitVec 4) (v : BitVec 7) : Lane :=
  .ofNat 32 (11 * 2 ^ 26 + tokBits t.tok + ps.toNat * 2 ^ 13 + row.toNat * 2 ^ 9 + v.toNat * 2 ^ 2)

/-- The word of `PST`. -/
def pstBits (t : MTok) (ps : BitVec 6) (row : BitVec 4) (v : BitVec 7) : Lane :=
  .ofNat 32 (12 * 2 ^ 26 + tokBits t.tok + ps.toNat * 2 ^ 13 + row.toNat * 2 ^ 9 + v.toNat * 2 ^ 2)

/-- The word of `STEP`. -/
def stepBits (t : MTok) (ps : BitVec 6) (k : BitVec 4) (op : BitVec 3) (v : BitVec 6) : Lane :=
  .ofNat 32 (13 * 2 ^ 26 + tokBits t.tok + ps.toNat * 2 ^ 13 + k.toNat * 2 ^ 9 + op.toNat * 2 ^ 6 + v.toNat)

/-- The word of `PSPILL`. -/
def pspillBits (t : MTok) (ps : BitVec 6) (sw : BitVec 6) (sr : BitVec 6) (now : Bool) : Lane :=
  .ofNat 32 (14 * 2 ^ 26 + tokBits t.tok + ps.toNat * 2 ^ 13 + sw.toNat * 2 ^ 7 + sr.toNat * 2 ^ 1 + now.toNat)

/-- The word of `PFILL`. -/
def pfillBits (t : MTok) (ps : BitVec 6) (sw : BitVec 6) (sr : BitVec 6) (now : Bool) : Lane :=
  .ofNat 32 (15 * 2 ^ 26 + tokBits t.tok + ps.toNat * 2 ^ 13 + sw.toNat * 2 ^ 7 + sr.toNat * 2 ^ 1 + now.toNat)

/-- The word of `PSHD`. -/
def pshdBits (t : MTok) (ps : BitVec 6) : Lane :=
  .ofNat 32 (16 * 2 ^ 26 + tokBits t.tok + ps.toNat * 2 ^ 13)

/-- The word of `LLDL`. -/
def lldlBits (d : BitVec 4) : Lane :=
  .ofNat 32 (1 * 2 ^ 26 + d.toNat * 2 ^ 22)

/-- The word of `LBIAS`. -/
def lbiasBits (d : BitVec 4) (a : BitVec 4) : Lane :=
  .ofNat 32 (2 * 2 ^ 26 + d.toNat * 2 ^ 22 + a.toNat * 2 ^ 18)

/-- The word of `LPEN`. -/
def lpenBits (d : BitVec 4) (a : BitVec 4) (k : BitVec 3) (m : BitVec 2) : Lane :=
  .ofNat 32 (3 * 2 ^ 26 + d.toNat * 2 ^ 22 + a.toNat * 2 ^ 18 + k.toNat * 2 ^ 11 + m.toNat * 2 ^ 1)

/-- The word of `LTEMP`. -/
def ltempBits (d : BitVec 4) (a : BitVec 4) (k : BitVec 3) : Lane :=
  .ofNat 32 (4 * 2 ^ 26 + d.toNat * 2 ^ 22 + a.toNat * 2 ^ 18 + k.toNat * 2 ^ 11)

/-- The word of `LMASK`. -/
def lmaskBits (d : BitVec 4) (a : BitVec 4) : Lane :=
  .ofNat 32 (5 * 2 ^ 26 + d.toNat * 2 ^ 22 + a.toNat * 2 ^ 18)

/-- The word of `LMAX`. -/
def lmaxBits (a : BitVec 4) (k : BitVec 3) : Lane :=
  .ofNat 32 (6 * 2 ^ 26 + a.toNat * 2 ^ 18 + k.toNat * 2 ^ 11)

/-- The word of `LSUBX`. -/
def lsubxBits (d : BitVec 4) (a : BitVec 4) (k : BitVec 3) : Lane :=
  .ofNat 32 (7 * 2 ^ 26 + d.toNat * 2 ^ 22 + a.toNat * 2 ^ 18 + k.toNat * 2 ^ 11)

/-- The word of `LSUM`. -/
def lsumBits (a : BitVec 4) (k : BitVec 3) (e : BitVec 1) : Lane :=
  .ofNat 32 (8 * 2 ^ 26 + a.toNat * 2 ^ 18 + k.toNat * 2 ^ 11 + e.toNat * 2 ^ 1)

/-- The word of `LLOGP`. -/
def llogpBits (d : BitVec 4) (a : BitVec 4) : Lane :=
  .ofNat 32 (9 * 2 ^ 26 + d.toNat * 2 ^ 22 + a.toNat * 2 ^ 18)

/-- The word of `LTOPK`. -/
def ltopkBits (d : BitVec 4) (a : BitVec 4) (k : BitVec 3) : Lane :=
  .ofNat 32 (10 * 2 ^ 26 + d.toNat * 2 ^ 22 + a.toNat * 2 ^ 18 + k.toNat * 2 ^ 11)

/-- The word of `LTOPP`. -/
def ltoppBits (d : BitVec 4) (a : BitVec 4) (k : BitVec 3) : Lane :=
  .ofNat 32 (11 * 2 ^ 26 + d.toNat * 2 ^ 22 + a.toNat * 2 ^ 18 + k.toNat * 2 ^ 11)

/-- The word of `LMINP`. -/
def lminpBits (d : BitVec 4) (a : BitVec 4) (k : BitVec 3) : Lane :=
  .ofNat 32 (12 * 2 ^ 26 + d.toNat * 2 ^ 22 + a.toNat * 2 ^ 18 + k.toNat * 2 ^ 11)

/-- The word of `LGUMB`. -/
def lgumbBits (d : BitVec 4) (a : BitVec 4) : Lane :=
  .ofNat 32 (13 * 2 ^ 26 + d.toNat * 2 ^ 22 + a.toNat * 2 ^ 18)

/-- The word of `LARG`. -/
def largBits (a : BitVec 4) (k : BitVec 3) : Lane :=
  .ofNat 32 (14 * 2 ^ 26 + a.toNat * 2 ^ 18 + k.toNat * 2 ^ 11)

/-- The word of `LCMP`. -/
def lcmpBits (d : BitVec 4) (a : BitVec 4) (b : BitVec 4) (c : BitVec 3) : Lane :=
  .ofNat 32 (15 * 2 ^ 26 + d.toNat * 2 ^ 22 + a.toNat * 2 ^ 18 + b.toNat * 2 ^ 14 + c.toNat * 2 ^ 1)

/-- The word of `LCMP_K`. -/
def lcmpKBits (d : BitVec 4) (a : BitVec 4) (k : BitVec 3) (c : BitVec 3) : Lane :=
  .ofNat 32 (15 * 2 ^ 26 + d.toNat * 2 ^ 22 + a.toNat * 2 ^ 18 + k.toNat * 2 ^ 11 + c.toNat * 2 ^ 1 + 1 * 2 ^ 4)

/-- The word of `LSEL`. -/
def lselBits (d : BitVec 4) (a : BitVec 4) (b : BitVec 4) (c : BitVec 4) : Lane :=
  .ofNat 32 (16 * 2 ^ 26 + d.toNat * 2 ^ 22 + a.toNat * 2 ^ 18 + b.toNat * 2 ^ 14 + c.toNat * 2 ^ 1)

/-- The word of `LMOV`. -/
def lmovBits (d : BitVec 4) (a : BitVec 4) : Lane :=
  .ofNat 32 (17 * 2 ^ 26 + d.toNat * 2 ^ 22 + a.toNat * 2 ^ 18)

/-- The word of `LMOV_K`. -/
def lmovKBits (d : BitVec 4) (k : BitVec 3) : Lane :=
  .ofNat 32 (17 * 2 ^ 26 + d.toNat * 2 ^ 22 + k.toNat * 2 ^ 11 + 2)

/-- The word of `LLDK`. -/
def lldkBits (k : BitVec 3) (s : BitVec 4) : Lane :=
  .ofNat 32 (18 * 2 ^ 26 + k.toNat * 2 ^ 11 + s.toNat * 2 ^ 1)

/-- The word of `LLDK_LIT`. -/
def lldkLitBits (k : BitVec 3) (s : BitVec 4) : Lane :=
  .ofNat 32 (18 * 2 ^ 26 + k.toNat * 2 ^ 11 + s.toNat * 2 ^ 1 + 1)

/-- The word of `LCNT`. -/
def lcntBits (d : BitVec 4) : Lane :=
  .ofNat 32 (19 * 2 ^ 26 + d.toNat * 2 ^ 22)

/-- The word of `LSKIP`. -/
def lskipBits (k : BitVec 3) (m : BitVec 6) (i : BitVec 1) (c : BitVec 3) : Lane :=
  .ofNat 32 (20 * 2 ^ 26 + k.toNat * 2 ^ 11 + m.toNat * 2 ^ 5 + i.toNat * 2 ^ 4 + c.toNat * 2 ^ 1)

/-- The word of `LEMIT`. -/
def lemitBits (a : BitVec 4) (b : BitVec 4) : Lane :=
  .ofNat 32 (21 * 2 ^ 26 + a.toNat * 2 ^ 18 + b.toNat * 2 ^ 14)

/-- The word of `LGRP`. -/
def lgrpBits (k : BitVec 3) (s : BitVec 3) : Lane :=
  .ofNat 32 (22 * 2 ^ 26 + k.toNat * 2 ^ 11 + s.toNat * 2 ^ 1)

/-- The word of `LGRP_ADDCUM`. -/
def lgrpAddcumBits (d : BitVec 4) (a : BitVec 4) : Lane :=
  .ofNat 32 (22 * 2 ^ 26 + d.toNat * 2 ^ 22 + a.toNat * 2 ^ 18 + 10)

/-- The word of `LEND`. -/
def lendBits : Lane :=
  .ofNat 32 (23 * 2 ^ 26)

/-- The word of `LADD`. -/
def laddBits (d : BitVec 4) (a : BitVec 4) (b : BitVec 4) : Lane :=
  .ofNat 32 (24 * 2 ^ 26 + d.toNat * 2 ^ 22 + a.toNat * 2 ^ 18 + b.toNat * 2 ^ 14)

/-- The word of `LADD_K`. -/
def laddKBits (d : BitVec 4) (a : BitVec 4) (k : BitVec 3) : Lane :=
  .ofNat 32 (24 * 2 ^ 26 + d.toNat * 2 ^ 22 + a.toNat * 2 ^ 18 + k.toNat * 2 ^ 11 + 2)

/-- The word and the extension of an instruction word (R258 to R272); an event has none. -/
def encode (i : Instr) : Option Coded :=
  match i with
  | .add o => some ⟨.ct, crBits 1 o, none⟩
  | .sub o => some ⟨.ct, crBits 2 o, none⟩
  | .and o => some ⟨.ct, crBits 3 o, none⟩
  | .or o => some ⟨.ct, crBits 4 o, none⟩
  | .xor o => some ⟨.ct, crBits 5 o, none⟩
  | .sll o => some ⟨.ct, crBits 6 o, none⟩
  | .srl o => some ⟨.ct, crBits 7 o, none⟩
  | .sra o => some ⟨.ct, crBits 8 o, none⟩
  | .slt o => some ⟨.ct, crBits 9 o, none⟩
  | .sltu o => some ⟨.ct, crBits 10 o, none⟩
  | .seq o => some ⟨.ct, crBits 11 o, none⟩
  | .mul o => some ⟨.ct, crBits 12 o, none⟩
  | .mulh o => some ⟨.ct, crBits 13 o, none⟩
  | .div o => some ⟨.ct, crBits 14 o, none⟩
  | .divu o => some ⟨.ct, crBits 15 o, none⟩
  | .rem o => some ⟨.ct, crBits 16 o, none⟩
  | .min o => some ⟨.ct, crBits 17 o, none⟩
  | .max o => some ⟨.ct, crBits 18 o, none⟩
  | .addi o => some ⟨.ct, ciBits 19 o, none⟩
  | .andi o => some ⟨.ct, ciBits 20 o, none⟩
  | .ori o => some ⟨.ct, ciBits 21 o, none⟩
  | .xori o => some ⟨.ct, ciBits 22 o, none⟩
  | .slli o => some ⟨.ct, shBits 23 o, none⟩
  | .srli o => some ⟨.ct, shBits 24 o, none⟩
  | .srai o => some ⟨.ct, shBits 25 o, none⟩
  | .slti o => some ⟨.ct, ciBits 26 o, none⟩
  | .ldi d imm => some ⟨.ct, ldiBits d imm, none⟩
  | .ldiLong d imm ext => some ⟨.ct, ldiLongBits d imm, some (.ofNat 32 (ext.toNat))⟩
  | .orhi d sh imm => some ⟨.ct, orhiBits d sh imm, none⟩
  | .beq o => some ⟨.ct, cbBits 29 o, none⟩
  | .bne o => some ⟨.ct, cbBits 30 o, none⟩
  | .blt o => some ⟨.ct, cbBits 31 o, none⟩
  | .bge o => some ⟨.ct, cbBits 32 o, none⟩
  | .bltu o => some ⟨.ct, cbBits 33 o, none⟩
  | .bgeu o => some ⟨.ct, cbBits 34 o, none⟩
  | .jal d off => some ⟨.ct, jalBits d off, none⟩
  | .jalr o => some ⟨.ct, ciBits 36 o, none⟩
  | .lds o => some ⟨.ct, ldsBits 37 o, none⟩
  | .sts o => some ⟨.ct, stsBits 38 o, none⟩
  | .fence mask scope => some ⟨.ct, fenceBits mask scope, none⟩
  | .cmo opc lvl a n => some ⟨.ct, cmoBits opc lvl a n, none⟩
  | .semw o => some ⟨.ct, semBits 41 o, none⟩
  | .semr d sm => some ⟨.ct, semrBits d sm, none⟩
  | .sems o => some ⟨.ct, semBits 43 o, none⟩
  | .wfe => some ⟨.ct, wfeBits, none⟩
  | .sev => some ⟨.ct, sevBits, none⟩
  | .gbar mask => some ⟨.ct, gbarBits mask, none⟩
  | .mark s => some ⟨.ct, markBits s, none⟩
  | .done => some ⟨.ct, doneBits, none⟩
  | .mloop b ii sc s => some ⟨.ct, mloopBits b ii sc s, none⟩
  | .mloopLcb b ii sc => some ⟨.ct, mloopLcbBits b ii sc, none⟩
  | .mlcb idx a => some ⟨.ct, mlcbBits idx a, none⟩
  | .loop s e => some ⟨.ct, loopBits s e, none⟩
  | .unloop => some ⟨.ct, unloopBits, none⟩
  | .rdid d sel => some ⟨.ct, rdidBits d sel, none⟩
  | .srr d sys => some ⟨.ct, srrBits d sys, none⟩
  | .srw s sys => some ⟨.ct, srwBits s sys, none⟩
  | .rdstamp d => some ⟨.ct, rdstampBits d, none⟩
  | .mova tgt s => some ⟨.ct, movaBits tgt s, none⟩
  | .trap code => some ⟨.ct, trapBits code, none⟩
  | .eret => some ⟨.ct, eretBits, none⟩
  | .halt => some ⟨.ct, haltBits, none⟩
  | .ldv o => some ⟨.ld, ldBits 1 o, none⟩
  | .ldq o => some ⟨.ld, ldBits 2 o, none⟩
  | .ldt o => some ⟨.ld, ldnBits 3 o, none⟩
  | .ldg o => some ⟨.ld, ldBits 4 o, none⟩
  | .ldb o => some ⟨.ld, ldnBits 5 o, none⟩
  | .ldsc o => some ⟨.ld, ldBits 6 o, none⟩
  | .ldp o => some ⟨.ld, ldBits 7 o, none⟩
  | .lpf o => some ⟨.ld, ldpBits 8 o, none⟩
  | .ldx o => some ⟨.ld, ldBits 9 o, none⟩
  | .ldbc o => some ⟨.ld, ldBits 10 o, none⟩
  | .stv o => some ⟨.st, stBits 1 o, none⟩
  | .stq o => some ⟨.st, stBits 2 o, none⟩
  | .stt o => some ⟨.st, stnBits 3 o, none⟩
  | .sct o => some ⟨.st, stBits 4 o, none⟩
  | .stp o => some ⟨.st, stBits 5 o, none⟩
  | .stc o => some ⟨.st, stBits 6 o, none⟩
  | .stz o => some ⟨.st, stzBits 7 o, none⟩
  | .stm o => some ⟨.st, stBits 8 o, none⟩
  | .copy o => some ⟨.ce, ceBits 1 o, some (ceExt o)⟩
  | .copya o => some ⟨.ce, ceBits 2 o, some (ceExt o)⟩
  | .fill o => some ⟨.ce, ceBits 3 o, some (ceExt o)⟩
  | .accw o => some ⟨.ce, ceBits 4 o, some (ceExt o)⟩
  | .xadd o => some ⟨.ce, ceBits 5 o, some (ceExt o)⟩
  | .cas o => some ⟨.ce, ceBits 6 o, some (ceExt o)⟩
  | .mcast o => some ⟨.ce, ceBits 7 o, some (ceExt o)⟩
  | .msend o => some ⟨.ce, ceBits 8 o, some (ceExt o)⟩
  | .mrecv o => some ⟨.ce, ceBits 9 o, some (ceExt o)⟩
  | .cmoa o => some ⟨.ce, ceBits 10 o, some (ceExt o)⟩
  | .pfb o => some ⟨.ce, ceBits 11 o, some (ceExt o)⟩
  | .ceflush o => some ⟨.ce, ceBits 12 o, some (ceExt o)⟩
  | .vadd o => some ⟨.vx, vxBits 1 o, some (vxExt o)⟩
  | .vsub o => some ⟨.vx, vxBits 2 o, some (vxExt o)⟩
  | .vmul o => some ⟨.vx, vxBits 3 o, some (vxExt o)⟩
  | .vfma o => some ⟨.vx, vxBits 4 o, some (vxExt o)⟩
  | .vfms o => some ⟨.vx, vxBits 5 o, some (vxExt o)⟩
  | .vmax o => some ⟨.vx, vxBits 6 o, some (vxExt o)⟩
  | .vmin o => some ⟨.vx, vxBits 7 o, some (vxExt o)⟩
  | .vabs o => some ⟨.vx, vxBits 8 o, some (vxExt o)⟩
  | .vneg o => some ⟨.vx, vxBits 9 o, some (vxExt o)⟩
  | .vand o => some ⟨.vx, vxBits 10 o, some (vxExt o)⟩
  | .vor o => some ⟨.vx, vxBits 11 o, some (vxExt o)⟩
  | .vxor o => some ⟨.vx, vxBits 12 o, some (vxExt o)⟩
  | .vshl o => some ⟨.vx, vxBits 13 o, some (vxExt o)⟩
  | .vshr o => some ⟨.vx, vxBits 14 o, some (vxExt o)⟩
  | .vsra o => some ⟨.vx, vxBits 15 o, some (vxExt o)⟩
  | .vcmp o => some ⟨.vx, vxBits 16 o, some (vxExt o)⟩
  | .vsel o => some ⟨.vx, vxBits 17 o, some (vxExt o)⟩
  | .vcvt o => some ⟨.vx, vxBits 18 o, some (vxExt o)⟩
  | .vqblk o => some ⟨.vx, vxBits 19 o, some (vxExt o)⟩
  | .vrcp o => some ⟨.vx, vxBits 20 o, some (vxExt o)⟩
  | .vrsq o => some ⟨.vx, vxBits 21 o, some (vxExt o)⟩
  | .vexp2 o => some ⟨.vx, vxBits 22 o, some (vxExt o)⟩
  | .vlog2 o => some ⟨.vx, vxBits 23 o, some (vxExt o)⟩
  | .vtie o => some ⟨.vx, vxBits 24 o, some (vxExt o)⟩
  | .vtld o => some ⟨.vx, vxBits 25 o, some (vxExt o)⟩
  | .vred o => some ⟨.vx, vxBits 26 o, some (vxExt o)⟩
  | .vbcast o => some ⟨.vx, vxBits 27 o, some (vxExt o)⟩
  | .vperm o => some ⟨.vx, vxBits 28 o, some (vxExt o)⟩
  | .vpack o => some ⟨.vx, vxBits 29 o, some (vxExt o)⟩
  | .vunpk o => some ⟨.vx, vxBits 30 o, some (vxExt o)⟩
  | .vmov o => some ⟨.vx, vxBits 31 o, some (vxExt o)⟩
  | .vidx o => some ⟨.vx, vxBits 32 o, some (vxExt o)⟩
  | .vwin o => some ⟨.vx, vxBits 33 o, some (vxExt o)⟩
  | .vamax o => some ⟨.vx, vxBits 34 o, some (vxExt o)⟩
  | .vrng o => some ⟨.vx, vxBits 35 o, some (vxExt o)⟩
  | .vclr o => some ⟨.vx, vxBits 36 o, some (vxExt o)⟩
  | .mma t acc p et ovw => some ⟨.mx, mmaBits t acc p et ovw, t.stamp⟩
  | .mmas t acc p et ovw => some ⟨.mx, mmasBits t acc p et ovw, t.stamp⟩
  | .mmax t acc p et ovw => some ⟨.mx, mmaxBits t acc p et ovw, t.stamp⟩
  | .mtile t acc p et ovw => some ⟨.mx, mtileBits t acc p et ovw, t.stamp⟩
  | .mbsel t spn ksel => some ⟨.mx, mbselBits t spn ksel, t.stamp⟩
  | .maclr t d n => some ⟨.mx, maclrBits t d n, t.stamp⟩
  | .macmv t d s n => some ⟨.mx, macmvBits t d s n, t.stamp⟩
  | .mwake t m => some ⟨.mx, mwakeBits t m, t.stamp⟩
  | .mmsk t m b r q => some ⟨.mx, mmskBits t m b r q, t.stamp⟩
  | .mscl t b a => some ⟨.mx, msclBits t b a, t.stamp⟩
  | .mtrn t d s g => some ⟨.mx, mtrnBits t d s g, t.stamp⟩
  | .mspx t p => some ⟨.mx, mspxBits t p, t.stamp⟩
  | .sopdef t op v => some ⟨.sq, sopdefBits t op v, t.stamp⟩
  | .scan t op ws v => some ⟨.sq, scanBits t op ws v, t.stamp⟩
  | .sup t op ws v => some ⟨.sq, supBits t op ws v, t.stamp⟩
  | .sdn t op ws v => some ⟨.sq, sdnBits t op ws v, t.stamp⟩
  | .sxsc t op ws v => some ⟨.sq, sxscBits t op ws v, t.stamp⟩
  | .slbk t op va vb => some ⟨.sq, slbkBits t op va vb, t.stamp⟩
  | .scsnd t ch tag rb => some ⟨.sq, scsndBits t ch tag rb, t.stamp⟩
  | .scrcv t ch tag rb => some ⟨.sq, scrcvBits t ch tag rb, t.stamp⟩
  | .pbind t ps => some ⟨.sq, pbindBits t ps, t.stamp⟩
  | .pbindPair t ps ph => some ⟨.sq, pbindPairBits t ps ph, t.stamp⟩
  | .punb t ps => some ⟨.sq, punbBits t ps, t.stamp⟩
  | .pld t ps row v => some ⟨.sq, pldBits t ps row v, t.stamp⟩
  | .pst t ps row v => some ⟨.sq, pstBits t ps row v, t.stamp⟩
  | .step t ps k op v => some ⟨.sq, stepBits t ps k op v, t.stamp⟩
  | .pspill t ps sw sr now => some ⟨.sq, pspillBits t ps sw sr now, t.stamp⟩
  | .pfill t ps sw sr now => some ⟨.sq, pfillBits t ps sw sr now, t.stamp⟩
  | .pshd t ps => some ⟨.sq, pshdBits t ps, t.stamp⟩
  | .coll o => some ⟨.lk, lkBits 1 o, some (lkExt o)⟩
  | .radd o => some ⟨.lk, lkBits 2 o, some (lkExt o)⟩
  | .send o => some ⟨.lk, lkBits 3 o, some (lkExt o)⟩
  | .recv o => some ⟨.lk, lkBits 4 o, some (lkExt o)⟩
  | .put o => some ⟨.lk, lkBits 5 o, some (lkExt o)⟩
  | .get o => some ⟨.lk, lkBits 6 o, some (lkExt o)⟩
  | .append o => some ⟨.lk, lkBits 7 o, some (lkExt o)⟩
  | .pred o => some ⟨.lk, lkBits 8 o, some (lkExt o)⟩
  | .lbar o => some ⟨.lk, lkBits 9 o, some (lkExt o)⟩
  | .grpdef o => some ⟨.lk, lkBits 10 o, some (lkExt o)⟩
  | .lquiet o => some ⟨.lk, lkBits 11 o, some (lkExt o)⟩
  | .lfence o => some ⟨.lk, lkBits 12 o, some (lkExt o)⟩
  | .lldl d => some ⟨.logit, lldlBits d, none⟩
  | .lbias d a => some ⟨.logit, lbiasBits d a, none⟩
  | .lpen d a k m => some ⟨.logit, lpenBits d a k m, none⟩
  | .ltemp d a k => some ⟨.logit, ltempBits d a k, none⟩
  | .lmask d a => some ⟨.logit, lmaskBits d a, none⟩
  | .lmax a k => some ⟨.logit, lmaxBits a k, none⟩
  | .lsubx d a k => some ⟨.logit, lsubxBits d a k, none⟩
  | .lsum a k e => some ⟨.logit, lsumBits a k e, none⟩
  | .llogp d a => some ⟨.logit, llogpBits d a, none⟩
  | .ltopk d a k => some ⟨.logit, ltopkBits d a k, none⟩
  | .ltopp d a k => some ⟨.logit, ltoppBits d a k, none⟩
  | .lminp d a k => some ⟨.logit, lminpBits d a k, none⟩
  | .lgumb d a => some ⟨.logit, lgumbBits d a, none⟩
  | .larg a k => some ⟨.logit, largBits a k, none⟩
  | .lcmp d a b c => some ⟨.logit, lcmpBits d a b c, none⟩
  | .lcmpK d a k c => some ⟨.logit, lcmpKBits d a k c, none⟩
  | .lsel d a b c => some ⟨.logit, lselBits d a b c, none⟩
  | .lmov d a => some ⟨.logit, lmovBits d a, none⟩
  | .lmovK d k => some ⟨.logit, lmovKBits d k, none⟩
  | .lldk k s => some ⟨.logit, lldkBits k s, none⟩
  | .lldkLit k s lit => some ⟨.logit, lldkLitBits k s, some (.ofNat 32 (lit.toNat))⟩
  | .lcnt d => some ⟨.logit, lcntBits d, none⟩
  | .lskip k m i c => some ⟨.logit, lskipBits k m i c, none⟩
  | .lemit a b => some ⟨.logit, lemitBits a b, none⟩
  | .lgrp k s => some ⟨.logit, lgrpBits k s, none⟩
  | .lgrpAddcum d a => some ⟨.logit, lgrpAddcumBits d a, none⟩
  | .lend => some ⟨.logit, lendBits, none⟩
  | .ladd d a b => some ⟨.logit, laddBits d a b, none⟩
  | .laddK d a k => some ⟨.logit, laddKBits d a k, none⟩
  | .unassignedOpcode _ _ _ => none
  | .packageReset => none
  | .securityCoreError => none
  | .thermalTrip => none
  | .thermalRelease => none
  | .weirWindow => none
  | .throttleHoldEnd => none
  | .weirSlopeWrite => none
  | .timeFreqWrite => none
  | .timeFreqApply => none
  | .timeStartWrite => none
  | .epochStart => none
  | .ppsEdge => none
  | .eventMessage => none
  | .telemetrySample => none
  | .teleWrite => none
  | .subarrayGate => none
  | .flitReplay => none
  | .portDown => none
  | .linkProtocolError => none
  | .portEnable => none
  | .portDisable => none
  | .routeWrite => none
  | .ctmoWrite => none
  | .contributionArrival => none
  | .contributionRetry => none
  | .collectiveCommit => none
  | .collectiveTimeout => none
  | .towpathArrival => none
  | .cxlPortDown => none
  | .sliceAccess => none
  | .lineFill => none
  | .writeBack => none
  | .dramScrub => none
  | .basinMapWrite => none
  | .basinMapApply => none
  | .movedone => none
  | .carveCreate => none
  | .carveReady => none
  | .carveRelease => none
  | .shootdownGo => none
  | .shootdownTileClean => none
  | .shootdownBasinClean => none
  | .shootdownRelease => none
  | .migrationCopy => none
  | .pagerReply => none
  | .hostRead => none
  | .hostWrite => none
  | .flr => none
  | .qbaseWrite => none
  | .qctlWrite => none
  | .qctlFlush => none
  | .qtailWrite => none
  | .ringConfigWrite => none
  | .partCtlRst => none
  | .partRstTrig => none
  | .partitionAbortDone => none
  | .partRstGo => none
  | .partitionQuiesceDone => none
  | .partitionClearDone => none
  | .partHerrClear => none
  | .partFrconsWrite => none
  | .partFrctlClr => none
  | .partSaveWrite => none
  | .partHwinWrite => none
  | .assign => none
  | .release => none
  | .clearDone => none
  | .setwt => none
  | .enable => none
  | .disable => none
  | .attest => none
  | .watchdogExpiry => none
  | .bargeHeadRead => none
  | .bargeSelect => none
  | .channelTableRead => none
  | .gangStart => none
  | .joinDecrement => none
  | .sliceCtlWrite => none
  | .sliceSwitch => none
  | .contextSaveDone => none
  | .sliceResume => none
  | .gangRestore => none
  | .restoreDone => none
  | .gwConfigWrite => none
  | .gwStart => none
  | .gwStop => none
  | .bargeNode => none
  | .engineNode => none
  | .waitNode => none
  | .raiseNode => none
  | .condNode => none
  | .loopNode => none
  | .switchNode => none
  | .rearmNode => none
  | .endNode => none
  | .fetchLine => none
  | .trapEntry => none
  | .stallWireFreeze => none
  | .stallWireResume => none
  | .scheduleMissRecovery => none
  | .schedmiss => none
  | .sequencerAdvance => none
  | .barrierComplete => none
  | .flightLevel => none
  | .messageArrival => none
  | .multicastLineArrival => none
  | .sendMatch => none
  | .sluiceSequence => none
  | .acceptSequence => none
  | .commitUnit => none
  | .jobEnd => none
  | .coalesceTimer => none
  | .beat => none
  | .judgement => none
  | .evaluation => none
  | .appealStart => none
  | .selfTestEnd => none
  | .selfTestTimeout => none
  | .watchCmdFence => none
  | .watchCtlEn => none
  | .registerWrite => none
  | .bridgeFailure => none
  | .laneLoss => none
  | .switchAbandon => none
  | .putArrival => none
  | .protocolViolation => none
  | .commandEnd => none

/-- The columns in which a bare word of `nbits` is looked up, in the order of the opcode table. -/
def tableColumns : List Col := [.ct, .ld, .st, .mx, .sq, .logit]

/-- The first column in which a bare word decodes to a row of the table. -/
def firstRow (w : Lane) (e : Option Lane) : List Col → Option Instr
  | [] => none
  | c :: cs => match decode c w e with
    | .unassignedOpcode _ _ _ => firstRow w e cs
    | i => some i

/-- The instruction that the decoder reads from the bits of one row of the opcode table: 32 bits are one word without an
extension, 64 bits a word followed by its extension. A bare word does not say its column (the line header does, R254),
so the columns are tried in the table's order. -/
def decodeTableWord (nbits w : Nat) : Option Instr :=
  if nbits ≤ 32 then firstRow (.ofNat 32 w) none tableColumns
  else if nbits = 64 then firstRow (.ofNat 32 w) (some (.ofNat 32 (w / 2 ^ 32))) [.ct, .ce, .vx, .mx, .sq, .lk, .logit]
  else none

end Sys2Proof
end

