-- ==== Sys2Proof/Config.lean ====
section
/-! DEFINITION. The free values of the model: what the spec leaves open. Each is a constant without a body, so that no proof can
see what it is, applied to a counter of the state (`State.free`) that every use advances. -/
namespace Sys2Proof

/-- Whether a step whose duration the architecture does not fix (R437) takes place at its present chance. -/
opaque Config.go : Nat → Bool

/-- A choice the spec leaves open: a replacement victim, a port among equals, an order without a rule, a duration. -/
opaque Config.pick : Nat → Nat

/-- A value the spec leaves open: a sensor reading, a digest under a device key. -/
opaque Config.bits : Nat → BitVec 64

/-- The hash of a destination die number by which the device picks a port within a route mask (R52). -/
opaque Config.hash : Nat → Nat

/-- Which frames of a die, by their number, form Redric's own region (R99). -/
opaque Config.redric : Nat → Nat → Bool

/-- What the device was given at its making: its serial number, the digests and security versions of its images (R114). -/
opaque Config.fused : Nat → BitVec 8

/-- How the device codes the bytes of the parts of a saved context to whose inside the spec gives no layout (R137). -/
opaque Config.saveMask : Nat → BitVec 8

/-- The set of a slice TLB in which the entry of a page lies, by partition, page and size (R80). -/
opaque Config.tlbSet : Nat → Nat

end Sys2Proof
end

