-- ==== Sys2Proof/Machine/State.lean ====
section
/-! DEFINITION. The state of the PLV-KX512 package as plain data: the eight streams and stores of each tile, the gangs, the
memory system of each die, the partitions with their queues, rings and walkers, the links, power, time and the neighbour
watch; the events that the outside world makes next; and the state right after reset. Every register has one home; a map from
numbers to values lists only what differs from the value an unlisted key reads as. -/
namespace Sys2Proof.Machine

open Sys2Proof

/-- A map from numbers to values as an association list in rising key order; an unlisted key reads as the map's default. -/
abbrev SMap (α : Type) := List (Nat × α)

/-- Bytes by address: strictly rising addresses, no entry equal to zero, the value an unlisted address reads as. -/
abbrev Memory := List Host.Cell

/-- A place in the package or in another one: package number and flight number (R69, R124). -/
structure Place where
  pkg : Nat
  tile : Nat
  deriving DecidableEq, Repr

/-- How a packet travels (R50, R52, R53): its number among the packets that have been sent, the Adxis port it leaves through when its
destination lies in another package, and how often the route mask of that package had been written when it left. -/
structure Hop where
  no : Nat
  port : Option Nat
  route : Nat
  deriving DecidableEq, Repr

/-- A word in an instruction queue with its program-counter address and its extension (R142, R143). -/
structure QWord where
  addr : Nat
  word : Lane
  ext : Option Lane
  deriving DecidableEq, Repr

/-- A slice-TLB entry (R80): the slice, the partition, the page number and size, where its leaf lies, and the leaf. -/
structure Tlb where
  slice : Nat
  part : Nat
  page : Nat
  log2 : Nat
  leafPa : Nat
  leaf : Word
  deriving DecidableEq, Repr

/-- A trap that waits for CT to take it (R161, R163): code, column nibble, the address, the subcause, whether it is resumable,
the faulting virtual address with the low bits of XFLT.INFO. -/
structure TrapReq where
  code : Nat
  col : Nat
  xpc : Nat
  sub : Nat
  res : Bool
  va : Word
  info : Word
  deriving DecidableEq, Repr

/-- Where an LD word puts what it has read from the scratchpad (R324, R327): a row, a queue or a scale row under a quarter mask, or a
Pound row. -/
inductive LdDst where
  | row (r : Nat) (keep : BitVec 4)
  | queue (q : Nat) (keep : BitVec 4)
  | scale (r : Nat) (keep : BitVec 4)
  | pound (slot row : Nat)
  deriving DecidableEq, Repr

/-- The three array forms (R369). -/
inductive MxForm where
  | dense | sparse | scaled
  deriving DecidableEq, Repr

/-- What lands in a tile at a gang count (R146): the write of an instruction that has already issued. -/
inductive Act where
  | row (r : Nat) (v : Row)
  | rowKeep (r : Nat) (v : Row) (keep : BitVec 4)
  | laneG (r : Nat) (g : Nat) (v : BitVec 1024)
  | accF (r n : Nat) (d : Row)
  | accI (r n : Nat) (d : Row)
  | qpush (q : Nat) (v : Row)
  | farPush (port q : Nat) (v : Row) (pc : Nat) (va : Word)
  | token (f : Nat)
  | areg (r : Nat) (v : Word)
  | preg (r : Nat) (v : Word)
  | sys (n : Nat) (v : Word)
  | spad (x : Nat) (v : Row) (keep : BitVec 4)
  | piece (x : Nat) (v : BitVec 256)
  | pound (slot row : Nat) (v : Row)
  | scale (r : Nat) (v : Row) (keep : BitVec 4)
  | ldRead (dst : LdDst) (xs : List Nat)
  | stpRead (slot row x : Nat)
  | arrRead (form : MxForm) (et acc x : Nat) (ovw : Bool)
  | pldRead (slot row v : Nat)
  | stepRead (img : BitVec 1024) (live shad o v : Nat)
  | ldbRead (krow k x : Nat)
  | bslice (krow k : Nat) (v : Row)
  | latch (krow spn : Nat) (data : SMap Row)
  | mspxRead (k x : Nat)
  | maskRow (k : Nat) (v : Row)
  | mscl (breg aptr : Nat)
  | aptr (n : Nat)
  | mmsk (mode rbase rrow qrow : Nat)
  | ungate (m : BitVec 4)
  | opslot (o : Nat) (img : BitVec 1024)
  | pair (kind slot other : Nat)
  | amax (v : Lane) (nan inf : Bool)
  | wbAdvance
  | mtSel (k : Nat)
  | mtStep (k left : Nat) (edge : Bool) (acc x et : Nat) (ovw : Bool)
  | mtEnd
  | trap (r : TrapReq)
  | coStore (va pa attr : Nat) (bytes : List (Option Byte)) (mask : BitVec 4) (toks : List Nat) (key : Nat) (prior : List Nat)
  | cacheWrite (va : Nat) (bytes : List (Option Byte)) (r w : Bool) (via : Option Tlb)
  | raise (n : Nat) (v : Word)
  | flightOut (num : Nat)
  | nothing
  deriving DecidableEq, Repr

/-- A landing: the gang count at which it lands, its order among the landings of that cycle (R147), and what it writes. -/
structure Pend where
  due : Nat
  ord : Nat
  act : Act
  deriving DecidableEq, Repr

/-- A 32-byte sector of the tile data cache (R170): whether it holds the coherence point's bytes, the bytes, which of them
are dirty, the permissions the slice returned with the fill (R81), and the translation under which its bytes came, through which phase B of a
shootdown writes them back (R90). -/
structure Sector where
  valid : Bool
  data : BitVec 256
  dirty : BitVec 32
  r : Bool
  w : Bool
  via : Option Tlb
  deriving DecidableEq, Repr

/-- A missed stamp of a column (R154): the gang count of the miss, the stamp time of it, the target and the freeze point. -/
structure Miss where
  at_ : Nat
  stamp : Nat
  target : Nat
  deriving DecidableEq, Repr

/-- What a stamped word at the head of MX or SQ has been decided to do (R153, R154). -/
inductive StampSt where
  | untested
  | issueAt (t : Nat)
  | missed (m : Miss)
  deriving DecidableEq, Repr

/-- The issue state of one column: the gang count its delay counts from (P + 1, R145), the gang count before which
nothing issues, the state of a stamped head, and for `SCSND` the carry whose acknowledgement it awaits with the tokens it then
pushes (R207). -/
structure ColSt where
  after : Nat
  busy : Nat
  st : StampSt
  ackKey : Option Nat
  ackToks : List Nat
  deriving DecidableEq, Repr

/-- A word of a modulo body with its column and its offset (R157). -/
structure BodyWord where
  col : Col
  off : Nat
  q : QWord
  deriving DecidableEq, Repr

/-- The modulo sequencer (R157, R310): the address of its `MLOOP`, whether it runs, the lines still to take, the body, the parameters, how many words
each column still has ahead of the body, the position in the schedule, the pending trip count with its valid bit, the
words of the present slot that have not issued yet, and how many words at the head of CE's queue a sequencer has handed on. -/
structure Seqr where
  mloop : Nat
  run : Bool
  lines : Nat
  body : List BodyWord
  ii : Nat
  sc : Nat
  n : Nat
  ahead : SMap Nat
  started : Bool
  pos : Nat
  lcb : BitVec 32
  lcbValid : Bool
  due : List BodyWord
  handed : Nat
  deriving DecidableEq, Repr

/-- An entry of the loop stack (R160). -/
structure LoopEnt where
  first : Nat
  last : Nat
  count : Nat
  deriving DecidableEq, Repr

/-- The forms of a Flight instruction (R197). -/
inductive FlightForm where
  | scan | sup | sdn | sxsc
  deriving DecidableEq, Repr

/-- A Flight instruction in progress at one rank (R195–R204). `lev` counts the levels completed over all phases, `inbox`
holds the d value a parent node has formed for this rank, `agg` the aggregate on its way down in `SUP`; `num` counts the
Flight instructions of the task, `pc` is the address of the word, `fin` the gang count at which it writes its destination, and `last` that of its last level boundary (R203); `stages` is the number of its levels and `born` the stamp of its issue. `res` holds its result from the last boundary on, and
`above` the rows that other words wrote since its writes fell due, which stand over it (R147). -/
structure Flight where
  form : FlightForm
  img : BitVec 1024
  k : Nat
  nstep : Nat
  nleaf : Nat
  ws : Nat
  v : Nat
  issue : Nat
  lev : Nat
  inbox : Option (List Row)
  agg : Option (List Row)
  seed : List Row
  miss : Option Miss
  pushes : List Nat
  num : Nat
  pc : Nat
  fin : Nat
  last : Nat
  stages : Nat
  born : Nat
  res : Option (List Row)
  above : Option (List Nat)
  deriving DecidableEq, Repr

/-- A command of CE, LK or the state-spill engine (R333, R389, R388): its word, its address, its operands, whether it has
started and at which stamp, how many pieces it has performed, whether all its accesses have performed, the semaphore counts it awaits
and raises, its scope and release mask with the keys of its prior set (R176), its channel, the generation it took (R394), for a spill or a fill the TIME.PRE from which its next line moves (R212), and its key. -/
structure Cmd where
  key : Nat
  instr : Instr
  pc : Nat
  ops : List Word
  await : Option (Nat × Nat)
  raise : Option Nat
  scope : Nat
  rel : Option (BitVec 4)
  chan : Option Nat
  started : Bool
  lines : Nat
  performed : Bool
  left : Nat
  gen : BitVec 16
  buf : List Byte
  ahead : Option (List Byte)
  allow : Nat
  status : List Byte
  peer : Option (Nat × Nat)
  since : Nat
  next : Nat
  prior : Option (List Nat)
  deriving DecidableEq, Repr

/-- A posted receive of `MRECV` or `RECV` (R341, R401). -/
structure Posted where
  key : Nat
  src : Nat
  tag : Option (BitVec 16)
  space : Nat
  dst : Word
  maxLen : Nat
  status : Word
  sem : Option Nat
  deriving DecidableEq, Repr

/-- A message that waits for a receive: in the network, or known to the overflow queue while its payload stays at the sender
(R340–R342, R401). `key` names the sending command at its source, `bound` is ID.BARGE of the destination as it left (R400), `told` says that
it has raised OVERFLOW there, and `part` is the partition of the sender (R98). -/
structure Msg where
  src : Place
  dst : Place
  tag : BitVec 16
  data : List Byte
  key : Nat
  bound : Word
  hop : Hop
  told : Bool
  part : Nat
  deriving DecidableEq, Repr

/-- A carry of `SCSND` on the Towpath (R207): its rows, its key at the source, the channel whose allowance it holds, and the
address of the word; `bound` and `part` as of a message. -/
structure Carry where
  src : Place
  dst : Place
  tag : BitVec 8
  rows : List Row
  key : Nat
  chan : Nat
  pc : Nat
  bound : Word
  hop : Hop
  part : Nat
  deriving DecidableEq, Repr

/-- A block of bytes on its way to the scratchpad of a tile: a multicast line or a `PUT` line (R183, R339, R396, R402);
`bound` and `part` as of a message. -/
structure Delivery where
  src : Place
  dst : Place
  addr : Nat
  data : List Byte
  sem : Option Nat
  key : Nat
  mcast : Bool
  bound : Word
  sent : Nat
  seq : Nat
  hop : Hop
  part : Nat
  deriving DecidableEq, Repr

/-- A contribution to a collective on its way to the reducing engine (R59, R394, R396): the kind of the reduction (0 `RADD`,
1 `PRED`, 2 `LBAR`, 3 a Sluice draw), the partition, the group, the generation, the destination rank, the rank it comes
from, its bytes, the tile and command that await its acknowledgement, the stamp at which it was sent, and its number among the transfers of its
command. -/
structure Contribution where
  kind : Nat
  part : Nat
  group : Nat
  gen : BitVec 16
  dest : Nat
  src : Nat
  data : List Byte
  ack : Option (Nat × Nat)
  sent : Nat
  seq : Nat
  hop : Hop
  deriving DecidableEq, Repr

/-- A reduction with what has arrived (R59, R63, R397–R399): its operation and length once a member has registered it, the
contributions by rank, the stamp of the first, the tiles and commands registered by rank, and the port group of its die whose collective
engine holds it (R47, R58). -/
structure Reduction where
  kind : Nat
  part : Nat
  group : Nat
  gen : BitVec 16
  dest : Nat
  op : Option (Nat × Nat)
  parts : SMap (List Byte)
  first : Option Nat
  regs : SMap (Nat × Nat)
  pg : Nat
  deriving DecidableEq, Repr

/-- The lengthsman's states (R242). -/
inductive Health where
  | healthy | suspect | fenced | testing | appealing | readmitted
  deriving DecidableEq, Repr

/-- The scalar core (R141, R156, R160, R161, R165, R294): g registers with the CT cycle from which each may be read, the address
and pattern registers, the loop stack and its shadow, the state of a waiting `GBAR` with the keys of its prior set, the keys of the prior set that the present word awaits (R176), CTSTAT, the trap registers, the writes of the handler's words that land at a CT cycle, and the
traps that wait to be taken: those raised since CTSTAT.TRAP was last set or cleared, and in `early` those that stood before. -/
structure Ct where
  g : SMap Word
  gReady : SMap Nat
  clk : Nat
  busy : Nat
  areg : SMap Word
  preg : SMap Word
  loops : List LoopEnt
  shadow : List LoopEnt
  loopStart : Bool
  joined : Bool
  released : Bool
  barPrior : List Nat
  prior : Option (List Nat)
  latch : Bool
  mode : Bool
  handler : Bool
  missCnt : BitVec 16
  cause : Word
  epc : Word
  xpc : Word
  fpc : Word
  xva : Word
  xinfo : Word
  saved : List QWord
  savedTgt : Bool
  savedDrain : Bool
  savedSkip : SMap Nat
  lands : List Pend
  reqs : List TrapReq
  early : List TrapReq
  halted : Bool
  deriving DecidableEq, Repr

/-- Queue registers, dependence tokens and semaphores (R148–R151). `room` counts room reserved for pushes that have not
landed, `held` entries reserved for a stamped word, `popped` pops of the present cycle. -/
structure Queues where
  q : SMap (List Row)
  popped : SMap Nat
  room : SMap Nat
  held : SMap Nat
  tok : SMap Nat
  tokRoom : SMap Nat
  sm : SMap (BitVec 32)
  raises : List (Nat × BitVec 32)
  deriving DecidableEq, Repr

/-- The local stores (R17): the rows that v0–v127 and the accumulator share, the scale memory, the B-operand slice, the Pound
with its descriptors and the spill commands outstanding per slot, the scratchpad with SPAD.HEALTH and the rebuilt-event counts. -/
structure Stores where
  v : SMap Row
  scale : SMap Row
  bslice : SMap Row
  pound : SMap Row
  pdesc : SMap (BitVec 16)
  spills : SMap Nat
  spad : Memory
  health : Word
  events : SMap Nat
  deriving DecidableEq, Repr

/-- The matrix unit (R366) and its gating (R44–R46): `group` and `rows` are the macro-op step of an `MTILE` in progress, the next K-row group and the
remaining row count, and `edge` the gang count at which its last group ended (R372); `idle` holds the gang count from which each sub-array counts as idle. -/
structure Mx where
  ksel : Nat
  spn : Nat
  latch : SMap Row
  mask : SMap Row
  msrc : SMap Word
  breg : Nat
  aptr : Nat
  mode : Nat
  rbase : Nat
  rrow : Nat
  qrow : Nat
  group : Option Nat
  rows : Nat
  edge : Nat
  gated : BitVec 4
  idleMax : BitVec 16
  idle : SMap Nat
  deriving DecidableEq, Repr

/-- The scan unit and the VX registers (R192, R199–R204, R207, R266, R364). -/
structure Sq where
  ops : SMap (BitVec 1024)
  valid : BitVec 8
  flight : Option Flight
  flights : Nat
  mstep : Word
  cfg : Word
  win : Word
  amax : Word
  rng : Word
  carries : List Carry
  deriving DecidableEq, Repr

/-- Fetch and issue (R142–R145, R157, R257): the instruction store with the lines that maintenance took from it in the present cycle, the fetch
buffer, the instruction queues, the fetch position (that of the next line to deliver), whether it is a branch target, whether it waits for the
other columns, the stamp time from which it may read, whether fetch runs, the state of each column, the addresses below which a column
takes no word after a restore (R143), and the modulo sequencer. -/
structure Fetch where
  store : SMap (BitVec 256)
  gone : SMap (BitVec 256)
  buf : List (BitVec 256)
  iq : SMap (List QWord)
  pc : Nat
  tgt : Bool
  drain : Bool
  at_ : Nat
  on : Bool
  cols : SMap ColSt
  skip : SMap Nat
  seqr : Seqr
  deriving DecidableEq, Repr

/-- CE, LK and the state-spill engine with their receives (R333, R341, R389, R401), the channel table of the task (R105), the
allowance in flight (R107) and the generations of groups (R394). -/
structure Engines where
  ceq : List Cmd
  lkq : List Cmd
  spq : List Cmd
  posted : List Posted
  recvs : List Posted
  overflow : List Msg
  nextKey : Nat
  chans : SMap (Word × Word)
  chansOk : Bool
  allow : SMap Nat
  gens : SMap (BitVec 16)
  deriving DecidableEq, Repr

/-- The identity of the task (R130, R139) and what the ownership table says of the tile (R99). -/
structure Ident where
  part : Nat
  rank : Nat
  gsize : Nat
  barge : Word
  prog : Word
  mark : Option Word
  ended : Bool
  active : Bool
  ownV : Bool
  ownClr : Bool
  ownPart : Nat
  deriving DecidableEq, Repr

/-- What a lengthsman knows of one neighbour (R240–R242): whether a good beat has come since the last judgement, the SEQ it expects,
how many beats in a row were missed, the verdict (0 CLEAR, 1 SILENT, 2 BABBLING), the judgements in a row without a case of
R241, whether such a case has arisen since the last judgement, and the STATE in its last beat (R239). -/
structure Nbr where
  got : Bool
  expect : Option (BitVec 16)
  missed : Nat
  verdict : Nat
  clear : Nat
  bad : Bool
  state : Health
  deriving DecidableEq, Repr

/-- The lengthsman of the tile and the watch side of its router (R239–R252): the state, the SEQ of its beats, its neighbours by
direction (0 N, 1 E, 2 S, 3 W), the votes received since the last evaluation, those counted at the last one with the verdicts behind them (VOTES, VERD), the clean evaluations in
a row, the evaluations since the last fencing, the latest appeal starts, the fields of WATCH.TSTAT and WATCH.TFENCE, a
pending fence command, when a self-test started, the outcome of the boot self-test, whether the lengthsman sent its last beat, and the bytes that
the injection monitor counted in the latest eight beat periods, the latest first (R241). -/
structure Watch where
  health : Health
  seq : BitVec 16
  nbr : SMap Nbr
  votes : SMap Bool
  lastVotes : BitVec 4
  verd : BitVec 8
  clean : Nat
  evalCnt : Nat
  appeals : List Nat
  appn : BitVec 8
  perm : Bool
  fsrc : BitVec 2
  tfence : Nat
  fenceCmd : Bool
  testStart : Nat
  bootFail : Bool
  beating : Bool
  injected : List Nat
  deriving DecidableEq, Repr

/-- One tile: its units, its gang counter (R152), whether a task or a service program runs on it, the landings that are due,
its data cache, and, when synchronous writes have landed in the present cycle, its local stores before them (R147, R186). -/
structure Tile where
  ct : Ct
  qs : Queues
  st : Stores
  mx : Mx
  sq : Sq
  fe : Fetch
  en : Engines
  id : Ident
  wa : Watch
  cnt : Nat
  run : Bool
  pend : List Pend
  cache : SMap Sector
  old : Option Stores
  deriving DecidableEq, Repr

/-- A Basin line (R81, R189): the physical line it was filled from, which sectors hold their bytes, the data and the
dirty bytes. -/
structure BLine where
  pa : Nat
  valid : BitVec 4
  data : BitVec 1024
  dirty : BitVec 128
  deriving DecidableEq, Repr

/-- Where and why a job failed (R219): the sequence index, the cause, the local die and the subcause. -/
structure JFail where
  seq : Nat
  cause : Nat
  die : Nat
  sub : Nat
  deriving DecidableEq, Repr

/-- A running job of a die engine (R217–R219): its kind (0 Sluice, 1 acceptance, 2 commit), its partition, the die of its node,
the walker that waits for it, its descriptor, the generation of its draw (R394), the next sequence, the pass of a commit (0 the check
of the draw, 1 and 2 the passes of R231, 3 pruning, 4 the all-ended word), the sequences pass 1 retried, the pairs a Sluice part has, whether
the part has contributed, the outcome of the draw, the record a failed draw leaves, the failure, whether the job has come to its end,
and the groups it touched. -/
structure Job where
  kind : Nat
  part : Nat
  home : Nat
  walker : Option Nat
  rec_ : List Word
  gen : BitVec 16
  next : Nat
  pass : Nat
  retried : List Nat
  pairs : SMap Word
  contributed : Bool
  drawn : Option Bool
  csRec : List Byte
  fail : Option JFail
  ended : Bool
  touched : List Nat
  deriving DecidableEq, Repr

/-- A Sluice engine (R217, R406): whether it runs a sequence, which, its descriptor, the l and k registers, the word it has
reached, how many instructions it still skips, and whether it has emitted. -/
structure Sluice where
  running : Bool
  seq : Nat
  desc : List Byte
  l : SMap (List Lane)
  k : SMap Lane
  pc : Nat
  skip : Nat
  emitted : Bool
  deriving DecidableEq, Repr

/-- The memory system, the engines and the management registers of one die (04_addressing, 10_decode, 11_watch): its number, and beside the
registers of R90 the partition and the cleaning of the shootdown that runs, and the collective engines that are enabled, by port group (R58). -/
structure Die where
  num : Nat
  roots : SMap Word
  rootReg : SMap Word
  shva : Word
  shn : Word
  shctl : Word
  shPhase : Nat
  shPart : Nat
  shClean : Bool
  gen : Nat
  ents : SMap Nat
  mapStage : SMap Nat
  mapBusy : Bool
  retiring : List Nat
  retired : List Nat
  carveGone : List Nat
  carve : SMap Word
  lines : SMap BLine
  tlb : List Tlb
  lost : List Nat
  owner : SMap (BitVec 8)
  bad : List Nat
  mailbox : SMap Word
  wctl : Word
  holdPtr : Nat
  sluices : List Sluice
  jobs : List Job
  engOn : BitVec 4
  deriving DecidableEq, Repr

/-- A work queue (R101, R102, R108, R122, R128): its registers, the copy of its head's record, for how long its head has been
head, while its record is unread by slice class, and its watchdog. -/
structure Queue where
  base : Word
  ctl : Word
  head : Nat
  tail : Nat
  rec_ : Option (List Word)
  age : Nat
  ages : SMap Nat
  dog : Nat
  deriving DecidableEq, Repr

/-- A delivery ring (R103, R237). -/
structure Ring where
  base : Word
  paddr : Word
  ctl : Word
  cidx : Nat
  pidx : Nat
  pend : Nat
  t1 : Nat
  deriving DecidableEq, Repr

/-- A graph walker (R132–R134): GW.BASE, GW.CTL, GW.STAT, whether it waits for the job of an ENGINE node to end, and whether
STOP has been written during the present node. -/
structure Walker where
  base : Word
  ctl : Word
  stat : Word
  waiting : Bool
  stopping : Bool
  deriving DecidableEq, Repr

/-- A collective that has failed (R63): its kind, generation and destination rank, the cause, and the ranks that had contributed. A member
whose command starts later learns it, and later contributions are discarded. -/
structure Failed where
  kind : Nat
  gen : BitVec 16
  dest : Nat
  cause : Nat
  bits : List Nat
  at_ : Nat
  regs : SMap (Nat × Nat)
  deriving DecidableEq, Repr

/-- A collective group (R392–R394): its members, whether a switch may reduce, each engine member's generation, whether its value-index
reductions are placed in a switch (R60), and its collectives that have failed. -/
structure Group where
  members : List Nat
  swok : Bool
  gens : SMap (BitVec 16)
  switch : Bool
  failed : List Failed
  deriving DecidableEq, Repr

/-- A partition (05_host_partitions, 06_scheduler). -/
structure Part where
  st : Nat
  phase : Nat
  phaseAt : Nat
  awaitGo : Bool
  trig : Nat
  cause : Nat
  causeQ : Nat
  herrVa : Word
  herrInfo : Word
  chbase : Word
  frbase : Word
  frprod : Nat
  frcons : Nat
  junder : Nat
  drop : Nat
  save : SMap Word
  hwin : SMap Word
  queues : SMap Queue
  rings : SMap Ring
  walkers : SMap Walker
  next : Word
  slice : Word
  lastSwitch : Nat
  wgt : Nat
  deficit : Nat
  served : SMap Nat
  reserve : Option (Nat × Nat × Nat)
  groups : SMap Group
  deriving DecidableEq, Repr

/-- Where a gang stands: placed and waiting for S, running, saving its context, switched out, restoring. -/
inductive GangPhase where
  | placed | running | saving | out | restoring
  deriving DecidableEq, Repr

/-- A gang (R124, R129–R131, R155): its aligned block of flight numbers, its barge, the stamp S of its start, which ranks have
ended, the marks, its freeze point, whether it is frozen, the stamp at which it resumes, whether a throttle hold raises its wire and between which stamps it freezes the gang, and the
ranks that have arrived at its present barrier with the count of the last arrival; its context index, and the stamp from which it is
a restore candidate; `lost` says that a tile of its block has been fenced or withdrawn since its context was saved (R137). -/
structure Gang where
  base : Nat
  log2 : Nat
  part : Nat
  queue : Nat
  pop : Word
  rec_ : List Word
  phase : GangPhase
  start : Nat
  done : List Nat
  marks : SMap Word
  lastMark : Word
  freeze : Option Nat
  resumeAt : Option Nat
  hold : Option Nat
  heldFrom : Nat
  heldTo : Nat
  frozen : Bool
  lost : Bool
  arrived : List Nat
  lastArrival : Nat
  ctx : Nat
  cand : Option Nat
  deriving DecidableEq, Repr

/-- What the state holds of the present move: the tile, the column and the queued word that acts. -/
structure Acting where
  tile : Nat
  col : Col
  q : QWord
  body : Bool
  deriving DecidableEq, Repr

/-- A fault record that is to be written: its cause and SUB, its partition, its words from 0x08 to 0x58 and its MARKMAP (R140); and
whether it signals vector 15 itself (R109). -/
structure FaultRec where
  cause : Nat
  sub : Nat
  part : Nat
  words : List Word
  markmap : Nat
  tells : Bool
  deriving DecidableEq, Repr

/-- What an event carries with it. -/
inductive Load where
  | none
  | msg (m : Msg)
  | carry (c : Carry)
  | delivery (d : Delivery)
  | contrib (c : Contribution)
  deriving DecidableEq, Repr

/-- The argument record of an event: what it acts on (R7, 95_what_each_step_holds). -/
structure Arg where
  tile : Nat
  die : Nat
  part : Nat
  idx : Nat
  sub : Nat
  val : Word
  num : Nat
  flag : Bool
  bytes : List Byte
  load : Load
  deriving DecidableEq, Repr

/-- A move that is still to be made in the present cycle. -/
inductive Move where
  | ev (i : Instr) (a : Arg)
  | word (a : Acting)
  | engine (tile : Nat) (col : Col)
  | logit (die eng : Nat)
  deriving DecidableEq, Repr

/-- The machine stops (none of these is a trap of the machine, which is a step of its own). -/
inductive Fault where
  /-- No meaning raises this fault: it is the name of a state the model does not reach. Safe. -/
  | unreachable
  deriving DecidableEq, Repr

/-- The model gives no next state. -/
inductive Refusal where
  /-- The arm of an instruction that has no meaning yet. Safe. -/
  | notModelled (mnemonic : String)
  deriving DecidableEq, Repr

/-- The Weir (R29–R35): its enables and slopes, the limit L of the last window in units of 0.1 mW, whether the next window starts L at its
own D, the demand, the windows of unabsorbed excess, the refused-write bit, the filler signal, the mode; the modes seen in the present millisecond and in the last, the gang-tile cycles
and the held ones among them since the last sample (R42); and whether a thermal trip holds the module in reset (R28). -/
structure Power where
  balEn : Bool
  fillEn : Bool
  en : Bool
  up : BitVec 14
  dn : BitVec 14
  lim : Nat
  fresh : Bool
  demand : Nat
  dnExc : BitVec 16
  badw : Bool
  fill : Bool
  mode : BitVec 2
  seen : BitVec 4
  seenMs : BitVec 4
  ballast : Nat
  gangCyc : Nat
  heldCyc : Nat
  held : Bool
  deriving DecidableEq, Repr

/-- The time registers (R37–R41): the servo's lock flag, the arming and the start, the staged and the applied frequency offset, the
epoch, TIME.PRE, the last PPS capture, and the timestamps of event messages. -/
structure Time where
  lock : Bool
  arm : Bool
  run : Bool
  badw : Bool
  freq : BitVec 32
  applied : BitVec 32
  epoch : BitVec 48
  start : Word
  pre : Nat
  ppsStamp : Nat
  ppsPre : Nat
  events : List Nat
  deriving DecidableEq, Repr

/-- The telemetry ring (R42, R43), with the number of samples written. -/
structure Tele where
  base : Word
  en : Bool
  badw : Bool
  log2n : Nat
  widx : BitVec 32
  lost : BitVec 32
  count : Nat
  deriving DecidableEq, Repr

/-- An Adxis port (R49, R50, R65): its enabled lanes, the Towpath allowance code, EN, the replay and down counts, how many of its
lanes work, and the failed replays in a row. -/
structure Port where
  vlen : BitVec 4
  towq : BitVec 2
  en : Bool
  replay : BitVec 16
  downs : BitVec 16
  up : Bool
  lanes : Nat
  fails : Nat
  deriving DecidableEq, Repr

/-- The state of the machine. -/
structure State where
  /-- The chip stamp counter (R19), which stands at 0 before the epoch. -/
  stamp : Nat
  /-- The package number (R69, R313). -/
  pkg : Nat
  /-- The 512 tiles by flight number 128 d + t (R124); an unlisted tile is as after reset. -/
  tiles : SMap Tile
  /-- The gangs that are placed, running or saved. -/
  gangs : List Gang
  /-- The four dies; an unlisted die is as after reset. -/
  dies : SMap Die
  /-- The failed bridges (R13). -/
  bridges : BitVec 4
  /-- The CXL ports that are up (R66, R68). -/
  cxlUp : BitVec 16
  /-- The attached bytes of each CXL port (R66). -/
  cxlSize : SMap Nat
  /-- For each CXL port that has gone down, the ranges (partition, offset, 64 KiB pages) mapped again since it is back (R68). -/
  remap : SMap (List (Nat × Nat × Nat))
  /-- The memory of other packages as the links show it: key partition · 2^57 + virtual address. -/
  far : Memory
  /-- ADX.ROUTE by destination package (R52). -/
  routes : SMap (BitVec 128)
  /-- How often each mask of ADX.ROUTE has been written (R53). -/
  routeNo : SMap Nat
  /-- The port and the virtual lane of packets that a port has refused, whose link protocol errors are still to come (R65). -/
  laneErrors : List (Nat × Nat)
  /-- The completed barges whose join counter is still to be decremented (R131). -/
  joins : List Gang
  /-- Physical memory of the four dies: key die · 2^43 + physical address (R71). -/
  mem : Memory
  /-- The sixteen partitions. -/
  parts : SMap Part
  /-- The MSI-X messages sent: partition of the VF and vector (R103). -/
  msi : List (Nat × Nat)
  /-- The pending-bit arrays: partition and vector of the messages that a mask bit holds back (R115). -/
  pba : List (Nat × Nat)
  /-- Fault records that wait for the memory system (R90, R140): partition, cause, SUB, words 0x08 to 0x58 and MARKMAP. -/
  records : List FaultRec
  /-- What the hardware has reported to Wharf and Redric (R75, R109, R246). -/
  notices : List (List Nat)
  /-- Host memory as the device writes it (R96, R104). -/
  host : Memory
  /-- The Philox key of each partition (R98, R286). -/
  key : SMap Word
  /-- How many packets have been sent (R52). -/
  packets : Nat
  /-- The carries on the Towpath that have not reached a receive buffer (R207). -/
  carries : List Carry
  /-- The messages in the network (R340, R401). -/
  msgs : List Msg
  /-- The blocks on their way to scratchpads (R183). -/
  blocks : List Delivery
  /-- The contributions in the network (R59). -/
  contribs : List Contribution
  /-- The reductions that have neither committed nor failed (R59, R63). -/
  reds : List Reduction
  /-- The contributions that an engine refused, with the stamp of their resending (R59). -/
  refused : List (Nat × Contribution)
  /-- ADX.CTMO (R65). -/
  ctmo : Word
  pw : Power
  tm : Time
  te : Tele
  /-- The 128 Adxis ports (R47, R49). -/
  ports : SMap Port
  /-- PF.BOOTSTAT (R117). -/
  boot : Word
  /-- Registers that only store what is written: MSI-X tables and mailboxes (R115, R117, R118). -/
  plain : SMap Word
  /-- The pager image that every tile's locked region holds, at offsets 0 to 0x1FFF (R113, R166). -/
  pager : Memory
  /-- The scheduler (R127, R129): the partition it visits or visited last, whether the visit goes on, the stamp of the last placement. -/
  visit : Nat
  visiting : Bool
  placedAt : Option Nat
  /-- The saved contexts, by 8 · tile + index: what the save area does not lay out byte by byte (R137). -/
  saved : SMap Tile
  /-- The model's own: the moves left in the present cycle. -/
  agenda : List Move
  /-- The model's own: what the outside world does next. -/
  inputs : List (Instr × Arg)
  arg : Arg
  cur : Acting
  /-- The model's own: how many free values have been used. -/
  free : Nat
  deriving DecidableEq, Repr

/-- `Ct` after reset. -/
def Ct.reset : Ct where
  g := []
  gReady := []
  clk := 0
  busy := 0
  areg := []
  preg := []
  loops := []
  shadow := []
  loopStart := false
  joined := false
  released := false
  barPrior := []
  prior := none
  latch := false
  mode := true
  handler := false
  missCnt := 0
  cause := 0
  epc := 0
  xpc := 0
  fpc := 0
  xva := 0
  xinfo := 0
  saved := []
  savedTgt := false
  savedDrain := false
  savedSkip := []
  lands := []
  reqs := []
  early := []
  halted := false

/-- `Queues` after reset. -/
def Queues.reset : Queues where
  q := []
  popped := []
  room := []
  held := []
  tok := []
  tokRoom := []
  sm := []
  raises := []

/-- `Stores` after reset. -/
def Stores.reset : Stores where
  v := []
  scale := []
  bslice := []
  pound := []
  pdesc := []
  spills := []
  spad := []
  health := 0x1F000000#64
  events := []

/-- `Mx` after reset. -/
def Mx.reset : Mx where
  ksel := 0
  spn := 0
  latch := []
  mask := []
  msrc := []
  breg := 0
  aptr := 0
  mode := 0
  rbase := 0
  rrow := 0
  qrow := 0
  group := none
  rows := 0
  edge := 0
  gated := 0xF#4
  idleMax := 0x0400#16
  idle := []

/-- `Sq` after reset. -/
def Sq.reset : Sq where
  ops := []
  valid := 0
  flight := none
  flights := 0
  mstep := 0
  cfg := 0
  win := 0
  amax := 0
  rng := 0
  carries := []

/-- `Fetch` after reset. -/
def Fetch.reset : Fetch where
  store := []
  gone := []
  buf := []
  iq := []
  pc := 0
  tgt := false
  drain := false
  at_ := 0
  on := false
  cols := []
  skip := []
  seqr := ⟨0, false, 0, [], 0, 0, 0, [], false, 0, 0, false, [], 0⟩

/-- `Engines` after reset. -/
def Engines.reset : Engines where
  ceq := []
  lkq := []
  spq := []
  posted := []
  recvs := []
  overflow := []
  nextKey := 0
  chans := []
  chansOk := false
  allow := []
  gens := []

/-- `Ident` after reset. -/
def Ident.reset : Ident where
  part := 0
  rank := 0
  gsize := 0
  barge := 0
  prog := 0
  mark := none
  ended := false
  active := false
  ownV := false
  ownClr := true
  ownPart := 0

/-- `Watch` after reset. -/
def Watch.reset : Watch where
  health := .healthy
  seq := 0
  nbr := []
  votes := []
  lastVotes := 0
  verd := 0xFF
  clean := 0
  evalCnt := 0
  appeals := []
  appn := 0
  perm := false
  fsrc := 0
  tfence := 0
  fenceCmd := false
  testStart := 0
  bootFail := false
  beating := false
  injected := []

/-- A tile after a tile reset (R167). -/
def Tile.reset : Tile where
  ct := .reset
  qs := .reset
  st := .reset
  mx := .reset
  sq := .reset
  fe := .reset
  en := .reset
  id := .reset
  wa := .reset
  cnt := 0
  run := false
  pend := []
  cache := []
  old := none

/-- The empty argument record. -/
def Arg.zero : Arg := ⟨0, 0, 0, 0, 0, 0, 0, false, [], .none⟩

/-- A Sluice engine at rest. -/
def Sluice.reset : Sluice := ⟨false, 0, [], [], [], 0, 0, false⟩

/-- A die after package reset, with its number. -/
def Die.reset (d : Nat) : Die where
  num := d
  roots := []
  rootReg := []
  shva := 0
  shn := 0
  shctl := 0x200
  shPhase := 0
  shPart := 0
  shClean := false
  gen := 0
  ents := (List.range 32).map (fun i => (i, i))
  mapStage := (List.range 32).map (fun i => (i, i))
  mapBusy := false
  retiring := []
  retired := []
  carveGone := []
  carve := []
  lines := []
  tlb := []
  lost := []
  owner := []
  bad := []
  mailbox := []
  wctl := 0x8000000002
  holdPtr := 0
  sluices := [.reset, .reset, .reset, .reset]
  jobs := []
  engOn := 0

/-- A queue, a ring and a walker after reset (R101, R103, R134). -/
def Queue.reset : Queue := ⟨0, 4, 0, 0, none, 0, [], 0⟩
def Ring.reset : Ring := ⟨0, 0, 0x0000010000000008, 0, 0, 0, 0⟩
def Walker.reset : Walker := ⟨0, 0, 0, false, false⟩

/-- A partition after package reset: DISABLED (R116). -/
def Part.reset : Part where
  st := 0
  phase := 0
  phaseAt := 0
  awaitGo := false
  trig := 0
  cause := 0
  causeQ := 0
  herrVa := 0
  herrInfo := 0
  chbase := 0
  frbase := 0
  frprod := 0
  frcons := 0
  junder := 0
  drop := 0
  save := []
  hwin := []
  queues := []
  rings := []
  walkers := []
  next := 0
  slice := 0x0000010100010000
  lastSwitch := 0
  wgt := 1
  deficit := 0
  served := []
  reserve := none
  groups := []

/-- The Weir after package reset (R31). DESIGN CHOICE (log 61): DEMAND, LIMIT, FILL and MODE are live and read 0 before the first window, whose
D also is its L, since no L(k-1) stands before it. -/
def Power.reset : Power := ⟨true, true, true, 0x64, 0x64, 0, true, 0, 0, false, false, 0, 0, 0, 0, 0, 0, false⟩
/-- The time registers, telemetry and a port after package reset (R40, R43, R65). -/
def Time.reset : Time := ⟨false, false, false, false, 0, 0, 0, 0, 0, 0, 0, []⟩
def Tele.reset : Tele := ⟨0, false, false, 6, 0, 0, 0⟩
def Port.reset : Port := ⟨0xF, 2, false, 0, 0, false, 2, 0⟩

/-- The machine right after a package reset, as the spec says; where the spec states no value, the assumption log does. -/
def State.reset : State where
  stamp := 0
  pkg := 0
  tiles := []
  gangs := []
  dies := []
  bridges := 0
  cxlUp := 0
  cxlSize := []
  remap := []
  far := []
  routes := []
  routeNo := []
  laneErrors := []
  joins := []
  mem := []
  parts := []
  msi := []
  pba := []
  records := []
  notices := []
  host := []
  key := []
  packets := 0
  carries := []
  msgs := []
  blocks := []
  contribs := []
  reds := []
  refused := []
  ctmo := 0x2710
  pw := .reset
  tm := .reset
  te := .reset
  ports := []
  boot := 0
  plain := []
  pager := []
  visit := 15
  visiting := false
  placedAt := none
  saved := []
  agenda := (List.range 512).map (fun n => .ev .beat { Arg.zero with tile := n }) -- beat 0 is sent at TIME.PRE 0 (R239)
  inputs := []
  arg := Arg.zero -- The model's own: the argument of the event that takes place.
  cur := ⟨0, .ct, ⟨0, 0, none⟩, false⟩ -- The model's own: what acts in a word's move.
  free := 0

end Sys2Proof.Machine
end

