-- ==== Sys2Proof/Machine/Store.lean ====
section
/-! DEFINITION. The operations over maps, bytes, rows and memories that every later file uses: one place for the byte order
(little-endian, R4) and for the canonical form of a memory. -/
namespace Sys2Proof.Machine

open Sys2Proof

/-- The value at a key, or the default. -/
def get (d : α) (m : SMap α) (k : Nat) : α :=
  match m with
  | [] => d
  | (j, v) :: r => if j = k then v else get d r k

/-- Set the value at a key. -/
def put (m : SMap α) (k : Nat) (v : α) : SMap α :=
  match m with
  | [] => [(k, v)]
  | (j, u) :: r => if j = k then (k, v) :: r else if k < j then (k, v) :: (j, u) :: r else (j, u) :: put r k v

/-- Remove a key. -/
def del (m : SMap α) (k : Nat) : SMap α := m.filter (fun e => e.1 != k)

/-- The value at a key, if it is listed. -/
def find (m : SMap α) (k : Nat) : Option α :=
  match m with
  | [] => none
  | (j, v) :: r => if j = k then some v else find r k

/-- Change the value at a key. -/
def upd (d : α) (m : SMap α) (k : Nat) (f : α → α) : SMap α := put m k (f (get d m k))

/-- Is the list strictly rising in its first component? -/
def rising : List (Nat × α) → Bool
  | [] => true
  | [_] => true
  | a :: b :: r => decide (a.1 < b.1) && rising (b :: r)

/-- The byte at an address; an unlisted address reads as zero. -/
def Memory.read (m : Memory) (a : Nat) : Byte := get 0 m a

/-- Store a byte: the canonical form lists no zero byte. -/
def Memory.write (m : Memory) (a : Nat) (b : Byte) : Memory :=
  match m with
  | [] => if b = 0 then [] else [(a, b)]
  | (j, u) :: r =>
    if j = a then (if b = 0 then r else (a, b) :: r)
    else if a < j then (if b = 0 then (j, u) :: r else (a, b) :: (j, u) :: r)
    else (j, u) :: Memory.write r a b

/-- The canonical form: rising addresses and no zero byte. -/
def Memory.wf (m : Memory) : Bool := rising m && m.all (fun e => e.2 != 0)

/-- `n` bytes from an address, lowest first. -/
def Memory.bytes (m : Memory) (a n : Nat) : List Byte := (List.range n).map (fun i => Memory.read m (a + i))

/-- Store bytes from an address on. -/
def Memory.store (m : Memory) (a : Nat) (bs : List Byte) : Memory :=
  match bs with
  | [] => m
  | b :: r => Memory.store (Memory.write m a b) (a + 1) r

/-- Store the bytes that are present, leaving the others. -/
def Memory.storeMasked (m : Memory) (a : Nat) (bs : List (Option Byte)) : Memory :=
  match bs with
  | [] => m
  | none :: r => Memory.storeMasked m (a + 1) r
  | some b :: r => Memory.storeMasked (Memory.write m a b) (a + 1) r

/-- The number whose little-endian bytes are the list (R4). -/
def leNat (bs : List Byte) : Nat := bs.foldr (fun b acc => b.toNat + 256 * acc) 0

/-- The `n` little-endian bytes of a number. -/
def leBytes (n v : Nat) : List Byte := (List.range n).map (fun i => BitVec.ofNat 8 (v / 256 ^ i))

/-- Lane `i` of width `w` of a row (R281). -/
def lane (r : Row) (w i : Nat) : Nat := r.toNat / 2 ^ (w * i) % 2 ^ w

/-- The number with the given lanes, lane 0 lowest. -/
def packLanes (w : Nat) (l : List Nat) : Nat := l.foldr (fun v acc => v % 2 ^ w + acc * 2 ^ w) 0

/-- The row with the given lanes. -/
def ofLanes (w : Nat) (l : List Nat) : Row := BitVec.ofNat 4096 (packLanes w l)

/-- The lanes of a row. -/
def lanesOf (r : Row) (w : Nat) : List Nat := (List.range (4096 / w)).map (lane r w)

/-- The bytes of a row. -/
def rowBytes (r : Row) : List Byte := leBytes 512 r.toNat

/-- The row of 512 bytes. -/
def bytesRow (bs : List Byte) : Row := BitVec.ofNat 4096 (leNat bs)

/-- A row of which the quarters named by `keep` stay as in `old` (R324). -/
def keepQuarters (keep : BitVec 4) (old new : Row) : Row :=
  ofLanes 1024 ((List.range 4).map (fun q => if keep.getLsbD q then lane old 1024 q else lane new 1024 q))

/-- Sign-extend the low `n` bits of a number to 64 bits. -/
def sext (n v : Nat) : Word := (BitVec.ofNat n v).signExtend 64

/-- The low 64 bits of a queue entry. -/
def qWordOf (r : Row) : Word := r.setWidth 64

/-- A word as a queue entry. -/
def wordRow (w : Word) : Row := w.setWidth 4096

/-- Read a field of a 64-bit register. -/
def wfld (w : Word) (lo n : Nat) : Nat := w.toNat / 2 ^ lo % 2 ^ n

/-- Set a field of a 64-bit register. -/
def wset (w : Word) (lo n v : Nat) : Word :=
  BitVec.ofNat 64 (w.toNat / 2 ^ (lo + n) * 2 ^ (lo + n) + v % 2 ^ n * 2 ^ lo + w.toNat % 2 ^ lo)

/-- The value of a Bool as a bit. -/
def b2n (b : Bool) : Nat := if b then 1 else 0

/-- Insert a landing in the order of its count and of its place in that cycle, after those already there (R147). -/
def insertPend (p : Pend) (l : List Pend) : List Pend :=
  match l with
  | [] => [p]
  | x :: r => if p.due < x.due || (p.due == x.due && p.ord < x.ord) then p :: x :: r else x :: insertPend p r

end Sys2Proof.Machine
end

