-- ==== Sys2Proof/Machine/Base.lean ====
section
/-! DEFINITION. The first named operations over tiles, queues, tokens and gangs that every later file uses: reading and writing
registers, reserving and landing, and the stall wire. -/
namespace Sys2Proof.Machine

open Sys2Proof

/-- The outcome of one step of this machine. -/
abbrev Out := Host.Outcome State Fault Refusal

/-- The tile with a flight number. -/
def State.tile (s : State) (n : Nat) : Tile := get Tile.reset s.tiles n

/-- Replace a tile. -/
def State.setTile (s : State) (n : Nat) (t : Tile) : State := { s with tiles := put s.tiles n t }

/-- Change a tile. -/
def State.modTile (s : State) (n : Nat) (f : Tile → Tile) : State := s.setTile n (f (s.tile n))

/-- The die of a flight number (R124). -/
def dieOf (n : Nat) : Nat := n / 128

/-- The code of a column in a line header (R254) and in TRAP.CAUSE.COL (R165). -/
def colCode (c : Col) : Nat :=
  match c with
  | .ct => 1 | .ld => 2 | .st => 3 | .vx => 4 | .mx => 5 | .sq => 6 | .lk => 7 | .ce => 8 | .logit => 0

/-- The column of a header code (R254). -/
def codeCol (n : Nat) : Option Col :=
  match n with
  | 1 => some .ct | 2 => some .ld | 3 => some .st | 4 => some .vx | 5 => some .mx | 6 => some .sq | 7 => some .lk | 8 => some .ce
  | _ => none

/-- The place of a column in the token chain LD, VX, MX, SQ, ST, LK (R149). -/
def chainPos (c : Col) : Nat :=
  match c with
  | .ld => 0 | .vx => 1 | .mx => 2 | .sq => 3 | .st => 4 | _ => 5

/-- The order of a column among the landings of one cycle (R147, R148). -/
def landOrd (c : Col) : Nat :=
  match c with
  | .ct => 5 | .ld => 10 | .vx => 20 | .mx => 30 | .sq => 40 | .st => 50 | .lk => 60 | _ => 70

/-- The words that stand in a column's instruction queue. -/
def Tile.iq (t : Tile) (c : Col) : List QWord := get [] t.fe.iq (colCode c)

/-- Replace a column's instruction queue. -/
def Tile.setIq (t : Tile) (c : Col) (l : List QWord) : Tile := { t with fe := { t.fe with iq := put t.fe.iq (colCode c) l } }

/-- The issue state of a column before its first word. -/
def ColSt.init : ColSt := ⟨0, 0, .untested, none, []⟩

/-- The issue state of a column. -/
def Tile.col (t : Tile) (c : Col) : ColSt := get ColSt.init t.fe.cols (colCode c)

/-- Replace the issue state of a column. -/
def Tile.setCol (t : Tile) (c : Col) (x : ColSt) : Tile := { t with fe := { t.fe with cols := put t.fe.cols (colCode c) x } }

/-- The program counter of a column: the next word it will issue, or the fetch position when its queue is empty (R143). -/
def Tile.pc (t : Tile) (c : Col) : Nat :=
  match t.iq c with
  | q :: _ => q.addr
  | [] => t.fe.pc

/-- g registers: g0 reads as 0 (R294). -/
def Tile.g (t : Tile) (r : Nat) : Word := if r = 0 then 0 else get 0 t.ct.g r

/-- Write a g register, readable from CT cycle `clk + lat`; a write to g0 is discarded (R294, R295). -/
def Tile.setG (t : Tile) (r : Nat) (v : Word) (lat : Nat) : Tile :=
  if r = 0 then t
  else { t with ct := { t.ct with g := put t.ct.g r v, gReady := put t.ct.gReady r (t.ct.clk + lat) } }

/-- May a g register be read, or written again, in this CT cycle (R294)? -/
def Tile.gOk (t : Tile) (r : Nat) : Bool := r == 0 || get 0 t.ct.gReady r ≤ t.ct.clk

/-- The entries of a queue register (R148). -/
def Tile.queue (t : Tile) (q : Nat) : List Row := get [] t.qs.q q

/-- The depth of a queue register (R148). -/
def qCap (q : Nat) : Nat := if q < 4 then 8 else 2

/-- How many entries of a queue are free to be popped. -/
def Tile.avail (t : Tile) (q : Nat) : Nat := (t.queue q).length - get 0 t.qs.held q

/-- How much room a queue had at the start of the cycle that nothing has reserved (R148). -/
def Tile.space (t : Tile) (q : Nat) : Nat := qCap q - ((t.queue q).length + get 0 t.qs.popped q + get 0 t.qs.room q)

/-- The entry a pop takes: the first that no stamped word holds. -/
def Tile.front (t : Tile) (q : Nat) : Row := (t.queue q).getD (get 0 t.qs.held q) 0

/-- Pop one entry of a queue (R148). -/
def Tile.pop (t : Tile) (q : Nat) : Tile :=
  { t with qs := { t.qs with q := put t.qs.q q ((t.queue q).eraseIdx (get 0 t.qs.held q)), popped := upd 0 t.qs.popped q (· + 1) } }

/-- Reserve room in a queue (R148). -/
def Tile.reserve (t : Tile) (q : Nat) : Tile := { t with qs := { t.qs with room := upd 0 t.qs.room q (· + 1) } }

/-- Push an entry whose room was reserved. -/
def Tile.push (t : Tile) (q : Nat) (v : Row) : Tile :=
  { t with qs := { t.qs with q := put t.qs.q q (t.queue q ++ [v]), room := upd 0 t.qs.room q (· - 1) } }

/-- Give back room that was reserved and will not be used. -/
def Tile.unreserve (t : Tile) (q : Nat) : Tile := { t with qs := { t.qs with room := upd 0 t.qs.room q (· - 1) } }

/-- The token FIFOs a column pops and pushes (R149): the five toward the right are 0–4, the five toward the left 5–9. -/
def tokIn (c : Col) (k : Tok) : List Nat :=
  (if k.popL then [chainPos c - 1] else []) ++ (if k.popR then [5 + chainPos c] else [])
def tokOut (c : Col) (k : Tok) : List Nat :=
  (if k.pushL then [4 + chainPos c] else []) ++ (if k.pushR then [chainPos c] else [])

/-- May a token be popped, or room for one reserved (R149)? -/
def Tile.tokReady (t : Tile) (f : Nat) : Bool := 0 < get 0 t.qs.tok f
def Tile.tokSpace (t : Tile) (f : Nat) : Bool := get 0 t.qs.tok f + get 0 t.qs.tokRoom f < 4

/-- Pop a token; reserve room for one. -/
def Tile.popTok (t : Tile) (f : Nat) : Tile := { t with qs := { t.qs with tok := upd 0 t.qs.tok f (· - 1) } }
def Tile.reserveTok (t : Tile) (f : Nat) : Tile := { t with qs := { t.qs with tokRoom := upd 0 t.qs.tokRoom f (· + 1) } }

/-- A landing at a gang count. -/
def Tile.land (t : Tile) (due ord : Nat) (a : Act) : Tile := { t with pend := insertPend ⟨due, ord, a⟩ t.pend }

/-- A landing `n` counts after issue, in the order of the column's writes. -/
def Tile.after (t : Tile) (c : Col) (n : Nat) (a : Act) : Tile := t.land (t.cnt + n) (landOrd c) a

/-- The tokens a word pushes at issue + n: each can be popped one count later (R149). -/
def Tile.pushToks (t : Tile) (fs : List Nat) (n : Nat) : Tile :=
  fs.foldl (fun u f => u.land (u.cnt + n + 1) 0 (.token f)) t

/-- Rows, scale rows, Pound rows and the scratchpad. -/
def Tile.row (t : Tile) (r : Nat) : Row := get 0 t.st.v r
def Tile.setRow (t : Tile) (r : Nat) (v : Row) : Tile := { t with st := { t.st with v := put t.st.v r v } }
def Tile.scaleRow (t : Tile) (r : Nat) : Row := get 0 t.st.scale r
def Tile.poundRow (t : Tile) (slot row : Nat) : Row := get 0 t.st.pound (slot * 16 + row)
def Tile.spadRow (t : Tile) (x : Nat) : Row := bytesRow (t.st.spad.bytes x 512)
def Tile.setPound (t : Tile) (slot row : Nat) (v : Row) : Tile := { t with st := { t.st with pound := put t.st.pound (slot * 16 + row) v } }
def Tile.setScale (t : Tile) (r : Nat) (v : Row) : Tile := { t with st := { t.st with scale := put t.st.scale r v } }
def Tile.setSpad (t : Tile) (m : Memory) : Tile := { t with st := { t.st with spad := m } }

/-- The local stores as they were before the synchronous writes of the present cycle: engines read these (R186), and so does a write that
keeps part of what it writes over, since the other writes of its cycle are lost (R147). -/
def Tile.before_ (t : Tile) : Stores := t.old.getD t.st
/-- A write of an engine stands over the synchronous writes of its cycle, and the engines see it at once (R186). -/
def Tile.engStore (t : Tile) (a : Nat) (bs : List Byte) : Tile :=
  { t with st := { t.st with spad := t.st.spad.store a bs }, old := t.old.map (fun o => { o with spad := o.spad.store a bs }) }

/-- The descriptor of a Pound slot and its state (R210). -/
def Tile.desc (t : Tile) (slot : Nat) : BitVec 16 := get 0 t.st.pdesc slot
def slotState (d : BitVec 16) : Nat := d.toNat % 4
def slotPair (d : BitVec 16) : Nat := d.toNat / 256 % 64
def slotHeld (d : BitVec 16) : Bool := d.getLsbD 15
def Tile.setDesc (t : Tile) (slot : Nat) (d : BitVec 16) : Tile := { t with st := { t.st with pdesc := put t.st.pdesc slot d } }

/-- The count of a semaphore (R150). -/
def Tile.sem (t : Tile) (n : Nat) : BitVec 32 := get 0 t.qs.sm n

/-- A raise that lands in this cycle: a wait sees it from the next (R150). An engine's raise also sets the event latch
(R151). -/
def Tile.raise (t : Tile) (n v : Nat) (engine : Bool) : Tile :=
  { t with qs := { t.qs with raises := t.qs.raises ++ [(n, BitVec.ofNat 32 v)] }, ct := { t.ct with latch := t.ct.latch || engine } }

/-- A new key for a command, a carry or a direct store of a tile. -/
def Tile.newKey (t : Tile) : Tile × Nat := ({ t with en := { t.en with nextKey := t.en.nextKey + 1 } }, t.en.nextKey)

/-- Does a fence keep a tile's traffic from the network (R246)? -/
def Health.cut (h : Health) : Bool := match h with | .fenced => true | .testing => true | .appealing => true | _ => false

/-- A port, and the ports that are up and reach a package (R50, R52). -/
def State.port (s : State) (p : Nat) : Port := get Port.reset s.ports p
def State.setPort (s : State) (p : Nat) (x : Port) : State := { s with ports := put s.ports p x }
def State.outPorts (s : State) (pkg : Nat) : List Nat := (s.ports.filter (fun e => e.2.up && (get 0 s.routes pkg).getLsbD e.1)).map (·.1)
def State.routed (s : State) (pkg : Nat) : Bool := !(s.outPorts pkg).isEmpty
/-- The die on which a port sits (R47); the port groups 4d to 4d + 3 of die d hold eight ports each. -/
def portDie (p : Nat) : Nat := p / 32
/-- The port through which packets for a die of another package leave: the one in the route mask that a hash of the destination die number alone
gives; while that port is down, one of those that are up (R50, R52). -/
def State.portFor (s : State) (p : Place) : Option Nat :=
  let h := Config.hash (4 * p.pkg + dieOf p.tile)
  let mask := (List.range 128).filter (fun q => (get 0 s.routes p.pkg).getLsbD q)
  let up := s.outPorts p.pkg
  if p.pkg = s.pkg then none
  else match mask[h % Nat.max 1 mask.length]? with
    | none => none
    | some q => if (s.port q).up then some q else up[h % Nat.max 1 up.length]?
/-- How the next packet for a place travels on VL0 to VL2, and the count of packets sent. -/
def State.hop (s : State) (p : Place) : Hop := ⟨s.packets, s.portFor p, get 0 s.routeNo p.pkg⟩
def State.sent (s : State) (k : Nat) : State := { s with packets := s.packets + k }

/-- A word of an MSI-X table, by function (0 the PF, 1 + p the VF of partition p) and offset; as PCIe has it, a vector is masked after reset
(R115, R117; log 85). -/
def State.msixWord (s : State) (f off : Nat) : Word := get (if off % 16 = 8 then 0x100000000#64 else 0) s.plain (f * 2 ^ 20 + off)
/-- Is a vector of the VF of a partition masked? -/
def State.masked (s : State) (p v : Nat) : Bool := (s.msixWord (1 + p) (0x8000 + 16 * v + 8)).getLsbD 32
/-- The VF of a partition signals a vector: the message is sent, or its pending bit is set while the vector is masked (R103, R115). -/
def State.signal (s : State) (p v : Nat) : State :=
  if s.masked p v then { s with pba := if s.pba.contains (p, v) then s.pba else s.pba ++ [(p, v)] }
  else { s with msi := s.msi ++ [(p, v)] }
/-- A vector that is no longer masked sends what is pending. -/
def State.unmasked (s : State) (p v : Nat) : State :=
  if !s.masked p v && s.pba.contains (p, v) then { s with pba := s.pba.filter (· != (p, v)), msi := s.msi ++ [(p, v)] } else s

/-- `n` bytes that the spec does not fix. -/
def State.freeBytes (s : State) (n : Nat) : State × List Byte :=
  let words := (List.range ((n + 7) / 8)).map (fun i => leBytes 8 (Config.bits (s.free + i)).toNat)
  ({ s with free := s.free + (n + 7) / 8 }, words.flatten.take n)

/-! ### Gangs and the stall wire -/

/-- The freeze distance of a gang (R155): 12 on one die, 60 across dies. -/
def freezeDist (g : Gang) : Nat := if g.log2 ≤ 7 then 12 else 60

/-- Does a gang hold a tile? -/
def Gang.has (g : Gang) (n : Nat) : Bool := g.base ≤ n && n < g.base + 2 ^ g.log2

/-- Is the gang on its tiles (not switched out)? -/
def Gang.onTiles (g : Gang) : Bool :=
  match g.phase with
  | .out => false
  | _ => true

/-- The gang that a tile runs. -/
def State.gangOf (s : State) (n : Nat) : Option Gang := s.gangs.find? (fun g => g.has n && g.onTiles)

/-- Change the gang with a base that stands on its tiles. -/
def State.modGang (s : State) (base : Nat) (f : Gang → Gang) : State :=
  { s with gangs := s.gangs.map (fun g => if g.base = base && g.onTiles then f g else g) }

/-- The flight numbers of a gang. -/
def Gang.tiles (g : Gang) : List Nat := (List.range (2 ^ g.log2)).map (g.base + ·)

/-- A source raises the wire at the tile's gang count: the earlier freeze point stands (R155). -/
def State.raiseWire (s : State) (n : Nat) : State :=
  match s.gangOf n with
  | none => s
  | some g =>
    let f := (s.tile n).cnt + freezeDist g
    s.modGang g.base (fun g => { g with freeze := some (match g.freeze with | none => f | some e => Nat.min e f), resumeAt := none })

/-- Does a tile raise its gang's wire: a trap entry, a schedule miss of a column or of its Flight (R155)? -/
def Tile.source (t : Tile) : Bool :=
  t.ct.handler || t.fe.cols.any (fun c => match c.2.st with | .missed _ => true | _ => false) ||
    (match t.sq.flight with | some f => f.miss.isSome | none => false)

/-- When the last source of a gang has gone, it resumes one freeze distance later (R155). -/
def State.lowerWire (s : State) (n : Nat) : State :=
  match s.gangOf n with
  | none => s
  | some g =>
    if g.hold.isSome || g.tiles.any (fun k => (s.tile k).source) || g.freeze.isNone || g.resumeAt.isSome then s
    else s.modGang g.base (fun g => { g with resumeAt := some (s.stamp + freezeDist g) })

/-- Does a gang's counter stand at a count: from its freeze point on, and while it is switched out or has not started (R152)? -/
def Gang.stands (g : Gang) (cnt : Nat) : Bool :=
  match g.phase with
  | .running => match g.freeze with
    | some f => f ≤ cnt
    | none => false
  | _ => true

/-- Is a tile frozen (R155)? -/
def State.frozen (s : State) (n : Nat) : Bool :=
  match s.gangOf n with
  | none => false
  | some g => g.stands (s.tile n).cnt

end Sys2Proof.Machine
end

