-- ==== Sys2Proof/Machine/Mem.lean ====
section
/-! DEFINITION. Virtual memory at its coherence point: the routes between dies (R13), the page walk (R72–R76), the checks of a
Basin slice (R77–R80), Basin lines and pending fills (R81, R189), carve lines (R89), and the tile data cache (R170). -/
namespace Sys2Proof.Machine

open Sys2Proof

/-- A die, and the dies with one replaced. -/
def State.die (s : State) (d : Nat) : Die := get (Die.reset d) s.dies d
def State.setDie (s : State) (d : Nat) (x : Die) : State := { s with dies := put s.dies d x }
def State.modDie (s : State) (d : Nat) (f : Die → Die) : State := s.setDie d (f (s.die d))

/-- The bridges a request crosses between two dies (R13): 0 B01, 1 B13, 2 B23, 3 B02. -/
def bridgePath (a b : Nat) : List Nat :=
  let row := if a < 2 then 0 else 2
  let column := if b % 2 = 0 then 3 else 1
  if a = b then [] else if a / 2 = b / 2 then [row] else if a % 2 = b % 2 then [column] else [row, column]

/-- Does a working path join two dies of the package? -/
def State.joined (s : State) (a b : Nat) : Bool := (bridgePath a b).all (fun i => !s.bridges.getLsbD i)

/-- The first failed bridge on the way between two dies. -/
def State.brokenBridge (s : State) (a b : Nat) : Option Nat := (bridgePath a b).find? (fun i => s.bridges.getLsbD i)
/-- Can a packet from a die leave for another package: over the bridges to the die of its port (R13, R47, R52)? -/
def State.leaves (s : State) (a : Nat) (p : Place) : Bool :=
  match s.portFor p with
  | none => false
  | some q => s.joined a (portDie q)

/-- The die field and the offset of a virtual address (R69). -/
def vaDie (va : Nat) : Nat := va / 2 ^ 45 % 4096
def vaOff (va : Nat) : Nat := va % 2 ^ 45

/-- Is the die of a virtual address in this package, and which local die is it? -/
def State.localDie (s : State) (va : Nat) : Option Nat :=
  if vaDie va / 4 = s.pkg then some (vaDie va % 4) else none

/-- The key of a byte of physical memory. -/
def paKey (d pa : Nat) : Nat := d * 2 ^ 43 + pa

/-- Kinds of physical storage (R71). -/
def isCarve (pa : Nat) : Bool := 0x8000000000 ≤ pa && pa < 0x8008000000
def isDram (pa : Nat) : Bool := pa < 0x1DCD650000
def tier2Port (d pa : Nat) : Nat := 4 * d + (pa / 2 ^ 40 - 1)
def isTier2 (pa : Nat) : Bool := 2 ^ 40 ≤ pa && pa < 5 * 2 ^ 40

/-- The bytes that a CXL port attaches, at most 1,024 GB (R66). -/
def State.attached (s : State) (port : Nat) : Nat := Nat.min 1024000000000 (get 0 s.cxlSize port)
/-- Is a physical address populated (R66, R71)? -/
def State.populated (s : State) (d pa : Nat) : Bool :=
  isDram pa || isCarve pa || (isTier2 pa && pa % 2 ^ 40 < s.attached (tier2Port d pa))
/-- Is the CXL port of a frame up? A frame of the stacks or of the Basin has none. -/
def State.portUp (s : State) (d pa : Nat) : Bool := !isTier2 pa || s.cxlUp.getLsbD (tier2Port d pa)
/-- Has the page of a virtual address been mapped again since its CXL port last went down (R68)? A shootdown that ends while the port is up
shows it. -/
def State.mapped (s : State) (d part off pa : Nat) : Bool :=
  !isTier2 pa || (match find s.remap (tier2Port d pa) with
    | none => true
    | some l => l.any (fun e => e.1 == part && decide (e.2.1 ≤ off) && decide (off < e.2.1 + 65536 * e.2.2)))

/-- The ownership key of the frame that holds a physical address: 64 KiB frames, 2 MiB granules in the second tier (R99). -/
def frameKey (pa : Nat) : Nat := if isTier2 pa then 2 ^ 32 + pa / 2 ^ 21 else pa / 2 ^ 16

/-- The ownership byte of a frame: after reset unowned and zeroed, and with RD set in Redric's own region of DRAM (R99). DESIGN CHOICE (log 79):
which frames form that region is free. -/
def Die.own (x : Die) (pa : Nat) : BitVec 8 :=
  get (if isDram pa && Config.redric x.num (frameKey pa) then 0x60 else 0x40) x.owner (frameKey pa)

/-- The addresses of the frames in a page of 2^log2 bytes (R99). -/
def framesOf (pa log2 : Nat) : List Nat :=
  let size := if isTier2 pa then 2 ^ 21 else 2 ^ 16
  (List.range ((2 ^ log2 + size - 1) / size)).map (fun i => pa + i * size)
/-- Does a partition own all the frames of a page (R75)? A page on which a byte is not populated is owned by no one. -/
def State.ownsPage (s : State) (d part pa log2 : Nat) : Bool :=
  s.populated d pa && s.populated d (pa + 2 ^ log2 - 1) && (framesOf pa log2).all (fun a =>
    let o := (s.die d).own a
    o.getLsbD 7 && o.toNat % 16 == part && !o.getLsbD 5 && !o.getLsbD 4)

/-- Is a range of physical memory inside the die's Wharf table region (R72, R99)? -/
def Die.inTables (x : Die) (pa n : Nat) : Bool :=
  (List.range ((pa + n - 1) / 2 ^ 16 - pa / 2 ^ 16 + 1)).all (fun i => (x.own (pa + i * 2 ^ 16)).getLsbD 4 && isDram (pa + i * 2 ^ 16))

/-- A 64-bit word of physical memory. -/
def State.word64 (s : State) (d pa : Nat) : Nat := leNat (s.mem.bytes (paKey d pa) 8)

/-- A fault of a walk or a check: the subcause and the level (R77, R84). -/
structure Flt where
  sub : Nat
  lvl : Nat
  deriving DecidableEq, Repr

/-- The fields of a leaf (R74). -/
def leafAddr (e : Nat) : Nat := e / 2 ^ 8 % 2 ^ 35 * 2 ^ 8
def leafBit (e i : Nat) : Bool := e / 2 ^ i % 2 == 1
def leafAttr (e : Nat) : Nat := e / 2 ^ 44 % 4

/-- The format checks of an entry at a level whose pages are 2^log2 bytes and whose next tables are `next` bytes (R75). -/
def entryBad (e lvl log2 next : Nat) : Bool :=
  e / 2 ^ 60 != 0 || e / 2 ^ 47 % 2 ^ 9 != 0 || leafBit e 43 || (leafBit e 1 && lvl == 3) ||
    (if leafBit e 1 then leafAddr e % next != 0
     else leafAddr e % 2 ^ log2 != 0 || (leafBit e 3 && !leafBit e 2) || (leafBit e 5 && leafBit e 3) ||
      ((leafAttr e == 3) != isCarve (leafAddr e)))

/-- The logical slice index of an offset (R85). -/
def sliceIndex (off : Nat) : Nat :=
  ((List.range 7).foldl (fun f i => f ^^^ (off / 2 ^ (12 + 5 * i) % 32)) 0) ^^^ (off / 2 ^ 7 % 32)
/-- The slice that serves an offset under the present map (R85). -/
def Die.slice (x : Die) (off : Nat) : Nat := get 0 x.ents (sliceIndex off)

/-- The walk (R72, R75), the ownership of the whole frame that the leaf names included (log 80): the levels still to read, with index, page size,
size of this table and of the next. An entry in an uncorrectable sector is the fault UNCORR of the access (R20). -/
def walkLevels (s : State) (d part off table : Nat) (ls : List (Nat × Nat × Nat × Nat × Nat)) : Except Flt Tlb :=
  match ls with
  | [] => .error ⟨5, 3⟩
  | (lvl, log2, entries, size, next) :: r =>
    if !(s.die d).inTables table size then .error ⟨5, lvl⟩
    else
      let pa := table + 8 * (off / 2 ^ log2 % entries)
      let e := s.word64 d pa
      if (s.die d).bad.contains (pa / 32) then .error ⟨14, 0⟩
      else if !leafBit e 0 then .error ⟨4, lvl⟩
      else if entryBad e lvl log2 next then .error ⟨5, lvl⟩
      else if leafBit e 1 then walkLevels s d part off (leafAddr e) r
      else
        if !s.ownsPage d part (leafAddr e) log2 then .error ⟨6, 0⟩
        else .ok ⟨(s.die d).slice off, part, off / 2 ^ log2 * 2 ^ log2, log2, pa, BitVec.ofNat 64 e⟩

/-- The three levels (R72). -/
def walk (s : State) (d part off : Nat) : Except Flt Tlb :=
  let root := get 0 (s.die d).roots part
  if !root.getLsbD 0 then .error ⟨3, 0⟩
  else walkLevels s d part off (root.toNat / 2 ^ 18 % 2 ^ 25 * 2 ^ 18)
    [(1, 30, 32768, 262144, 4096), (2, 21, 512, 4096, 256), (3, 16, 32, 256, 1)]

/-- Set bits of a leaf in memory when it still holds the value the slice loaded (R76). -/
def State.markLeaf (s : State) (d : Nat) (t : Tlb) (bits : Nat) : State × Tlb :=
  if s.word64 d t.leafPa = t.leaf.toNat then
    let e := t.leaf ||| BitVec.ofNat 64 bits
    ({ s with mem := s.mem.store (paKey d t.leafPa) (leBytes 8 e.toNat) }, { t with leaf := e })
  else (s, t)

/-- Does a TLB entry of a slice serve an offset? -/
def Tlb.hit (t : Tlb) (sl part off : Nat) : Bool := t.slice == sl && t.part == part && t.page ≤ off && off < t.page + 2 ^ t.log2

/-- A free choice among a list: its element, if it has one. -/
def State.choose (s : State) (l : List α) : State × Option α :=
  if l.length = 0 then (s, none) else ({ s with free := s.free + 1 }, l[Config.pick s.free % l.length]?)

/-- The set of a slice TLB that an entry lies in: 64 sets of 8 ways (R80), by a hash that the spec leaves open (log 17). -/
def Tlb.set (t : Tlb) : Nat := Config.tlbSet (t.part + 16 * (t.log2 + 64 * t.page)) % 64
/-- Room for one more entry in a set of a slice TLB: a free choice among the eight leaves. -/
def State.tlbRoom (s : State) (d : Nat) (t : Tlb) : State :=
  let mine := (s.die d).tlb.filter (fun x => x.slice == t.slice && x.set == t.set)
  if mine.length < 8 then s
  else match s.choose mine with
    | (s, some v) => s.modDie d (fun x => { x with tlb := x.tlb.erase v })
    | (s, none) => s

/-- The translation of an offset: a slice-TLB hit, or a walk that loads the leaf and sets A (R76, R80). -/
def State.translate (s : State) (d part off : Nat) : State × Except Flt Tlb :=
  match (s.die d).tlb.find? (·.hit ((s.die d).slice off) part off) with
  | some t => (s, .ok t)
  | none => match walk s d part off with
    | .error f => (s, .error f)
    | .ok t =>
      let (s, t) := s.markLeaf d t 0x40
      ((s.tlbRoom d t).modDie d (fun x => { x with tlb := t :: x.tlb }), .ok t)

/-- The kinds of access (R84): read, write, read-modify-write, fetch. -/
inductive Acc where
  | rd | wr | rmw | fetch
  deriving DecidableEq, Repr

/-- The answer of a slice to the checks of R77. -/
inductive Chk where
  | fault (f : Flt)
  | wait
  | ok (pa : Nat) (attr : Nat) (r w : Bool)
  deriving DecidableEq, Repr

/-- The key of a line of the Basin or of the lost-line list: the partition and the line number. -/
def lineKey (part va : Nat) : Nat := part * 2 ^ 50 + va % 2 ^ 57 / 128

/-- Is an address of a partition inside the range of the latest shootdown of a die, and does that shootdown still block it (R90)? -/
def Die.blockedVa (x : Die) (part va : Nat) : Bool := x.shPart == part && x.shva.toNat ≤ va && va < x.shva.toNat + x.shn.toNat * 65536
def Die.blocked (x : Die) (part va : Nat) : Bool := x.shPhase != 0 && x.blockedVa part va

/-- Is the carve-out that holds a frame ready (R88)? -/
def Die.carveReady (x : Die) (pa : Nat) : Bool :=
  x.carve.any (fun c => c.2.getLsbD 13 && c.2.getLsbD 14 &&
    0x8000000000 + wfld c.2 0 6 * 2 ^ 21 ≤ pa && pa < 0x8000000000 + (wfld c.2 0 6 + wfld c.2 6 7) * 2 ^ 21)

/-- Where a byte of a line lies in the die's storage: its frame, or its slot of the carve-out (R89). A slice that serves two logical
indices holds two shares (R87), so the slot goes with the logical index. -/
def carveSlot (pa off : Nat) : Nat :=
  if isCarve pa then pa / 4096 * 4096 + sliceIndex off * 128 + pa % 128 else pa
/-- Does the Basin hold the bytes of a range that lie in the sector at an address, so that no fill is needed (R93)? -/
def Die.holdsSector (x : Die) (part va lo n : Nat) : Bool :=
  let base := va / 32 * 32
  match find x.lines (lineKey part va) with
  | some l => l.valid.getLsbD (va % 128 / 32) ||
      (List.range 32).all (fun i => base + i < lo || lo + n ≤ base + i || l.dirty.getLsbD ((base + i) % 128))
  | none => false
/-- The slice that holds a line with dirty bytes keeps it with the frame it was filled from (R81): that frame, if there is one. -/
def Die.dirtyFrame (x : Die) (part va : Nat) : Option Nat :=
  match find x.lines (lineKey part va) with
  | some l => if l.dirty = 0 then none else some l.pa
  | none => none
/-- The offset of a line, and the slice that serves it. -/
def lineOff (key : Nat) : Nat := key % 2 ^ 50 * 128 % 2 ^ 45
def Die.sliceOf (x : Die) (key : Nat) : Nat := x.slice (lineOff key)
/-- The number of entries on the lost-line list of a slice (R93). -/
def Die.lostIn (x : Die) (sl : Nat) : Nat := (x.lost.filter (fun k => x.sliceOf k == sl)).length
/-- A loss enters the lost-line list of 64 entries; one at a full list is reported to Wharf, which drains and resets the partition (R93). -/
def State.enterLost (s : State) (d key : Nat) : State :=
  let x := s.die d
  if x.lost.contains key then s
  else if 64 ≤ x.lostIn (x.sliceOf key) then { s with notices := s.notices ++ [[3, key / 2 ^ 50]] }
  else s.modDie d (fun x => { x with lost := x.lost ++ [key] })
/-- A line of the Basin is discarded and enters the lost-line list (R93). -/
def State.loseLine (s : State) (d key : Nat) : State := (s.modDie d (fun x => { x with lines := del x.lines key })).enterLost d key

/-- Is a logical slice index being moved from a slice that has not sent MOVEDONE (R87)? -/
def Die.heldIndex (x : Die) (off : Nat) : Bool := x.retiring.any (fun k => k / 32 == sliceIndex off)

/-- Did the carve line of an address lie in a slice that has been retired since its carve-out was made (R87)? -/
def Die.carveLost (x : Die) (pa off : Nat) : Bool :=
  x.carve.any (fun c => c.2.getLsbD 13 && 0x8000000000 + wfld c.2 0 6 * 2 ^ 21 ≤ pa && pa < 0x8000000000 + (wfld c.2 0 6 + wfld c.2 6 7) * 2 ^ 21 &&
    x.carveGone.contains (c.1 * 32 + sliceIndex off))

/-- No sector is written in full: the access is a read, or a part of a sector. -/
def noneWhole : Nat → Bool := fun _ => false
/-- Do the bytes that a write at `va` carries cover a sector in full (R93)? -/
def covers (va : Nat) (bs : List (Option Byte)) (k : Nat) : Bool :=
  decide (va ≤ 32 * k ∧ 32 * k + 32 ≤ va + bs.length) && ((bs.drop (32 * k - va)).take 32).all (·.isSome)
/-- The 128-byte lines that a range overlaps, by their addresses. -/
def linesOf (va n : Nat) : List Nat := (List.range ((va + n + 127) / 128 - va / 128)).map (fun i => (va / 128 + i) * 128)
/-- The checks of R77 from CARVE on, with a loaded leaf, in the order of the subcauses; none when a write finds D clear and the entry in memory no
longer holds the loaded value, so that D cannot be set (R76). -/
def State.checkLeaf (s : State) (d part va n : Nat) (acc : Acc) (whole : Nat → Bool) (t : Tlb) : Option Chk :=
  let e := t.leaf.toNat
  let pa := leafAddr e + vaOff va % 2 ^ t.log2
  let x := s.die d
  let flt := fun (k : Nat) => some (Chk.fault ⟨k, 0⟩)
  let wr := acc = .wr ∨ acc = .rmw
  if isCarve pa && !x.carveReady pa then flt 7
  else if leafBit e 46 then flt 8
  else if (acc = .rd ∨ acc = .rmw) ∧ !leafBit e 2 then flt 9
  else if wr ∧ !leafBit e 3 ∧ !leafBit e 5 then flt 10
  else if acc = .fetch ∧ !leafBit e 4 then flt 11
  else if wr ∧ leafBit e 5 then flt 12
  else if !s.portUp d pa || !s.mapped d part (vaOff va) pa || (linesOf va n).any (fun a => (x.dirtyFrame part a).any (fun q => !s.portUp d q)) then flt 13
  else if (List.range ((pa + n + 31) / 32 - pa / 32)).any (fun i =>
      !whole (va / 32 + i) && x.bad.contains (pa / 32 + i) && !x.holdsSector part (va + 32 * i) va n) then flt 14
  else if (linesOf va n).any (fun a => x.lost.contains (lineKey part a) || (isCarve pa && x.carveLost pa (vaOff a))) then flt 15
  else if wr ∧ !leafBit e 7 ∧ s.word64 d t.leafPa ≠ e then none
  else some (.ok pa (leafAttr e) (leafBit e 2) (leafBit e 3))

/-- A write through the loaded leaf of a page, after its check, sets D if it is clear (R76). -/
def State.markWrite (s : State) (part va : Nat) : State :=
  match s.localDie va with
  | none => s
  | some d => match (s.die d).tlb.find? (·.hit ((s.die d).slice (vaOff va)) part (vaOff va)) with
    | none => s
    | some t =>
      if t.leaf.getLsbD 7 then s
      else
        let (s, u) := s.markLeaf d t 0x80
        s.modDie d (fun x => { x with tlb := x.tlb.map (fun y => if y = t then u else y) })
/-- The translation that a slice holds for an address. -/
def State.via (s : State) (part va : Nat) : Option Tlb :=
  match s.localDie va with
  | none => none
  | some d => (s.die d).tlb.find? (·.hit ((s.die d).slice (vaOff va)) part (vaOff va))

/-- The translation and the checks of a local access; a stale entry is dropped and walked again (R76). An OWNER fault is also
told to Redric (R75). -/
def State.checkLocal (s : State) (d part va n : Nat) (acc : Acc) (whole : Nat → Bool) : State × Chk :=
  let fail := fun (s : State) (f : Flt) => (if f.sub = 6 then { s with notices := s.notices ++ [[2, part, d]] } else s, Chk.fault f)
  match s.translate d part (vaOff va) with
  | (s, .error f) => fail s f
  | (s, .ok t) => match s.checkLeaf d part va n acc whole t with
    | some c => (s, c)
    | none => match (s.modDie d (fun x => { x with tlb := x.tlb.filter (· != t) })).translate d part (vaOff va) with
      | (s, .error f) => fail s f
      | (s, .ok t) => match s.checkLeaf d part va n acc whole t with
        | some c => (s, c)
        | none => (s, .wait)

/-- Does a slice hold a request for some line of a range: its index is being moved from a slice that has not sent MOVEDONE (R87), or a shootdown
blocks the range (R90)? -/
def Die.holds (x : Die) (part va n : Nat) : Bool := (linesOf va n).any (fun a => x.blocked part a || x.heldIndex (vaOff a))

/-- The die of another package that an address names, as a place. -/
def vaPlace (va : Nat) : Place := ⟨vaDie va / 4, vaDie va % 4 * 128⟩
/-- The lanes of requests and of their answers, VL0 and VL1, that a port refuses (R51, R65). -/
def State.shutLanes (s : State) (q : Nat) : List Nat := [0, 1].filter (fun l => !(s.port q).vlen.getLsbD l)
/-- A request for another package meets the port that it leaves through: a lane that the port refuses is a link protocol error, which takes the port
down, and the fault NODIE of the request (R50, R51, R65). -/
def State.checkFar (s : State) (va : Nat) : State × Chk :=
  match s.portFor (vaPlace va) with
  | none => (s, .fault ⟨2, 0⟩)
  | some q => match s.shutLanes q with
    | [] => (s, .ok 0 4 true true)
    | l :: _ => ({ s with laneErrors := s.laneErrors ++ [(q, l)] }, .fault ⟨2, 0⟩)

/-- The checks of R77 for an access of `n` bytes inside one page, in the order of the subcauses; `whole` says which sectors it writes in
full. -/
def State.check (s : State) (part va n : Nat) (acc : Acc) (whole : Nat → Bool) : State × Chk :=
  if va ≥ 2 ^ 57 then (s, .fault ⟨1, 0⟩)
  else match s.localDie va with
    | none => s.checkFar va
    | some d => if (s.die d).holds part va n then (s, .wait) else s.checkLocal d part va n acc whole

/-- Is the way from a die to the owner of an address cut: by a failed bridge, or for another package with no port that is up (R13, R50, R69)? -/
def State.cutOff (s : State) (d va : Nat) : Bool :=
  decide (va < 2 ^ 57) && (match s.localDie va with | some e => !s.joined d e | none => !s.leaves d (vaPlace va))

/-- The hardware names the failed bridge that keeps a request of a tile from a die (R13); a unit of die d other than a tile is 512 + d. DESIGN CHOICE
(log 69): the record of R140 has no field for it, so the name goes to Wharf beside the record. -/
def State.nameFailed (s : State) (who a b : Nat) : State :=
  match s.brokenBridge a b with
  | some k => { s with notices := s.notices ++ [[8, who, k]] }
  | none => s
/-- The same for the way from a die to the owner of an address. -/
def State.nameWay (s : State) (who a va : Nat) : State :=
  match s.localDie va, s.portFor (vaPlace va) with
  | some d, _ => s.nameFailed who a d
  | none, some q => s.nameFailed who a (portDie q)
  | none, none => s

/-- The bits of a sector inside a line. -/
def sectorMask (k : Nat) : BitVec 1024 := BitVec.ofNat 1024 ((2 ^ 256 - 1) * 2 ^ (256 * k))

/-- Spread a byte mask over the bits of its bytes. -/
def spread (n : Nat) (m : Nat) : Nat := (List.range n).foldl (fun a i => a + (if m / 2 ^ i % 2 = 1 then 255 * 256 ^ i else 0)) 0

/-- A fill of one sector from the frame: the fill data goes beneath the dirty bytes (R189). Nothing comes from a frame behind a CXL port that is
down (R68). -/
def State.fill (s : State) (d key sector : Nat) : State :=
  match find (s.die d).lines key with
  | none => s
  | some l =>
    if !s.portUp d l.pa then s else
    let fillBits := leNat (s.mem.bytes (paKey d (l.pa + 32 * sector)) 32) * 2 ^ (256 * sector)
    let keep := BitVec.ofNat 1024 (spread 128 l.dirty.toNat)
    let m := sectorMask sector &&& ~~~keep
    let data := (l.data &&& ~~~m) ||| (BitVec.ofNat 1024 fillBits &&& m)
    let bitm := BitVec.ofNat 4 (2 ^ sector)
    s.modDie d (fun x => { x with lines := put x.lines key { l with data := data, valid := l.valid ||| bitm } })

/-- Write back the dirty bytes of a Basin line to its frame; the line stays, clean (R190), and a sector that it writes in full has new check symbols
(R93). Behind a CXL port that is down it stays as it is (R68). -/
def State.cleanLine (s : State) (d key : Nat) : State :=
  match find (s.die d).lines key with
  | none => s
  | some l =>
    if !s.portUp d l.pa then s
    else
      let bs := (List.range 128).map (fun i => if l.dirty.getLsbD i then some (BitVec.ofNat 8 (l.data.toNat / 256 ^ i)) else none)
      let full := fun (k : Nat) => l.dirty.toNat / 2 ^ (32 * k) % 2 ^ 32 == 2 ^ 32 - 1
      let valid := (List.range 4).foldl (fun (m : BitVec 4) k => if full k then m ||| BitVec.ofNat 4 (2 ^ k) else m) l.valid
      let s := { s with mem := s.mem.storeMasked (paKey d l.pa) bs }
      s.modDie d (fun x => { x with
        lines := put x.lines key { l with dirty := 0, valid := valid },
        bad := x.bad.filter (fun k => !(decide (l.pa / 32 ≤ k) && decide (k < l.pa / 32 + 4) && full (k - l.pa / 32))) })

/-- Write back and drop a Basin line; dirty bytes that a CXL port which is down keeps from their frame are lost (R68, R93; log 82). -/
def State.dropLine (s : State) (d key : Nat) : State :=
  match find (s.die d).lines key with
  | none => s
  | some l =>
    if l.dirty != 0 && !s.portUp d l.pa then s.loseLine d key
    else (s.cleanLine d key).modDie d (fun x => { x with lines := del x.lines key })

/-- V of a carve-out entry, and the units of the valid carve-outs of a die other than one (R88): four for the buffer of each collective engine that
is enabled (R58) beside those of the entries. -/
def carveV (w : Word) : Bool := w.getLsbD 13
def Die.engUnits (x : Die) : Nat := ((List.range 4).filter (fun k => x.engOn.getLsbD k)).length * 4
def Die.carveTotal (x : Die) (c : Nat) : Nat := x.carve.foldl (fun a e => if e.1 != c && carveV e.2 then a + wfld e.2 6 7 else a) x.engUnits
/-- The lines that a slice holds beside its carve-outs: 16 ways of 512 KiB, less those that it has given up (R88). -/
def Die.lineCap (x : Die) : Nat := (16 - (x.carveTotal 8 + 7) / 8) * 4096
/-- The lines in a slice. -/
def Die.linesIn (x : Die) (sl : Nat) : List Nat := (x.lines.filter (fun l => x.sliceOf l.1 == sl)).map (·.1)
/-- A line that a free choice names leaves a slice that holds as many lines as it can (R2, R17; log 17). -/
def State.lineRoom (s : State) (d sl : Nat) : State :=
  let x := s.die d
  if x.lines.length < x.lineCap then s
  else
    let mine := x.linesIn sl
    if mine.length < x.lineCap then s
    else match s.choose mine with
      | (s, some k) => s.dropLine d k
      | (s, none) => s

/-- The Basin line of an address, allocated when absent. A line without dirty bytes goes with the frame that its page has now (R92). -/
def State.withLine (s : State) (d key pa : Nat) : State :=
  match find (s.die d).lines key with
  | some l => if l.pa = pa / 128 * 128 || l.dirty != 0 then s else s.modDie d (fun x => { x with lines := put x.lines key { l with pa := pa / 128 * 128 } })
  | none => (s.lineRoom d ((s.die d).sliceOf key)).modDie d (fun x => { x with lines := put x.lines key ⟨pa / 128 * 128, 0, 0, 0⟩ })

/-- Does an access at this attribute and frame use a Basin line (R74, R89)? -/
def Die.usesLine (x : Die) (attr key pa : Nat) : Bool := !isCarve pa && (attr != 1 || (find x.lines key).isSome)

/-- Read one byte at the coherence point, after its check. -/
def State.readByte (s : State) (part va pa attr : Nat) : State × Byte :=
  match s.localDie va with
  | none => (s, s.far.read (part * 2 ^ 57 + va))
  | some d =>
    let key := lineKey part va
    if !(s.die d).usesLine attr key pa then (s, s.mem.read (paKey d (carveSlot pa (vaOff va))))
    else
      let s := s.withLine d key pa
      let i := va % 128
      match find (s.die d).lines key with
      | none => (s, 0)
      | some l =>
        let s := if l.dirty.getLsbD i || l.valid.getLsbD (i / 32) then s else s.fill d key (i / 32)
        match find (s.die d).lines key with
        | none => (s, 0)
        | some l => (s, BitVec.ofNat 8 (l.data.toNat / 256 ^ i))

/-- Read `n` bytes at the coherence point, after their check. -/
def State.readAt (s : State) (part va pa attr n : Nat) : State × List Byte :=
  match n with
  | 0 => (s, [])
  | k + 1 =>
    let (s, b) := s.readByte part va pa attr
    let (s, r) := s.readAt part (va + 1) (pa + 1) attr k
    (s, b :: r)

/-- Write one byte at the coherence point, after its check. -/
def State.writeByte (s : State) (part va pa attr : Nat) (b : Byte) : State :=
  match s.localDie va with
  | none => { s with far := s.far.write (part * 2 ^ 57 + va) b }
  | some d =>
    let key := lineKey part va
    if !(s.die d).usesLine attr key pa then { s with mem := s.mem.write (paKey d (carveSlot pa (vaOff va))) b }
    else
      let s := s.withLine d key pa
      let i := va % 128
      match find (s.die d).lines key with
      | none => s
      | some l =>
        let m := BitVec.ofNat 1024 (255 * 256 ^ i)
        let l := { l with data := (l.data &&& ~~~m) ||| BitVec.ofNat 1024 (b.toNat * 256 ^ i), dirty := l.dirty ||| BitVec.ofNat 128 (2 ^ i) }
        s.modDie d (fun x => { x with lines := put x.lines key l })

/-- Write the bytes that are present at the coherence point, after their check. -/
def State.writeAt (s : State) (part va pa attr : Nat) (bs : List (Option Byte)) : State :=
  match bs with
  | [] => s
  | none :: r => s.writeAt part (va + 1) (pa + 1) attr r
  | some b :: r => (s.writeByte part va pa attr b).writeAt part (va + 1) (pa + 1) attr r

/-- A full write of an uncorrectable sector stores new check symbols (R93). -/
def State.mend (s : State) (va pa : Nat) (bs : List (Option Byte)) : State :=
  match s.localDie va with
  | none => s
  | some d => s.modDie d (fun x => { x with bad := x.bad.filter (fun k => !(decide (pa / 32 ≤ k) && covers va bs (va / 32 + k - pa / 32))) })

/-- The answer to a whole access at its coherence point. -/
inductive Ans (α : Type) where
  | fault (f : Flt)
  | wait
  | ok (a : α)

/-- Read `n` bytes of one page at the coherence point (R77, R171). -/
def State.coRead (s : State) (part va n : Nat) (acc : Acc) : State × Ans (List Byte) :=
  match s.check part va n acc noneWhole with
  | (s, .fault f) => (s, .fault f)
  | (s, .wait) => (s, .wait)
  | (s, .ok pa attr _ _) =>
    let (s, b) := s.readAt part va pa attr n
    (s, .ok b)

/-- Write the present bytes of a list at the coherence point of one page (R77, R171). -/
def State.coWrite (s : State) (part va : Nat) (bs : List (Option Byte)) : State × Ans Unit :=
  match s.check part va bs.length .wr (covers va bs) with
  | (s, .fault f) => (s, .fault f)
  | (s, .wait) => (s, .wait)
  | (s, .ok pa attr _ _) => (((s.markWrite part va).mend va pa bs).writeAt part va pa attr bs, .ok ())

/-- The same from a die, whose way there may be cut (R13): the fault NODIE, and the bridge is named. -/
def State.coReadVia (s : State) (d part va n : Nat) (acc : Acc) : State × Ans (List Byte) :=
  if s.cutOff d va then (s.nameWay (512 + d) d va, .fault ⟨2, 0⟩) else s.coRead part va n acc
def State.coWriteVia (s : State) (d part va : Nat) (bs : List (Option Byte)) : State × Ans Unit :=
  if s.cutOff d va then (s.nameWay (512 + d) d va, .fault ⟨2, 0⟩) else s.coWrite part va bs

/-! ### The tile data cache (R170) -/

/-- The key of a sector of the cache. -/
def sectorKey (va : Nat) : Nat := va / 32

/-- An empty sector. -/
def Sector.empty : Sector := ⟨false, 0, 0, false, false, none⟩

/-- The dirty bytes of a sector as a masked list. -/
def Sector.dirtyBytes (c : Sector) : List (Option Byte) :=
  (List.range 32).map (fun i => if c.dirty.getLsbD i then some (BitVec.ofNat 8 (c.data.toNat / 256 ^ i)) else none)

/-- A write-back that fails: its line enters the lost-line list, and Wharf learns it (R93). -/
def State.loseBack (s : State) (d part va : Nat) : State :=
  { s with notices := s.notices ++ [[6, d, lineKey part va]] }.enterLost d (lineKey part va)

/-- A write-back reaches its slice. It is checked under R77 like any other write, and one that fails writes nothing, enters its line on the lost-line
list and is reported to Wharf (R93). In phase B of a shootdown of its range it lands through the old translation, the one under which its bytes came
into the cache (R90): it walks no table and sets no D. DEDUCED (log 81): R76 would have it walk again, and R90 names the old translation. -/
def State.landBack (s : State) (part va : Nat) (c : Sector) : State :=
  match s.localDie va with
  | none => (s.coWrite part va c.dirtyBytes).1
  | some d =>
    let x := s.die d
    let old := if x.shPhase = 1 ∧ x.blockedVa part va then c.via else none
    match old with
    | some t => match s.checkLeaf d part va 32 .wr (covers va c.dirtyBytes) { t with leaf := t.leaf ||| 0x80#64 } with
      | some (.ok pa attr _ _) => (s.mend va pa c.dirtyBytes).writeAt part va pa attr c.dirtyBytes
      | _ => s.loseBack d part va
    | none => match s.checkLocal d part va 32 .wr (covers va c.dirtyBytes) with
      | (t, .ok pa attr _ _) => ((t.markWrite part va).mend va pa c.dirtyBytes).writeAt part va pa attr c.dirtyBytes
      | (t, _) => t.loseBack d part va

/-- Does a slice hold the write-back of a sector: behind phase B, and while a moving slice has not sent MOVEDONE (R87, R90)? Its bytes stay dirty in
the tile's cache until then. -/
def State.holdsBack (s : State) (part va : Nat) : Bool :=
  match s.localDie va with
  | none => false
  | some d => (2 ≤ (s.die d).shPhase && (s.die d).blockedVa part va) || (s.die d).heldIndex (vaOff va)

/-- A write-back leaves a die. One whose way crosses a failed bridge is lost as one that fails its checks is (R13, R93; log 90). -/
def State.writeBack (s : State) (from_ part va : Nat) (c : Sector) : State :=
  if c.dirty = 0 then s
  else match s.localDie va with
    | some d => if !s.joined from_ d then s.loseBack d part va else s.landBack part va c
    | none => s.landBack part va c

/-- The sector at an address without its dirty bytes. -/
def Sector.clean (c : Sector) : Sector := { c with dirty := 0, valid := c.valid || c.dirty = 0xFFFFFFFF }

/-- Clean the cached sectors of a tile that a predicate picks: their dirty bytes go to the coherence point, which a fenced tile
does not reach (R246). What a slice holds stays dirty. -/
def State.cleanCache (s : State) (n : Nat) (p : Nat → Bool) : State :=
  let t := s.tile n
  let goes := fun (e : Nat × Sector) => p (32 * e.1) && !s.holdsBack t.id.part (32 * e.1)
  if t.wa.health.cut then s else
  let keys := (t.cache.filter goes).map (·.1)
  let s := (t.cache.filter goes).foldl (fun s e => s.writeBack (dieOf n) t.id.part (32 * e.1) e.2) s
  s.modTile n (fun t => { t with cache := t.cache.map (fun e => if keys.contains e.1 then (e.1, e.2.clean) else e) })

/-- Does a slice still hold dirty bytes of the sectors that a predicate picks? What waits for them to be written goes on waiting. -/
def State.backHeld (s : State) (n : Nat) (p : Nat → Bool) : Bool :=
  let t := s.tile n
  !t.wa.health.cut && t.cache.any (fun e => p (32 * e.1) && e.2.dirty != 0)

/-- Drop the cached sectors of a tile that a predicate picks, dirty bytes and all. -/
def State.dropCache (s : State) (n : Nat) (p : Nat → Bool) : State :=
  s.modTile n (fun t => { t with cache := t.cache.filter (fun e => !p (32 * e.1)) })

/-- Clean the sectors that a predicate picks, and drop those that are clean then. -/
def State.flushPart (s : State) (n : Nat) (p : Nat → Bool) : State :=
  let s := s.cleanCache n p
  let t := s.tile n
  s.dropCache n (fun a => p a && (t.wa.health.cut || (match find t.cache (sectorKey a) with | some c => c.dirty == 0 | none => true)))

/-- Clean and invalidate the whole cache of a tile. -/
def State.flushCache (s : State) (n : Nat) : State := s.flushPart n (fun _ => true)

/-- The sectors of a range. -/
def sectorsOf (va n : Nat) : List Nat := (List.range ((va + n + 31) / 32 - va / 32)).map (fun i => (va / 32 + i) * 32)

/-- The cached sectors of a range leave the cache, their dirty bytes written back first, so that an access of this range at the coherence
point keeps its place among the tile's own (R173, R174). -/
def State.flushRange (s : State) (n va len : Nat) : State :=
  s.flushPart n (fun a => (sectorsOf va len).contains a)

/-- Does a store of the tile that waits cover bytes of a range: for its prior set, or for room in the cache (R174, R176)? -/
def Tile.storeWaits (t : Tile) (va len : Nat) : Bool :=
  t.pend.any (fun p => match p.act with
    | .coStore a _ _ bs _ _ _ _ => decide (a < va + len ∧ va < a + bs.length)
    | .cacheWrite a bs _ _ _ => decide (p.due < t.cnt ∧ a < va + len ∧ va < a + bs.length)
    | _ => false)

/-- The lines of 128 bytes that a data cache holds sectors of, and whether one of them is that of an address. -/
def Tile.cacheLines (t : Tile) : List Nat := (t.cache.map (fun e => e.1 / 4)).eraseDups
def Tile.hasLine (t : Tile) (va : Nat) : Bool := t.cache.any (fun e => e.1 / 4 == va / 128)
/-- The lines that may leave a data cache for a range: those outside it no part of which a slice holds. -/
def State.victims (s : State) (n va len : Nat) : List Nat :=
  let t := s.tile n
  t.cacheLines.filter (fun k => !(linesOf va len).contains (128 * k) &&
    !t.cache.any (fun e => e.1 / 4 == k && e.2.dirty != 0 && !t.wa.health.cut && s.holdsBack t.id.part (32 * e.1)))
/-- Must a range wait for room in a data cache of 512 lines (R17)? -/
def State.roomWaits (s : State) (n va len : Nat) : Bool :=
  let t := s.tile n
  let need := ((linesOf va len).filter (fun a => !t.hasLine a)).length
  decide (512 < t.cacheLines.length + need) && decide ((s.victims n va len).length < t.cacheLines.length + need - 512)
/-- Room for the line of an address in a data cache of 512 lines (R17), among the lines of a range that comes in together: another line that a free
choice names is written back and dropped. In which set a line lies is open (log 17), so that one may leave before the cache is full; none leaves
but for a line that comes. -/
def State.cacheRoom (s : State) (n va from_ len : Nat) : State :=
  let t := s.tile n
  let l := s.victims n from_ len
  if t.hasLine va || l.isEmpty then s
  else
    let go := 512 ≤ t.cacheLines.length || Config.go s.free
    match { s with free := s.free + 1 }.choose l with
    | (s, some k) => if go then s.flushPart n (fun a => a / 128 == k) else s
    | (s, none) => s

/-- Fetch the sector of an address of a range into the cache beneath its dirty bytes, after its check. -/
def State.cacheFill (s : State) (n va pa attr : Nat) (r w : Bool) (from_ len : Nat) : State :=
  let s := s.cacheRoom n va from_ len
  let t := s.tile n
  let base := va / 32 * 32
  let (s, bs) := s.readAt t.id.part base (pa / 32 * 32) attr 32
  let c := get Sector.empty (s.tile n).cache (sectorKey va)
  let keep := BitVec.ofNat 256 (spread 32 c.dirty.toNat)
  let data := (c.data &&& keep) ||| (BitVec.ofNat 256 (leNat bs) &&& ~~~keep)
  let via := s.via t.id.part va
  s.modTile n (fun t => { t with cache := put t.cache (sectorKey va) ⟨true, data, c.dirty, r, w, via⟩ })

/-- Are the bytes of a range that lie in the sector at `a` all dirty? -/
def Sector.allDirty (c : Sector) (a va n : Nat) : Bool := (List.range 32).all (fun i => a + i < va || va + n ≤ a + i || c.dirty.getLsbD i)

/-- Do the cached copies of a range serve a read without asking the slice (R81, R170): every byte is valid or dirty? -/
def Tile.hits (t : Tile) (va n : Nat) : Bool :=
  (sectorsOf va n).all (fun a => match find t.cache (sectorKey a) with | some c => c.r && (c.valid || c.allDirty a va n) | none => false)

/-- A byte of the cache. -/
def Tile.cacheByte (t : Tile) (a : Nat) : Byte :=
  match find t.cache (sectorKey a) with
  | some c => BitVec.ofNat 8 (c.data.toNat / 256 ^ (a % 32))
  | none => 0

/-- Read a naturally aligned range through the tile data cache, or at the coherence point for an acquire and for a page with
ATTR = 2 (R170, R177, R326); it waits for an overlapping store of the tile that waits (R174). The flag says whether the cache served it. -/
def State.tileRead (s : State) (n va len : Nat) (acquire : Bool) : State × Ans (List Byte × Bool) :=
  let t := s.tile n
  if t.storeWaits va len then (s, .wait)
  else if !acquire && t.hits va len then (s, .ok ((List.range len).map (fun i => t.cacheByte (va + i)), true))
  else if s.cutOff (dieOf n) va then (s, .fault ⟨2, 0⟩)
  else match s.check t.id.part va len .rd noneWhole with
    | (s, .fault f) => (s, .fault f)
    | (s, .wait) => (s, .wait)
    | (s, .ok pa attr r w) =>
      if acquire || attr = 2 then
        let (s, b) := (s.flushRange n va len).readAt t.id.part va pa attr len
        (s, .ok (b, false))
      else if s.roomWaits n va len then (s, .wait)
      else
        let s := (sectorsOf va len).foldl (fun s a => s.cacheFill n a (pa + a - va) attr r w va len) s
        let t := s.tile n
        (s, .ok ((List.range len).map (fun i => t.cacheByte (va + i)), false))

/-- Put bytes into the tile data cache as dirty bytes, without fetching the sector (R170); a sector that was not there goes with the permissions
that the slice returned with the check of the store, and with that translation (log 83). -/
def Tile.cachePut (t : Tile) (va : Nat) (bs : List (Option Byte)) (rd wr : Bool) (via : Option Tlb) : Tile :=
  match bs with
  | [] => t
  | none :: r => t.cachePut (va + 1) r rd wr via
  | some b :: r =>
    let c := get Sector.empty t.cache (sectorKey va)
    let i := va % 32
    let m := BitVec.ofNat 256 (255 * 256 ^ i)
    let c := { c with data := (c.data &&& ~~~m) ||| BitVec.ofNat 256 (b.toNat * 256 ^ i), dirty := c.dirty ||| BitVec.ofNat 32 (2 ^ i), r := if c.valid then c.r else rd, w := if c.valid then c.w else wr, via := via.or c.via }
    Tile.cachePut { t with cache := put t.cache (sectorKey va) c } (va + 1) r rd wr via

/-- A store enters the data cache, sector by sector, with room made for its lines (R170). -/
def State.cacheStore (s : State) (n va : Nat) (bs : List (Option Byte)) (rd wr : Bool) (via : Option Tlb) : State :=
  (sectorsOf va bs.length).foldl (fun s a =>
    let lo := Nat.max a va
    (s.cacheRoom n a va bs.length).modTile n (fun t => t.cachePut lo ((bs.drop (lo - va)).take (a + 32 - lo)) rd wr via)) s

/-- Where a checked store goes: into the cache, or to the coherence point. -/
inductive StoreTo where
  | cached (r w : Bool) (via : Option Tlb)
  | direct (pa attr : Nat)

/-- The check of a store of `len` bytes (R77), whose write sets D (R76); it waits for an overlapping store that waits (R174); a release and a page with ATTR = 2 go
to the coherence point (R171). -/
def State.storeCheck (s : State) (n va len : Nat) (release : Bool) (whole : Nat → Bool) : State × Ans StoreTo :=
  let t := s.tile n
  let cachedW := (sectorsOf va len).all (fun a => match find t.cache (sectorKey a) with | some c => c.valid && c.w | none => false)
  if t.storeWaits va len then (s, .wait)
  else if cachedW && !release then
    (s, .ok (.cached ((sectorsOf va len).all (fun a => match find t.cache (sectorKey a) with | some c => c.r | none => false)) true none))
  else if s.cutOff (dieOf n) va then (s, .fault ⟨2, 0⟩)
  else match s.check t.id.part va len .wr whole with
    | (s, .fault f) => (s, .fault f)
    | (s, .wait) => (s, .wait)
    | (s, .ok pa attr r w) => (s.markWrite t.id.part va, .ok (if release || attr = 2 then .direct pa attr else .cached r w (s.via t.id.part va)))

end Sys2Proof.Machine
end

