-- ==== Sys2Proof/Machine/Fail.lean ====
section
/-! DEFINITION. Partitions, commands by their key wherever the task that issued them stands, status records (R64), and how a collective
fails (R63), which the abort of a gang needs. -/
namespace Sys2Proof.Machine

open Sys2Proof

/-- A partition, and the partitions with one changed. -/
def State.part (s : State) (p : Nat) : Part := get Part.reset s.parts p
def State.modPart (s : State) (p : Nat) (f : Part → Part) : State := { s with parts := put s.parts p (f (s.part p)) }

/-- The place of a tile of this package. -/
def State.place (s : State) (n : Nat) : Place := ⟨s.pkg, n⟩

/-- The place of a member that is a tile, by its descriptor word (R393). -/
def memberEng (m : Nat) : Bool := m / 2 ^ 31 == 1
def memberPlace (m : Nat) : Place := ⟨m / 128 % 4096 / 4, m / 128 % 4096 % 4 * 128 + m % 128⟩

/-- Where a member's packets go: to its tile, or to the first tile's place of its die for an engine. -/
def memberDie (m : Nat) : Place := ⟨m / 128 % 4096 / 4, m / 128 % 4096 % 4 * 128 + (if memberEng m then 0 else m % 128)⟩
/-- Is a gang switched out of one of its tiles, or not yet back? -/
def Gang.away (g : Gang) (t : Tile) : Bool :=
  match g.phase with
  | .out => true
  | .restoring => true
  | .saving => !t.run
  | _ => false
/-- The three engines: CE, LK and state spill, by the column that names their words. -/
def Tile.cmds (t : Tile) (c : Col) : List Cmd :=
  match c with
  | .ce => t.en.ceq
  | .sq => t.en.spq
  | _ => t.en.lkq
def Tile.setCmds (t : Tile) (c : Col) (l : List Cmd) : Tile :=
  match c with
  | .ce => { t with en := { t.en with ceq := l } }
  | .sq => { t with en := { t.en with spq := l } }
  | _ => { t with en := { t.en with lkq := l } }

/-- Change the command with a key. -/
def Tile.modCmd (t : Tile) (c : Col) (key : Nat) (f : Cmd → Cmd) : Tile :=
  t.setCmds c ((t.cmds c).map (fun x => if x.key = key then f x else x))
/-- Change the command with a key in whichever engine of a tile holds it. -/
def Tile.modAny (t : Tile) (key : Nat) (f : Cmd → Cmd) : Tile := ((t.modCmd .ce key f).modCmd .lk key f).modCmd .sq key f

/-- An operand of a command. -/
def Cmd.opnd (c : Cmd) (k : Nat) : Nat := (c.ops.getD k 0).toNat

/-- Is a command or a carry with a key under way in the context of a tile? -/
def Tile.holdsKey (t : Tile) (key : Nat) : Bool :=
  (t.en.ceq ++ t.en.lkq ++ t.en.spq).any (·.key == key) || (t.col .sq).ackKey == some key
/-- The saved context that holds a key, when the gang of that context is switched out of the tile. -/
def State.awayHome (s : State) (n key : Nat) : Option Nat :=
  ((s.gangs.filter (fun g => g.has n && g.away (s.tile n))).map (fun g => 8 * n + g.ctx)).find? (fun k => (get Tile.reset s.saved k).holdsKey key)
/-- Change the context that holds a key: a saved one, or that of the tile. -/
def State.modHome (s : State) (n key : Nat) (f : Tile → Tile) : State :=
  match s.awayHome n key with
  | some k => { s with saved := upd Tile.reset s.saved k f }
  | none => s.modTile n f

/-- Can a packet of a die reach a place: over the bridges inside the package, and to the die of its port outside (R13, R52)? -/
def State.linked (s : State) (d : Nat) (p : Place) : Bool := if p.pkg = s.pkg then s.joined d (dieOf p.tile) else s.leaves d p
/-! ### Status records (R64) -/

/-- The status record of R64. -/
def statusRec (state cause ncont firstmiss gen : Nat) (bits : List Nat) (g : Nat) : List Byte :=
  let bitmap := bits.foldl (fun a r => a + 2 ^ r) 0
  leBytes 8 (state * 2 ^ 62 + cause * 2 ^ 56 + ncont * 2 ^ 43 + firstmiss * 2 ^ 30 + gen) ++ leBytes (8 * ((g + 63) / 64)) bitmap
/-- The record of a collective that is done. -/
def doneRec (g gen : Nat) : List Byte := statusRec 1 0 g 0x1FFF gen (List.range g) g
/-- The record of one that failed, with the ranks that contributed. -/
def failRec (cause g gen : Nat) (bits : List Nat) : List Byte :=
  let miss := (List.range g).find? (fun r => !bits.contains r)
  statusRec 2 cause bits.length (miss.getD 0x1FFF) gen bits g

/-! ### Collectives that fail (R63) -/

/-- The key of a reduction. -/
def Reduction.is (r : Reduction) (kind part group : Nat) (gen : BitVec 16) (dest : Nat) : Bool :=
  r.kind == kind && r.part == part && r.group == group && r.gen == gen && r.dest == dest

/-- The fields of a job descriptor (R218). -/
def Job.w (j : Job) (k : Nat) : Word := j.rec_.getD k 0
def Job.grp (j : Job) : Nat := wfld (j.w 0) 32 16
def Job.nseq (j : Job) : Nat := wfld (j.w 0) 16 16
def Job.diem (j : Job) : List Nat := (List.range 4).filter (fun d => (j.w 0).getLsbD (12 + d))
def Job.seqa (j : Job) : Nat := (j.w 1).toNat
def Job.res (j : Job) : Nat := (j.w 2).toNat
def Job.aux (j : Job) : Nat := (j.w 3).toNat
def Job.cs (j : Job) : Nat := (j.w 4).toNat
def Job.ae (j : Job) : Nat := (j.w 5).toNat
def Job.stat (j : Job) : Nat := (j.w 6).toNat
def Job.shn (j : Job) : Nat := wfld (j.w 7) 0 16 + 1
def Job.vocab (j : Job) : Nat := j.shn * j.diem.length

/-- The position of a die in DIEM. -/
def Job.pos (j : Job) (d : Nat) : Nat := (j.diem.filter (· < d)).length

/-- The draw of a Sluice job fails (R63, R226): every part learns it, RES stays untouched, and the status record will read
FAILED with the ranks that contributed. Later contributions of it are discarded. -/
def State.drawFail (s : State) (part grp : Nat) (gen : BitVec 16) (cause : Nat) : State :=
  let mine := fun (j : Job) => j.kind == 0 && j.part == part && j.grp == grp && j.gen == gen && j.drawn.isNone
  let bits := s.reds.flatMap (fun r => if r.is 3 part grp gen 0 then r.parts.map (·.1) else [])
  let s := { s with reds := s.reds.filter (fun r => !r.is 3 part grp gen 0),
                    contribs := s.contribs.filter (fun c => !(c.kind == 3 && c.part == part && c.group == grp && c.gen == gen)) }
  (List.range 4).foldl (fun s d => s.modDie d (fun x => { x with jobs := x.jobs.map (fun j =>
    if mine j then { j with drawn := some false, csRec := failRec cause j.diem.length gen.toNat bits } else j) })) s

/-- A collective command fails: no raise, and a FAILED record (R63, R64). -/
def Cmd.fail (c : Cmd) (cause g : Nat) (bits : List Nat) : Cmd :=
  { c with raise := none, left := 0, buf := [], lines := 0, status := failRec cause g c.gen.toNat bits }

/-- The group keeps what a member whose command starts later must learn of a collective that has failed (R63); generations that are far behind
are forgotten. -/
def Group.lose (g : Group) (f : Failed) : Group :=
  { g with failed := g.failed.filter (fun x => decide ((f.gen - x.gen).toNat < 2 ^ 15) && !(x.kind == f.kind && x.gen == f.gen && x.dest == f.dest)) ++ [f] }

/-- Of two causes that arise in one cycle the lower stands (R64): a failure of a collective that has failed in this cycle already keeps what the
first found, and the lower cause. -/
def Failed.merge (l : List Failed) (f : Failed) : Failed :=
  match l.find? (fun x => x.kind == f.kind && x.gen == f.gen && x.dest == f.dest && x.at_ == f.at_) with
  | some x => { x with cause := Nat.min x.cause f.cause }
  | none => f

/-- The pending collectives of a group fail (R63, R393): their members' commands learn it, and the members that have not started theirs do when
they start. -/
def State.failReds (s : State) (cause : Nat) (p : Reduction → Bool) : State :=
  let s := (s.reds.filter p).foldl (fun s r =>
    let new : Failed := ⟨r.kind, r.gen, r.dest, cause, r.parts.map (·.1), s.stamp, r.regs⟩
    let (g, f) := match find (s.part r.part).groups r.group with | some g => (g.members.length, Failed.merge g.failed new) | none => (0, new)
    let s := if r.kind = 3 then s.drawFail r.part r.group r.gen cause
      else s.modPart r.part (fun x => { x with groups := match find x.groups r.group with
        | some g => put x.groups r.group (g.lose f)
        | none => x.groups })
    f.regs.foldl (fun s e => s.modHome e.2.1 e.2.2 (fun t => t.modCmd .lk e.2.2 (fun c => c.fail f.cause g f.bits))) s) s
  { s with reds := s.reds.filter (fun r => !p r) }

end Sys2Proof.Machine
end

