-- ==== Sys2Proof/Machine/Lines.lean ====
section
/-! DEFINITION. Instruction lines (R253–R256): their lanes, headers and words; the instruction store and the read of a line (R17, R142, R257); and the
address of the next word of CT (R143, R317). -/
namespace Sys2Proof.Machine

open Sys2Proof

/-! ### Instruction lines (R253–R256) -/

/-- Lane i of a line, lane 0 lowest (R253). -/
def lineLane (l : BitVec 256) (i : Nat) : Lane := BitVec.ofNat 32 (l.toNat / 2 ^ (32 * i))
/-- The header code of lane i. -/
def lineCode (l : BitVec 256) (i : Nat) : Nat := (lineLane l 0).toNat / 16 ^ i % 16
/-- Must a word take an extension, and may it (R255)? -/
def mustExtend (code : Nat) : Bool := code == 4 || code == 7 || code == 8
def mayExtend (code : Nat) (w : Lane) : Bool := mustExtend code || code == 5 || code == 6 || (code == 1 && w.toNat / 2 ^ 26 == 0x1B)

/-- The words of the lanes from `i` on with their lanes and codes; none when the line is illegal (R254, R255). -/
def laneWords (i : Nat) (l : List (Nat × Lane)) : Option (List (Nat × Nat × Lane × Option Lane)) :=
  match l with
  | [] => some []
  | (0, w) :: r => if w = 0 then laneWords (i + 1) r else none
  | (c, w) :: (9, e) :: r => if 1 ≤ c && c ≤ 8 && mayExtend c w then (laneWords (i + 2) r).map ((i, c, w, some e) :: ·) else none
  | (c, w) :: r => if 1 ≤ c && c ≤ 8 && !mustExtend c then (laneWords (i + 1) r).map ((i, c, w, none) :: ·) else none

/-- The words of a line; none when it is illegal. -/
def lineWords (l : BitVec 256) : Option (List (Nat × Nat × Lane × Option Lane)) :=
  if lineCode l 0 != 15 then none
  else laneWords 1 ((List.range 7).map (fun k => (lineCode l (k + 1), lineLane l (k + 1))))

/-- The words of a line at an address with their columns, from lane `start` on. -/
def lineQueue (at_ start : Nat) (ws : List (Nat × Nat × Lane × Option Lane)) : List (Col × QWord) :=
  ws.filterMap (fun x => if start ≤ x.1 then (codeCol x.2.1).map (fun c => (c, ⟨at_ + 4 * x.1, x.2.2.1, x.2.2.2⟩)) else none)

/-! ### The instruction store (R17, R142) -/

/-- The key of a line in the instruction store. -/
def storeKey (part va : Nat) : Nat := part * 2 ^ 57 + va

/-- What a read of a line comes to. -/
inductive LineRead where
  | wait
  | fault (f : Flt)
  | line (l : BitVec 256)

/-- A line enters the instruction store (R17): of its 2,048 lines the locked region of the pager takes 256; a free choice leaves for it. -/
def State.storeLine (s : State) (n key : Nat) (l : BitVec 256) : State :=
  let x := (s.tile n).fe
  let (s, out) := if x.store.length < 1792 then (s, none) else s.choose (x.store.map (·.1))
  s.modTile n (fun t => { t with fe := { t.fe with store := put (match out with | some k => del x.store k | none => x.store) key l } })

/-- Read the line at an address (R142, R161): in the handler from the locked region; otherwise from the instruction store, where
it may meanwhile have been replaced, or through the slices with X. A line that maintenance takes from the store in this cycle is still read
(R257). -/
def State.readLine (s : State) (n va : Nat) : State × LineRead :=
  let t := s.tile n
  if t.ct.handler then (s, .line (BitVec.ofNat 256 (leNat (s.pager.bytes (va % 0x2000) 32))))
  else
    let key := storeKey t.id.part va
    let fetch := fun (s : State) => match s.coReadVia (dieOf n) t.id.part va 32 .fetch with
      | (s, .wait) => (s, LineRead.wait)
      | (s, .fault f) => (s, .fault f)
      | (s, .ok b) =>
        let l := BitVec.ofNat 256 (leNat b)
        (s.storeLine n key l, .line l)
    match find t.fe.gone key, find t.fe.store key with
    | some l, _ => (s, .line l)
    | none, some l => if Config.go s.free then ({ s with free := s.free + 1 }, .line l) else fetch { s with free := s.free + 1 }
    | none, none => fetch s

/-! ### The program counter of CT (R143) -/

/-- The next word of CT behind its queue: the first in the lines of the buffer and then in those that fetch would read, from a lane on and at or beyond
an address. DESIGN CHOICE (log 110): where 64 lines hold none, or one cannot be read, it is the address of the last line that was looked at. -/
def State.nextCt (s : State) (n : Nat) (buf : List (BitVec 256)) (va lane skip fuel : Nat) : Nat :=
  match fuel with
  | 0 => va
  | k + 1 =>
    let line := match buf with
      | l :: _ => some l
      | [] => match (s.readLine n va).2 with | .line l => some l | _ => none
    match line.bind lineWords with
    | none => va
    | some ws => match (lineQueue va lane ws).find? (fun x => x.1 == .ct && decide (skip ≤ x.2.addr)) with
      | some x => x.2.addr
      | none => s.nextCt n buf.tail (va + 32) 0 skip k
/-- The program counter of CT: the address of the next word that it will issue (R143). -/
def State.ctPc (s : State) (n : Nat) : Nat :=
  let t := s.tile n
  match t.iq .ct with
  | q :: _ => q.addr
  | [] => s.nextCt n t.fe.buf (t.fe.pc / 32 * 32) (t.fe.pc % 32 / 4) (get 0 t.fe.skip (colCode .ct)) 64

end Sys2Proof.Machine
end

