-- ==== Sys2Proof/Machine/Ops.lean ====
section
/-! DEFINITION. The shared operations of the meanings: fault records and the abort of a gang (R138–R140), taking a trap and
returning from one (R161–R165), release and acquire (R176, R177), and one attempt of a word to issue (R145–R149, R153,
R154, R294). -/
namespace Sys2Proof.Machine

open Sys2Proof

/-! ### Fault records -/

/-- The scheduler on D0 writes a list of bytes into virtual memory of a partition in pieces of at most 64 bytes, up to the first that faults or waits. -/
def State.putBytes (s : State) (p va : Nat) (bs : List (List Byte)) : State × Ans Unit :=
  match bs with
  | [] => (s, .ok ())
  | b :: r => match s.coWriteVia 0 p va (b.map some) with
    | (s, .ok _) => s.putBytes p (va + b.length) r
    | x => x

/-- A record is dropped (R140). -/
def State.dropRecord (s : State) (p : Nat) : State := s.modPart p (fun x => { x with drop := Nat.min 65535 (x.drop + 1) })
/-- The words of record k from 0x08 on, and its header (R140). -/
def FaultRec.body (f : FaultRec) : List (List Byte) :=
  (f.words.take 11).map (fun w => leBytes 8 w.toNat) ++ (List.range 4).map (fun _ => leBytes 8 0) ++ [leBytes 64 f.markmap, leBytes 64 0]
def FaultRec.header (f : FaultRec) (k : Nat) : List Byte := leBytes 8 (k * 2 ^ 32 + f.cause * 2 ^ 24 + f.sub * 2 ^ 16 + 1)

/-- One attempt of the record writer (R140): words 0x08 onward, then the header, then FRPROD; none when the memory system holds a write back
(R87, R90). A record is dropped while FRBASE is 0 (R116), while the ring is full, and when a write of it faults. -/
def State.putRecord (s : State) (f : FaultRec) : Option State :=
  let x := s.part f.part
  let k := x.frprod
  let base := x.frbase.toNat + 256 * (k % 16)
  if x.frbase = 0 || (k + 2 ^ 32 - x.frcons) % 2 ^ 32 = 16 then some (s.dropRecord f.part)
  else match s.putBytes f.part (base + 8) f.body with
    | (_, .wait) => none
    | (s, .fault _) => some (s.dropRecord f.part)
    | (s, .ok _) => match s.putBytes f.part base [f.header k] with
      | (_, .wait) => none
      | (s, .fault _) => some (s.dropRecord f.part)
      | (s, .ok _) => some (({ s with notices := s.notices ++ [[0, f.part, k, f.cause]] }).modPart f.part (fun x => { x with frprod := (k + 1) % 2 ^ 32 }))

/-- The record writer (R140) takes the records in order; one that must wait holds up those behind it. Vector 15 is signalled (R103, R138). -/
def State.writeRecord (s : State) (f : FaultRec) : State :=
  if !s.records.isEmpty then { s with records := s.records ++ [f] }
  else match s.putRecord f with
    | none => { s with records := [f] }
    | some s => if f.tells then s.signal f.part 15 else s
/-- The records that wait are tried again. -/
def State.flushRecords (s : State) : State := s.records.foldl (fun s f => s.writeRecord f) { s with records := [] }

/-- The MARKMAP of a gang: the ranks whose most recent mark equals LASTMARK (R139). -/
def Gang.markmap (g : Gang) : Nat :=
  g.marks.foldl (fun a m => if m.2 = g.lastMark then a + 2 ^ m.1 else a) 0

/-- A field of a barge record (R122), whose words the gang keeps. -/
def Gang.word (g : Gang) (i : Nat) : Word := g.rec_.getD i 0

/-- ID.BARGE of a gang: the queue in bits 37:32, the pop count in bits 31:0 (R130). -/
def Gang.id (g : Gang) : Word := BitVec.ofNat 64 (g.queue * 2 ^ 32 + g.pop.toNat % 2 ^ 32)

/-- What a trap or another cause adds to the record of an abort: the faulting tile, XFLT and words 0x50 and 0x58 (R140). -/
structure AbortInfo where
  cause : Nat
  sub : Nat
  tile : Option Nat
  va : Word
  info : Word
  w50 : Word
  w58 : Word
  deriving DecidableEq, Repr

/-- An abort without a faulting tile. -/
def AbortInfo.plain (cause sub : Nat) : AbortInfo := ⟨cause, sub, none, 0, 0, 0, 0⟩

/-- No spill or fill is queued: no slot is BUSY (R210). -/
def Stores.noSpills (st : Stores) : Stores :=
  { st with spills := [], pdesc := (st.pdesc.map (fun e => (e.1, e.2 &&& ~~~0x4000#16))).filter (·.2 != 0) }

/-- The stores that go to memory: the memory system takes them while their gang stands. -/
def Act.toMemory (a : Act) : Bool :=
  match a with
  | .cacheWrite _ _ _ _ _ => true
  | .coStore _ _ _ _ _ _ _ _ => true
  | _ => false

/-- What an abort does not take back: the stores that have issued, and an exchange that belongs to a commit (R233). -/
def Act.stands (a : Act) : Bool := a.toMemory || (match a with | .pair k _ _ => k == 4 | _ => false)

/-- A store that has issued is completed although its task is aborted; nothing awaits it. -/
def Pend.complete (p : Pend) : Pend :=
  { p with due := 0, act := match p.act with
    | .coStore va pa attr bytes mask _ key _ => .coStore va pa attr bytes mask [] key []
    | a => a }

/-- A tile that stops at an abort: its queues, tokens, semaphores, commands and receives are cleared, its other state is kept, and it
becomes idle (R138). DESIGN CHOICE (log 108): the stores it has issued are completed, and what it has issued to its own registers and stores does not
land. -/
def Tile.stop (t : Tile) : Tile :=
  { t with qs := .reset, pend := (t.pend.filter (·.act.stands)).map Pend.complete, run := false,
           fe := { Fetch.reset with store := t.fe.store },
           st := t.st.noSpills,
           en := { Engines.reset with gens := t.en.gens, nextKey := t.en.nextKey },
           sq := { t.sq with flight := none, carries := [] },
           ct := { t.ct with handler := false, reqs := [], early := [], joined := false, released := false, latch := false, halted := true,
                             saved := [], savedSkip := [], lands := [], loops := [], shadow := [] },
           id := { t.id with active := false } }

/-- The words of the record of a gang (R140). -/
def State.gangRecord (s : State) (g : Gang) (i : AbortInfo) : FaultRec :=
  let tile : Word := match i.tile with
    | none => BitVec.ofNat 64 (2 ^ 64 - 1)
    | some n => BitVec.ofNat 64 ((n - g.base) * 2 ^ 32 + n)
  ⟨i.cause, i.sub, g.part,
   [g.id, g.word 0, g.word 3, g.lastMark, BitVec.ofNat 64 s.stamp,
    BitVec.ofNat 64 (g.base + g.log2 * 2 ^ 16 + wfld (g.word 4) 24 4 * 2 ^ 24), tile, i.va, i.info, i.w50, i.w58], g.markmap, true⟩

/-- Is a tile of a gang a member of the group that a pending reduction is on? -/
def State.gangJoins (s : State) (g : Gang) (r : Reduction) : Bool :=
  r.part == g.part && (match find (s.part r.part).groups r.group with
    | some x => x.members.any (fun m => !memberEng m && (memberPlace m).pkg == s.pkg && g.has (memberPlace m).tile)
    | none => false)

/-- Abort a gang (R138): the collectives pending on a group with one of its ranks fail with REMOTEFAULT, or with FENCED when that ends it (R63); its
tiles stop and become idle, its saved context is freed with it, and one record is written. -/
def State.abortGang (s : State) (g : Gang) (i : AbortInfo) : State :=
  let r := s.gangRecord g i
  let s := s.failReds (if i.cause = 3 then 2 else 5) (s.gangJoins g)
  let s := if g.onTiles then g.tiles.foldl (fun s n => s.modTile n Tile.stop) s else s
  let s := { s with gangs := s.gangs.filter (· != g) }
  s.writeRecord r

/-- A tile is fenced or withdrawn: the gangs whose saved contexts it holds can no longer be restored (R137). -/
def State.loseSaved (s : State) (n : Nat) : State :=
  { s with gangs := s.gangs.map (fun g => if g.has n && !g.onTiles then { g with lost := true } else g) }

/-! ### Traps -/

/-- The trap codes of R164. -/
def tILLINSN : Nat := 0x01
def tILLLINE : Nat := 0x02
def tILLSYSW : Nat := 0x03
def tILLMODE : Nat := 0x04
def tTRANSLATION : Nat := 0x05
def tSCHEDMISS : Nat := 0x06
def tCHANNEL : Nat := 0x07
def tOVERFLOW : Nat := 0x08
def tUNCORR : Nat := 0x09
def tADDR : Nat := 0x0A
def tSWTRAP : Nat := 0x0B
def tTOWPATH : Nat := 0x0C
def tLOOP : Nat := 0x0D
def tDOUBLE : Nat := 0x0E

/-- TRAP.CAUSE at entry (R165). -/
def causeWord (t : Tile) (q : TrapReq) : Word :=
  BitVec.ofNat 64 (q.col * 2 ^ 44 + b2n q.res * 2 ^ 40 + t.ct.loops.length * 2 ^ 37 + b2n t.ct.mode * 2 ^ 32 + q.sub * 2 ^ 8 + q.code)

/-- Word 0x50 of a record: the code and the word address of the faulting stream (R165). -/
def word50 (code : Nat) (xpc : Word) : Word := BitVec.ofNat 64 (code + wfld xpc 2 56 * 2 ^ 8)

/-- A trap that waits for CT to take it (R161, R163). -/
def Tile.request (t : Tile) (q : TrapReq) : Tile := { t with ct := { t.ct with reqs := t.ct.reqs ++ [q] } }

/-- Does the Flight of a tile stand with a trap of its own (R57, R200)? -/
def Tile.flightTrapped (t : Tile) (f : Flight) : Bool :=
  (t.ct.reqs ++ t.ct.early).any (fun q => q.xpc == f.pc && q.col == 6) || (t.ct.handler && t.ct.xpc == BitVec.ofNat 64 f.pc && wfld t.ct.cause 44 4 == 6)

/-- Is a Flight instruction of the tile inside a level (R203)? It stands between levels at the count at which its last level fell due, and a level
whose value is late has not ended; a level that its own trap has ended, and the final combine behind the last level, are none. -/
def Tile.midLevel (t : Tile) : Bool :=
  match t.sq.flight with
  | some f => decide (f.lev < f.stages) && (f.last != t.cnt || f.miss.isSome) && !t.flightTrapped f
  | none => false

/-- Is an `MTILE` of the tile inside a K-row group (R372)? A group ends with the count of its last row step. -/
def Tile.midGroup (t : Tile) : Bool :=
  t.pend.any (fun p => match p.act with | .mtStep _ _ _ _ _ _ _ => true | _ => false) && t.mx.edge != t.cnt
/-- Does a trap wait for the end of a level or of a K-row group? DEDUCED (log 111): a `SCHEDMISS`, which ends a miss for which the gang stands, waits
for neither. -/
def Tile.holdsTrap (t : Tile) (code : Nat) : Bool := (t.midLevel || t.midGroup) && code != 0x06 && !t.ct.handler

/-- TAKING A TRAP (R161, R165): a trap that arrives during a level of a Flight instruction or a K-row group of an `MTILE` waits for the end of it, but for
the end of a schedule miss (R202, R203, R372); a trap while TRAP is 1 does not enter and aborts the gang with DOUBLE. Otherwise the trap
registers are loaded, CT's queue and the loop stack go into their shadows, the tile enters maintenance mode with TRAP set,
CT fetches from offset 0 of the locked region, and the tile raises its gang's stall wire (R155). -/
def State.takeTrap (s : State) (n : Nat) (q : TrapReq) : State :=
  let t := s.tile n
  if t.holdsTrap q.code then s.modTile n (·.request q)
  else if t.ct.handler then
    match s.gangOf n with
    | none => s.modTile n Tile.stop
    | some g => s.abortGang g ⟨2, 0, some n, 0, 0, word50 tDOUBLE t.ct.xpc,
        BitVec.ofNat 64 (wfld t.ct.cause 0 8 + q.xpc / 4 % 2 ^ 56 * 2 ^ 8)⟩
  else
    let c := { t.ct with
      cause := causeWord t q, epc := BitVec.ofNat 64 (s.ctPc n), xpc := BitVec.ofNat 64 q.xpc, fpc := BitVec.ofNat 64 t.fe.pc,
      xva := if q.code = tTRANSLATION then q.va else t.ct.xva,
      xinfo := if q.code = tTRANSLATION then q.info else t.ct.xinfo,
      saved := t.iq .ct, savedTgt := t.fe.tgt, savedDrain := t.fe.drain, savedSkip := t.fe.skip, shadow := t.ct.loops, loops := [],
      handler := true, mode := true, prior := none, early := t.ct.reqs, reqs := [] }
    let t := (t.setIq .ct [])
    let t := { t with ct := c, fe := { t.fe with pc := 0, buf := [], tgt := false, drain := false, skip := [], at_ := s.stamp + 1, on := true } }
    (s.setTile n t).raiseWire n

/-- RETURNING FROM A TRAP (R162, R318): the loop stack, the mode, the fetch position and CT's queue come back from the trap
state, TRAP is cleared, and the tile lowers its source of the stall wire. -/
def State.returnFromTrap (s : State) (n : Nat) : State :=
  let t := s.tile n
  let t := t.setIq .ct t.ct.saved
  let c := { t.ct with loops := t.ct.shadow, shadow := [], mode := t.ct.cause.getLsbD 32, handler := false, saved := [], savedSkip := [], reqs := t.ct.early ++ t.ct.reqs, early := [] }
  let t := { t with ct := c, fe := { t.fe with pc := t.ct.fpc.toNat, buf := [], tgt := t.ct.savedTgt, drain := t.ct.savedDrain, skip := t.ct.savedSkip, at_ := s.stamp + 1 } }
  (s.setTile n t).lowerWire n

/-- A plain trap request. -/
def trapReq (code col xpc sub : Nat) : TrapReq := ⟨code, col, xpc, sub, false, 0, 0⟩

/-- The trap of a word of a column at its own address. -/
def State.trapAt (s : State) (n : Nat) (c : Col) (code xpc sub : Nat) : State := s.takeTrap n (trapReq code (colCode c) xpc sub)

/-- The coding of an access kind in XFLT.INFO.ACC (R84). -/
def accCode (a : Acc) : Nat :=
  match a with
  | .rd => 0 | .wr => 1 | .rmw => 2 | .fetch => 3

/-- XFLT.INFO (R84). -/
def xfltInfo (va part col acc : Nat) (f : Flt) : Word :=
  BitVec.ofNat 64 (vaDie va * 2 ^ 32 + part * 2 ^ 28 + col * 2 ^ 24 + f.lvl * 2 ^ 18 + acc * 2 ^ 8 + f.sub)

/-- The failed bridge between a tile and a die is named (R13); so is the one on the way to the owner of an address, when a fault is NODIE. -/
def State.nameBridge (s : State) (n d : Nat) : State := s.nameFailed n (dieOf n) d
def State.nameRoute (s : State) (n va : Nat) (f : Flt) : State := if f.sub != 2 then s else s.nameWay n (dieOf n) va

/-- The TRANSLATION trap (R83, R164). A NODIE fault also names the bridge to Wharf (R13). -/
def State.trapXlat (s : State) (n : Nat) (col xpc va acc : Nat) (f : Flt) (res : Bool) : State :=
  (s.nameRoute n va f).takeTrap n ⟨tTRANSLATION, col, xpc, f.sub, res, BitVec.ofNat 64 va, xfltInfo va (s.tile n).id.part col acc f⟩

/-! ### Release and acquire -/

/-- Does a mask hold class 0 or 1, and is a scope wider than the tile (R176, R177)? -/
def touchesCache (mask : BitVec 4) (scope : Nat) : Bool := scope != 0 && (mask.getLsbD 0 || mask.getLsbD 1)

/-- Has the column a fault that waits for CT, or that CT's handler is resolving (R163)? -/
def Tile.faulted (t : Tile) (c : Col) : Bool :=
  (t.ct.reqs ++ t.ct.early).any (fun q => q.col == colCode c) || (c != .ct && t.ct.handler && wfld t.ct.cause 44 4 == colCode c)

/-- A command that has started and has accesses left. -/
def Cmd.open_ (c : Cmd) : Bool := c.started && !c.performed
/-- The key of a direct store that has issued and has not performed. -/
def Pend.storeKey (p : Pend) (lim : Nat) : Option Nat :=
  match p.act with
  | .coStore _ _ _ _ _ _ key _ => if p.due ≤ lim then some key else none
  | _ => none
/-- The part of a release's prior set that has still to perform (R176), by keys: the direct stores that issued in an earlier cycle, and the
commands of the classes that started before the present cycle, by TIME.PRE. What an engine has to do that stands until the handler resolves
its fault is not awaited in the handler (log 89). -/
def Tile.priorKeys (t : Tile) (now : Nat) (mask : BitVec 4) : List Nat :=
  let keys := fun (b : Bool) (col : Col) (l : List Cmd) =>
    if b && !(t.ct.handler && t.faulted col) then (l.filter (fun c => c.open_ && decide (c.since < now))).map (·.key) else []
  (if mask.getLsbD 1 then t.pend.filterMap (·.storeKey t.cnt) else []) ++
    keys (mask.getLsbD 2) .ce t.en.ceq ++ keys (mask.getLsbD 2) .sq t.en.spq ++ keys (mask.getLsbD 3) .lk t.en.lkq
/-- Has everything performed that a list of keys names? -/
def Tile.priorDone (t : Tile) (l : List Nat) : Bool :=
  l.all (fun k => !(t.en.ceq ++ t.en.lkq ++ t.en.spq).any (fun c => c.key == k && c.open_) &&
    !t.pend.any (fun p => match p.act with | .coStore _ _ _ _ _ _ key _ => key == k | _ => false))

/-- A CT word that is a release waits for its prior set (R176, R178), which is fixed in the first cycle in which the word could act. -/
def awaitPrior (s : State) (n : Nat) (mask : BitVec 4) (f : State → Out) : Out :=
  let t := s.tile n
  let l := match t.ct.prior with | some l => l | none => t.priorKeys s.tm.pre mask
  let s := s.modTile n (fun t => { t with ct := { t.ct with prior := some l } })
  if t.priorDone l then f s else .next s

/-- The cache side of a release: every dirty byte is written back first (R176). -/
def State.releaseCache (s : State) (n : Nat) (mask : BitVec 4) (scope : Nat) : State :=
  if touchesCache mask scope then s.cleanCache n (fun _ => true) else s
/-- Does a release or an acquire wait for dirty bytes that a slice holds (R87, R90, R176, R177)? -/
def State.cacheHeld (s : State) (n : Nat) (mask : BitVec 4) (scope : Nat) : Bool := touchesCache mask scope && s.backHeld n (fun _ => true)

/-- The cache side of an acquire: the cache is cleaned and invalidated (R177). -/
def State.acquireCache (s : State) (n : Nat) (mask : BitVec 4) (scope : Nat) : State :=
  if touchesCache mask scope then s.flushCache n else s

/-- A CT word goes on when the cache side of its release, or of its acquire, is done. -/
def withRelease (s : State) (n : Nat) (mask : BitVec 4) (scope : Nat) (f : State → Out) : Out :=
  let s := s.releaseCache n mask scope
  if s.cacheHeld n mask scope then .next s else f s
def withAcquire (s : State) (n : Nat) (mask : BitVec 4) (scope : Nat) (f : State → Out) : Out :=
  let s := s.acquireCache n mask scope
  if s.cacheHeld n mask scope then .next s else f s

/-- CAP.MXWAKE and CAP.MISSWAIT (R271). -/
def mxWake : Nat := 24
def missWait : Nat := 65536

/-- One free choice of the model: the state's counter advances with every use. -/
def State.fresh (s : State) : State × Nat := ({ s with free := s.free + 1 }, Config.pick s.free)

/-! ### One attempt of a word to issue -/

/-- What a word needs at issue: g registers it reads and writes, queues it pops and pushes, token FIFOs it pops and
pushes, whether it uses the sub-arrays of MX (R45), whether it needs SQ free of a Flight instruction (R203), and the carry it
takes (R207). -/
structure Needs where
  reads : List Nat
  writes : List Nat
  pops : List Nat
  pushes : List Nat
  ins : List Nat
  outs : List Nat
  arrays : Bool
  unit : Bool
  carry : Option (Place × BitVec 8)
  deriving DecidableEq, Repr

/-- A word that needs nothing. -/
def Needs.none : Needs := ⟨[], [], [], [], [], [], false, false, Option.none⟩

/-- Every queue that a list names holds as many free entries as the list names it. -/
def Tile.popsOk (t : Tile) (l : List Nat) : Bool := l.all (fun q => l.count q ≤ t.avail q)
/-- Every queue that a list names has as much room as the list names it. -/
def Tile.pushesOk (t : Tile) (l : List Nat) : Bool := l.all (fun q => l.count q ≤ t.space q)

/-- Does the receive buffer of the Towpath hold an entry of this source and tag (R207)? -/
def Tile.carryHere (t : Tile) (c : Option (Place × BitVec 8)) : Bool :=
  match c with
  | none => true
  | some (p, tag) => t.sq.carries.any (fun x => x.src == p && x.tag == tag)

/-- All the operands of a word are present (R145, R148, R149, R294). -/
def Tile.has (t : Tile) (k : Needs) : Bool :=
  k.reads.all t.gOk && k.writes.all t.gOk && t.popsOk k.pops && t.pushesOk k.pushes && k.ins.all t.tokReady && k.outs.all t.tokSpace &&
    (!k.unit || t.sq.flight.isNone) && t.carryHere k.carry

/-- A use of the four sub-arrays: all count their idle time from this count (R44). -/
def Tile.restIdle (t : Tile) : Tile := { t with mx := { t.mx with idle := (List.range 4).map (fun i => (i, t.cnt)) } }
/-- The four sub-arrays are used, and none is gated. -/
def Tile.useArrays (t : Tile) : Tile := { t with mx := { t.mx with gated := 0, idle := (List.range 4).map (fun i => (i, t.cnt)) } }

/-- A word holds MX for the gated sub-arrays: they wake CAP.MXWAKE later, unless they are already due to (R45, R377). The idle
counts of all four restart with the hold. -/
def Tile.wakeArrays (t : Tile) : Tile :=
  let due := t.pend.foldl (fun m p => match p.act with | .ungate g => m ||| g | _ => m) 0#4
  if t.mx.gated &&& ~~~due = 0 then t
  else
    t.restIdle.land (t.cnt + mxWake) 0 (.ungate t.mx.gated)

/-- The sub-arrays are ungated, or due to be by the count (R45, R153). -/
def Tile.arraysDue (t : Tile) (lim : Nat) : Bool :=
  t.mx.gated &&& ~~~(t.pend.foldl (fun m p => match p.act with | .ungate g => if p.due ≤ lim then m ||| g else m | _ => m) 0#4) == 0

/-- Take what the word takes at issue: pop its tokens, reserve its room. Queue entries are popped by the meaning. -/
def Tile.take (t : Tile) (k : Needs) : Tile :=
  let t := k.ins.foldl Tile.popTok t
  let t := k.outs.foldl Tile.reserveTok t
  let t := if k.arrays then t.useArrays else t
  k.pushes.foldl Tile.reserve t

/-- A word that fetch waits for issues while it stands at the target of a branch: the target line is read in the next cycle at the earliest (R298). -/
def Fetch.issuedAt (x : Fetch) (stamp : Nat) (awaited : Bool) : Fetch := if x.drain && awaited then { x with at_ := stamp + 1 } else x

/-- The word that acts leaves its queue (or its slot of the modulo body), and the column's delay counts from this cycle
(R145, R157). -/
def State.issued (s : State) (hold : Nat) : State :=
  let n := s.cur.tile
  let c := s.cur.col
  s.modTile n (fun t =>
    let t := if s.cur.body then
        { t with fe := { t.fe with seqr := { t.fe.seqr with due := t.fe.seqr.due.filter (fun b => b.col != c) } } }
      else t.setIq c (t.iq c).tail
    let t := if s.cur.body then t else
      { t with fe := { t.fe.issuedAt s.stamp true with seqr := { t.fe.seqr with ahead := upd 0 t.fe.seqr.ahead (colCode c) (· - 1) } } }
    t.setCol c ⟨t.cnt + 1, t.cnt + Nat.max 1 hold, .untested, none, []⟩)

/-- A synchronous word issues: its tokens are popped, its room is reserved, it has its effect on the tile, and the column
moves on. -/
def State.fire (s : State) (k : Needs) (hold : Nat) (g : Tile → Tile) : State :=
  (s.modTile s.cur.tile (fun t => g (t.take k))).issued hold

/-- The outcome of a meaning that has a next state. -/
def ok (s : State) : Out := .next s

/-- The trap of the word that acts. -/
def State.trapCur (s : State) (code sub : Nat) : State := s.trapAt s.cur.tile s.cur.col code s.cur.q.addr sub

/-- The trap of a CT word. -/
def State.trapCt (s : State) (code : Nat) : State := s.trapAt s.cur.tile .ct code s.cur.q.addr 0

/-- What an ill-formed word needs before it issues, and traps (R145, R260): of what its fields name, the queues and the token FIFOs that its
column has. -/
def Needs.named (k : Needs) (c : Col) : Needs :=
  let queues := fun (l : List Nat) => l.filter (fun q => decide (q < if c = .ct then 4 else 8))
  let fifos := fun (l : List Nat) => l.filter (fun f => decide (f < 10) && !(c == .lk && f == 5))
  { k with pops := queues k.pops, pushes := queues k.pushes, ins := fifos k.ins, outs := fifos k.outs }

/-- A CT word's attempt to issue (R141, R260, R294, R320): it waits while CT is busy, an interlock is not met or a queue is
not ready. When it issues, a reserved field is ILLINSN, a mode that does not allow it is ILLMODE, and otherwise it has its effect. -/
def ctIssue (s : State) (wf mode : Bool) (k : Needs) (f : State → Out) : Out :=
  let t := s.tile s.cur.tile
  if t.faulted .ct || t.ct.clk < t.ct.busy || !t.has (if wf then k else k.named .ct) then ok s
  else if !wf then ok (s.trapCt tILLINSN)
  else if !mode then ok (s.trapCt tILLMODE)
  else f s

/-- CT's next word issues `hold` cycles later at the earliest; the word leaves the queue. -/
def State.ctDone (s : State) (hold : Nat) : State :=
  let n := s.cur.tile
  s.modTile n (fun t =>
    let t := t.setIq .ct (t.iq .ct).tail
    { t with ct := { t.ct with busy := t.ct.clk + Nat.max 1 hold, prior := none } })

/-- The modes of R320. -/
def Tile.service (t : Tile) : Bool := !t.ct.mode && !t.ct.handler
def Tile.maintenance (t : Tile) : Bool := t.ct.mode

/-! ### Schedule misses (R153, R154) -/

/-- The target T of a stamped word that becomes eligible at count e, if its stamp is not in the past (R153). -/
def stampTarget (e : Nat) (x : Lane) : Option Nat :=
  let d := (x.toNat + 2 ^ 32 - e % 2 ^ 32) % 2 ^ 32
  if d ≥ 2 ^ 31 then none else some (e + d)

/-- The target of a stamp that lies in the past: the latest count before e with those low bits. -/
def pastTarget (e : Nat) (x : Lane) : Nat := e - (2 ^ 32 - (x.toNat + 2 ^ 32 - e % 2 ^ 32) % 2 ^ 32)

/-- The queue that a landing will push into, and the gang count of the push: a read of the scratchpad into a queue pushes three counts
after it (R325). -/
def Pend.push (p : Pend) : Option (Nat × Nat) :=
  match p.act with
  | .qpush q _ => some (q, p.due)
  | .farPush _ q _ _ _ => some (q, p.due)
  | .ldRead (.queue q _) _ => some (q, p.due + 3)
  | _ => none

/-- The landings of a tile, those of the handler's words at the gang counts that they come to when the gang goes on. -/
def Tile.landings (t : Tile) : List Pend := t.pend ++ t.ct.lands.map (fun p => { p with due := t.cnt + (p.due - t.ct.clk) })
/-- Is a queue entry present or due before T (R153)? -/
def Tile.dueEntries (t : Tile) (q lim : Nat) : Nat :=
  (t.landings.filter (fun p => match p.push with | some (r, d) => r == q && decide (d < lim) | none => false)).length

/-- Does a direct store push a token before T? It waits for its prior set, and pushes when it performs (R171, R176). -/
def Tile.storePush (t : Tile) (p : Pend) (f lim : Nat) : Bool :=
  match p.act with
  | .coStore _ _ _ _ _ toks _ prior => toks.contains f && decide (Nat.max p.due (t.cnt + 1) < lim) && t.priorDone prior
  | _ => false
/-- Is a token present or due before T? A token that lands at count d can be popped from d on, so its push fell at d - 1; a Flight instruction
pushes its own with its destination (R203). -/
def Tile.dueToken (t : Tile) (f lim : Nat) : Bool :=
  t.tokReady f || (match t.sq.flight with | some x => x.pushes.contains f && decide (x.fin < lim) | none => false) ||
    t.pend.any (fun p => (p.due ≤ lim && match p.act with | .token g => g == f | _ => false) || t.storePush p f lim)

/-- The operands of a stamped word are present or due at its check (R153). -/
def Tile.stampOk (t : Tile) (k : Needs) (lim : Nat) : Bool :=
  k.pops.all (fun q => k.pops.count q ≤ t.avail q + t.dueEntries q lim) && t.pushesOk k.pushes && k.ins.all (fun f => t.dueToken f lim) &&
    k.outs.all t.tokSpace && (!k.arrays || t.arraysDue lim) && (!k.unit || (match t.sq.flight with | some x => decide (x.fin ≤ lim) | none => true)) && t.carryHere k.carry

/-- What is reserved for a stamped word from its check on: entries and room; the check counts as a use of its sub-arrays, and one that an `MWAKE`
wakes later stays gated until then (R44, R153). -/
def Tile.holdFor (t : Tile) (k : Needs) : Tile :=
  let t := if k.arrays then t.restIdle else t
  { t with qs := { t.qs with
      held := k.pops.foldl (fun h q => upd 0 h q (· + 1)) t.qs.held,
      room := k.pushes.foldl (fun h q => upd 0 h q (· + 1)) t.qs.room,
      tokRoom := k.outs.foldl (fun h q => upd 0 h q (· + 1)) t.qs.tokRoom } }

/-- A word whose column holds it although its operands are there: a stamped one keeps what was held for it (R207, R388). -/
def State.keepWord (s : State) (k : Needs) (stamp : Option Lane) : State :=
  if stamp.isNone || s.cur.body then s
  else s.modTile s.cur.tile (fun t => (t.holdFor k).setCol s.cur.col { t.col s.cur.col with st := .issueAt t.cnt })

/-- What was reserved for a stamped word is given back to it at issue. -/
def Tile.unhold (t : Tile) (k : Needs) : Tile :=
  { t with qs := { t.qs with
      held := k.pops.foldl (fun h q => upd 0 h q (· - 1)) t.qs.held,
      room := k.pushes.foldl (fun h q => upd 0 h q (· - 1)) t.qs.room,
      tokRoom := k.outs.foldl (fun h q => upd 0 h q (· - 1)) t.qs.tokRoom } }

/-- What a stamped word whose target is known does: before its check it waits, past its target it misses, and at its check it is tested;
what it needs is then held for it until its target (R153, R154). -/
def stampCheck (s : State) (k : Needs) (f : State → Out) (target : Option Nat) (past : Nat) : Out :=
  let n := s.cur.tile
  let c := s.cur.col
  let t := s.tile n
  let miss := fun (goal : Nat) => ok ((s.modTile n (fun t => t.setCol c { t.col c with st := .missed ⟨t.cnt, s.stamp, goal⟩ })).raiseWire n)
  let dist := match s.gangOf n with | some g => freezeDist g | none => 12
  match target with
  | none => miss past
  | some lim =>
    if t.cnt + dist < lim then ok s
    else if lim < t.cnt then miss lim
    else if t.stampOk k lim then
      if lim = t.cnt then f s
      else ok (s.modTile n (fun t => (t.holdFor k).setCol c { t.col c with st := .issueAt lim }))
    else miss lim

/-- A stamped word's attempt to issue, eligible from count e on (R153, R154). -/
def stampIssue (s : State) (k : Needs) (f : State → Out) (e : Nat) (w : Lane) : Out :=
  let n := s.cur.tile
  let c := s.cur.col
  let t := s.tile n
  match (t.col c).st with
  | .issueAt lim => if lim ≤ t.cnt then f (s.modTile n (fun t => (t.unhold k).setCol c { t.col c with st := .untested })) else ok s
  | .missed _ => ok s
  | .untested => stampCheck s k f (stampTarget e w) (pastTarget e w)

/-- A synchronous word's attempt to issue (R145, R153, R154, R260). `f` is what the word does when it issues, and takes with
`State.fire` what it needs. An unstamped word waits for everything; a stamped one is tested at its check count, issues
exactly at its target, or misses. An ill-formed word traps when it issues. -/
def syncIssue (s : State) (wf : Bool) (dly : BitVec 3) (stamp : Option Lane) (k : Needs) (f : State → Out) : Out :=
  let n := s.cur.tile
  let c := s.cur.col
  let t := s.tile n
  let x := t.col c
  let e := Nat.max (x.after + dly.toNat) x.busy
  let k := if wf then k else k.named c
  let f := fun (s : State) => if wf then f s else ok (s.trapCur tILLINSN 0)
  let present := fun (s : State) => if k.arrays && t.mx.gated != 0 then ok (s.modTile n Tile.wakeArrays) else f s
  if t.faulted c || x.ackKey.isSome then ok s
  else if s.cur.body then (if x.busy ≤ t.cnt && t.has k then present s else ok s)
  else if t.cnt < e then ok s
  else match stamp with
    | none => if t.has k then present s else ok s
    | some w => stampIssue s k f e w

end Sys2Proof.Machine
end

