-- ==== Sys2Proof/Machine/Flags.lean ====
section
/-! DEFINITION. What stands where other machines have condition flags: the status words CTSTAT and the system registers of a
tile with their reserved values (R7, R8, R46, R165, R204, R210, R266, R271, R364), and the integer comparisons of CT
(R296, R298). This hardware has no arithmetic flags (R280, R296). -/
namespace Sys2Proof.Machine

open Sys2Proof

/-- CTSTAT (R165). -/
def Tile.ctstat (t : Tile) : Word :=
  BitVec.ofNat 64 (t.ct.missCnt.toNat * 2 ^ 48 + t.ct.loops.length * 2 ^ 2 + b2n t.ct.handler * 2 + b2n t.ct.mode)

/-- MXGATE (R46). -/
def Tile.mxgate (t : Tile) : Word := BitVec.ofNat 64 (t.mx.gated.toNat * 2 ^ 16 + t.mx.idleMax.toNat)

/-- PND.MAPi (R210). -/
def Tile.pndMap (t : Tile) (i : Nat) : Word :=
  BitVec.ofNat 64 ((t.desc (4 * i)).toNat + (t.desc (4 * i + 1)).toNat * 2 ^ 16 + (t.desc (4 * i + 2)).toNat * 2 ^ 32 +
    (t.desc (4 * i + 3)).toNat * 2 ^ 48)

/-- A system register by its SYS number (R271). -/
def Tile.sysRead (t : Tile) (y : Nat) : Word :=
  if 0x40 ≤ y ∧ y ≤ 0x4F then t.pndMap (y - 0x40)
  else match y with
    | 0x000 => 24
    | 0x001 => 65536
    | 0x002 => 12
    | 0x003 => 60
    | 0x010 => BitVec.ofNat 64 t.cnt
    | 0x011 => t.ctstat
    | 0x018 => t.ct.cause
    | 0x019 => t.ct.epc
    | 0x01A => t.ct.xpc
    | 0x01B => t.ct.fpc
    | 0x020 => t.ct.xva
    | 0x021 => t.ct.xinfo
    | 0x028 => t.st.health
    | 0x030 => t.mxgate
    | 0x038 => t.sq.mstep
    | 0x039 => t.sq.cfg
    | 0x080 => t.sq.win
    | 0x081 => t.sq.amax
    | 0x082 => t.sq.rng
    | _ => 0

/-- May `SRW` write this value to this register? A read-only register and a reserved value of a field are refused (R8, R314). Reserved and
read-only fields take no part in the write. -/
def sysWritable (y : Nat) (v : Word) : Bool :=
  match y with
  | 0x030 => wfld v 0 16 == 0 || 64 ≤ wfld v 0 16
  | 0x039 => true
  | 0x080 => winOk (wfld v 0 7) (wfld v 8 8) (wfld v 16 7)
  | 0x081 => wfld v 0 32 < 0x7F800000
  | 0x082 => true
  | _ => false

/-- The write of a system register (R314); reserved fields keep reading 0 (R8). -/
def Tile.sysWrite (t : Tile) (y : Nat) (v : Word) : Tile :=
  match y with
  | 0x030 => { t with mx := { t.mx with idleMax := BitVec.ofNat 16 (wfld v 0 16) } }
  | 0x039 => { t with sq := { t.sq with cfg := v &&& 0x3FFFF#64 } }
  | 0x080 => { t with sq := { t.sq with win := v &&& 0x7FFF7F#64 } }
  | 0x081 => { t with sq := { t.sq with amax := v &&& 0x3FFFFFFFF#64 } }
  | 0x082 => { t with sq := { t.sq with rng := v } }
  | _ => t

/-- The conditions of the branches (R298). -/
def condEq (s t : Word) : Bool := s == t
def condNe (s t : Word) : Bool := s != t
def condLt (s t : Word) : Bool := decide (s.toInt < t.toInt)
def condGe (s t : Word) : Bool := decide (t.toInt ≤ s.toInt)
def condLtu (s t : Word) : Bool := decide (s.toNat < t.toNat)
def condGeu (s t : Word) : Bool := decide (t.toNat ≤ s.toNat)

end Sys2Proof.Machine
end

