-- ==== Sys2Proof/Machine/Operands.lean ====
section
/-! DEFINITION. The operand forms of the words: the CR operands of CT with their queues (R294, R296), pattern addressing of LD, ST
and MX (R321, R322), the rotating window and the row operands of VX (R158, R346), and the token bits. -/
namespace Sys2Proof.Machine

open Sys2Proof

/-! ### CT -/

/-- What a CR word needs (R294). -/
def crNeeds (o : CrOp) : Needs where
  reads := (if o.qs then [] else [o.s.toNat]) ++ (if o.qt then [] else [o.t.toNat])
  writes := if o.qd then [] else [o.d.toNat]
  pops := (if o.qs then [o.s.toNat] else []) ++ (if o.qt then [o.t.toNat] else [])
  pushes := if o.qd then [o.d.toNat] else []
  ins := []
  outs := []
  arrays := false
  unit := false
  carry := Option.none

/-- A source of a CR word: S1 pops before S2 (R294). -/
def Tile.crSrc (t : Tile) (q : Bool) (r : Nat) : Tile × Word :=
  if q then (t.pop r, qWordOf (t.front r)) else (t, t.g r)

/-- A word that reads and writes only g registers. -/
def gNeeds (reads writes : List Nat) : Needs := { Needs.none with reads := reads, writes := writes }

/-! ### Pattern registers -/

/-- Field f of p(i): 0 the base, 1–4 the strides, 5–8 the bounds (R261). -/
def Tile.pField (t : Tile) (p f : Nat) : Word := get 0 t.ct.preg (9 * p + f)
def Tile.bound (t : Tile) (p k : Nat) : Nat := (t.pField p (5 + k)).toNat

/-- The bounds are in 1 to 2^32 (R321). -/
def Tile.patOk (t : Tile) (p : Nat) : Bool := (List.range 4).all (fun k => t.bound p k != 0 && t.bound p k ≤ 2 ^ 32)

/-- The address of an element (R321). -/
def patFold (t : Tile) (p : Nat) (m : Nat) (x : Word) (ks : List Nat) : Word :=
  match ks with
  | [] => x
  | k :: r => patFold t p (m / t.bound p k) (x + BitVec.ofNat 64 (m % t.bound p k) * t.pField p (1 + k)) r
def Tile.patAddr (t : Tile) (p : Nat) (e : Word) : Word := patFold t p e.toNat (t.pField p 0) [0, 1, 2, 3]

/-- An address register. -/
def Tile.areg (t : Tile) (a : Nat) : Word := get 0 t.ct.areg a

/-- The addresses of `c` elements from a(A) on. -/
def Tile.patAddrs (t : Tile) (p a c : Nat) : List Nat := (List.range c).map (fun k => (t.patAddr p (t.areg a + BitVec.ofNat 64 k)).toNat)

/-- A legal scratchpad row address (R323). -/
def rowAddrOk (x : Nat) : Bool := x % 32 == 0 && x + 511 ≤ 0x1FFFFF

/-- The sixteen pieces of `LDT` and `STT`: aligned, inside the scratchpad and in different banks (R327). -/
def piecesOk (l : List Nat) : Bool :=
  l.all (fun x => x % 32 == 0 && x + 31 ≤ 0x1FFFFF) && (l.map (fun x => x / 32 % 16)).Nodup

/-! ### VX rows -/

/-- The physical row of operand vn through the window (R158, R364). -/
def Tile.vrow (t : Tile) (n : Nat) : Nat :=
  let rb := wfld t.sq.win 0 7
  let rs := wfld t.sq.win 8 8
  let wb := wfld t.sq.win 16 7
  if rs = 0 || n < rb || rb + rs ≤ n then n else rb + (n - rb + wb) % rs

/-- The queue of a row name, if it names one (R259). -/
def qName (r : BitVec 8) : Option Nat := if r.toNat < 128 then none else some (r.toNat - 128)

/-- The queues that a list of source operands pops. -/
def srcPops (l : List (BitVec 8)) : List Nat := l.filterMap qName

/-- Read a source row of VX: a queue pops (R346). -/
def Tile.vxSrc (t : Tile) (r : BitVec 8) : Tile × Row :=
  match qName r with
  | some q => (t.pop q, t.front q)
  | none => (t, t.row (t.vrow r.toNat))

/-- Read a source row of ST, whose row fields name physical rows (R259). -/
def Tile.physSrc (t : Tile) (r : BitVec 8) : Tile × Row :=
  match qName r with
  | some q => (t.pop q, t.front q)
  | none => (t, t.row r.toNat)

/-- The landing of a destination row `n` counts after issue: a queue receives an entry (R148), a row is written. -/
def Tile.rowOut (t : Tile) (c : Col) (lat : Nat) (dst : BitVec 8) (phys : Nat) (v : Row) : Tile :=
  match qName dst with
  | some q => t.after c lat (.qpush q v)
  | none => t.after c lat (.row phys v)

/-- Is a Pound slot free (R210)? -/
def Tile.slotFree (t : Tile) (slot : Nat) : Bool := slotState (t.desc slot) == 0

/-- The needs of a synchronous word with tokens. -/
def syncNeeds (c : Col) (k : Tok) (pops pushes : List Nat) : Needs := ⟨[], [], pops, pushes, tokIn c k, tokOut c k, false, false, Option.none⟩

/-- The token bits of an LD word, which has only a right neighbour (R149). -/
def ldTok (dly : BitVec 3) (popR pushR : Bool) : Tok := ⟨dly, false, popR, false, pushR⟩

/-- A pop of LK or CE: operand k from qk, in ascending k (R333, R389). -/
def Tile.popOps (t : Tile) (ks : List Nat) : Tile × List Word :=
  ks.foldl (fun (a : Tile × List Word) k => (a.1.pop k, a.2 ++ [qWordOf (a.1.front k)])) (t, [])

end Sys2Proof.Machine
end

