-- ==== Sys2Proof/Machine/Ct.lean ====
section
/-! DEFINITION. The words of the control column (14_control_isa): integer arithmetic, branches and jumps, scalar memory, ordering,
semaphores, events, the gang barrier, loops, identity, system registers, traps and their ends. -/
namespace Sys2Proof.Machine

open Sys2Proof

/-! ### Moving on -/

/-- The course of CT changes (R144, R298): the CT words behind are discarded, fetch goes to the target, and waits for the
words of the other columns, except in the handler, whose lines hold no other words and while which those columns stand (R161). -/
def Tile.redirect (t : Tile) (stamp target : Nat) (checkLane drain : Bool) : Tile :=
  let t := t.setIq .ct []
  { t with fe := { t.fe with pc := target, buf := [], skip := [], tgt := checkLane, drain := drain && !t.ct.handler, at_ := stamp, on := true } }

/-- Branching out of loops (R160): entries that do not hold the target are popped from the top. -/
def unwind (target : Nat) (l : List LoopEnt) : List LoopEnt :=
  match l with
  | [] => []
  | e :: r => if e.first ≤ target && target ≤ e.last then e :: r else unwind target r

/-- Issuing the end word of the top loop entries (R160, R312): the remaining stack, and where CT continues. -/
def loopEnd (addr : Nat) (l : List LoopEnt) : List LoopEnt × Option Nat :=
  match l with
  | [] => ([], none)
  | e :: r =>
    if e.last = addr then
      if e.count > 1 then ({ e with count := e.count - 1 } :: r, some e.first) else loopEnd addr r
    else (e :: r, none)

/-- The loop stack as a word at an address meets it: the word behind a `LOOP` is the start of the top entry (R312). -/
def Ct.entered (c : Ct) (addr : Nat) : List LoopEnt :=
  if c.loopStart then (match c.loops with | e :: r => { e with first := addr } :: r | [] => []) else c.loops

/-- A CT word that issues has its effect and leaves the queue; the word after a `LOOP` sets the start of the entry, and the
end word of an entry leads back or ends it (R160, R312). -/
def State.ctNext (s : State) (hold : Nat) : State :=
  let n := s.cur.tile
  let addr := s.cur.q.addr
  let s := s.ctDone hold
  s.modTile n (fun t =>
    let (loops, back) := loopEnd addr (t.ct.entered addr)
    let t := { t with ct := { t.ct with loops := loops, loopStart := false } }
    match back with
    | some a => t.redirect s.stamp a false false
    | none => t)

/-- A CT word's attempt to issue, with the check that it does not run past the end of the top loop (R312). -/
def ctWord (s : State) (wf mode : Bool) (k : Needs) (f : State → Out) : Out :=
  ctIssue s wf mode k (fun s =>
    match (s.tile s.cur.tile).ct.loops with
    | e :: _ => if e.last < s.cur.q.addr then ok (s.trapCt tLOOP) else f s
    | [] => f s)

/-- The taken branch or jump of the word that acts; in the handler a target outside the locked region is ILLINSN (R301). -/
def State.jump (s : State) (target : Nat) (link : Option (Nat × Word)) : State :=
  let n := s.cur.tile
  if (s.tile n).ct.handler && 0x2000 ≤ target then s.trapCt tILLINSN
  else
    let addr := s.cur.q.addr
    let s := s.ctDone 1
    s.modTile n (fun t =>
      let loops := t.ct.entered addr
      let t := match link with | some (d, v) => t.setG d v 1 | none => t
      let t := { t with ct := { t.ct with loops := unwind target loops, loopStart := false } }
      t.redirect (s.stamp + 1) target true true)

/-- A landing made by CT at issue + n. DEDUCED (log 56): a word of the handler, whose tile stands at a frozen gang count, lands n cycles of CT later. -/
def Tile.ctLand (t : Tile) (n ord : Nat) (a : Act) : Tile :=
  if t.ct.handler then { t with ct := { t.ct with lands := insertPend ⟨t.ct.clk + n, ord, a⟩ t.ct.lands } } else t.land (t.cnt + n) ord a

/-! ### Integer arithmetic (R296, R297) -/

/-- A register-form ALU word: sources, result, and its write after `lat` cycles (R295, R296). -/
def aluWord (o : CrOp) (lat : Nat) (f : Word → Word → Word) (s : State) : Out :=
  ctWord s (crWf o) true (crNeeds o) (fun s =>
    let s := s.modTile s.cur.tile (fun t =>
      let t := t.take (crNeeds o)
      let (t, a) := t.crSrc o.qs o.s.toNat
      let (t, b) := t.crSrc o.qt o.t.toNat
      if o.qd then t.ctLand lat (landOrd .ct) (.qpush o.d.toNat (wordRow (f a b))) else t.setG o.d.toNat (f a b) lat)
    ok (s.ctNext 1))

/-- An immediate word (R297). -/
def immWord (d s : Nat) (f : Word → Word) (st : State) : Out :=
  ctWord st true true (gNeeds [s] [d]) (fun st =>
    let st := st.modTile st.cur.tile (fun t => t.setG d (f (t.g s)) 1)
    ok (st.ctNext 1))

/-- The truth value of a comparison as a word. -/
def flag (b : Bool) : Word := if b then 1 else 0

/-- f(s, t) of `DIV`, `DIVU` and `REM` (R296). -/
def divF (s t : Word) : Word := if t = 0 then BitVec.allOnes 64 else BitVec.ofInt 64 (s.toInt.tdiv t.toInt)
def divuF (s t : Word) : Word := if t = 0 then BitVec.allOnes 64 else BitVec.ofNat 64 (s.toNat / t.toNat)
def remF (s t : Word) : Word := if t = 0 then s else BitVec.ofInt 64 (s.toInt.tmod t.toInt)
/-- The high half of the signed product (R296). -/
def mulhF (s t : Word) : Word := BitVec.ofInt 64 (s.toInt * t.toInt / 2 ^ 64)

/-- `ADD` (R296). -/
def execAdd (o : CrOp) (s : State) : Out := aluWord o 1 (fun a b => a + b) s
/-- `SUB` (R296). -/
def execSub (o : CrOp) (s : State) : Out := aluWord o 1 (fun a b => a - b) s
/-- `AND` (R296). -/
def execAnd (o : CrOp) (s : State) : Out := aluWord o 1 (fun a b => a &&& b) s
/-- `OR` (R296). -/
def execOr (o : CrOp) (s : State) : Out := aluWord o 1 (fun a b => a ||| b) s
/-- `XOR` (R296). -/
def execXor (o : CrOp) (s : State) : Out := aluWord o 1 (fun a b => a ^^^ b) s
/-- `SLL` (R296). -/
def execSll (o : CrOp) (s : State) : Out := aluWord o 1 (fun a b => a <<< (b.toNat % 64)) s
/-- `SRL` (R296). -/
def execSrl (o : CrOp) (s : State) : Out := aluWord o 1 (fun a b => a >>> (b.toNat % 64)) s
/-- `SRA` (R296). -/
def execSra (o : CrOp) (s : State) : Out := aluWord o 1 (fun a b => a.sshiftRight (b.toNat % 64)) s
/-- `SLT` (R296). -/
def execSlt (o : CrOp) (s : State) : Out := aluWord o 1 (fun a b => flag (condLt a b)) s
/-- `SLTU` (R296). -/
def execSltu (o : CrOp) (s : State) : Out := aluWord o 1 (fun a b => flag (condLtu a b)) s
/-- `SEQ` (R296). -/
def execSeq (o : CrOp) (s : State) : Out := aluWord o 1 (fun a b => flag (condEq a b)) s
/-- `MUL` (R296). -/
def execMul (o : CrOp) (s : State) : Out := aluWord o 3 (fun a b => a * b) s
/-- `MULH` (R296). -/
def execMulh (o : CrOp) (s : State) : Out := aluWord o 3 (mulhF) s
/-- `DIV` (R296). -/
def execDiv (o : CrOp) (s : State) : Out := aluWord o 18 (divF) s
/-- `DIVU` (R296). -/
def execDivu (o : CrOp) (s : State) : Out := aluWord o 18 (divuF) s
/-- `REM` (R296). -/
def execRem (o : CrOp) (s : State) : Out := aluWord o 18 (remF) s
/-- `MIN` (R296). -/
def execMin (o : CrOp) (s : State) : Out := aluWord o 1 (fun a b => if condLt b a then b else a) s
/-- `MAX` (R296). -/
def execMax (o : CrOp) (s : State) : Out := aluWord o 1 (fun a b => if condLt a b then b else a) s

/-- The immediates of R297. -/
def simm (i : BitVec 16) : Word := i.signExtend 64
def zimm (i : BitVec 16) : Word := i.setWidth 64

/-- `ADDI` (R297). -/
def execAddi (o : CiOp) (s : State) : Out := immWord o.d.toNat o.s.toNat (fun a => a + simm o.imm) s
/-- `ANDI` (R297). -/
def execAndi (o : CiOp) (s : State) : Out := immWord o.d.toNat o.s.toNat (fun a => a &&& zimm o.imm) s
/-- `ORI` (R297). -/
def execOri (o : CiOp) (s : State) : Out := immWord o.d.toNat o.s.toNat (fun a => a ||| zimm o.imm) s
/-- `XORI` (R297). -/
def execXori (o : CiOp) (s : State) : Out := immWord o.d.toNat o.s.toNat (fun a => a ^^^ zimm o.imm) s
/-- `SLLI` (R297). -/
def execSlli (o : ShOp) (s : State) : Out := immWord o.d.toNat o.s.toNat (fun a => a <<< o.k.toNat) s
/-- `SRLI` (R297). -/
def execSrli (o : ShOp) (s : State) : Out := immWord o.d.toNat o.s.toNat (fun a => a >>> o.k.toNat) s
/-- `SRAI` (R297). -/
def execSrai (o : ShOp) (s : State) : Out := immWord o.d.toNat o.s.toNat (fun a => a.sshiftRight o.k.toNat) s
/-- `SLTI` (R297). -/
def execSlti (o : CiOp) (s : State) : Out := immWord o.d.toNat o.s.toNat (fun a => flag (condLt a (simm o.imm))) s
/-- `LDI` in its short form (R297). -/
def execLdi (d : BitVec 5) (imm : BitVec 21) (s : State) : Out := immWord d.toNat 0 (fun _ => imm.signExtend 64) s
/-- `LDI` in its long form (R268, R297). -/
def execLdiLong (d : BitVec 5) (imm : BitVec 21) (ext : Lane) (s : State) : Out :=
  immWord d.toNat 0 (fun _ => sext 53 (ext.toNat * 2 ^ 21 + imm.toNat)) s
/-- `ORHI` reads and writes g[D] (R297). -/
def execOrhi (d : BitVec 5) (sh : BitVec 2) (imm : BitVec 16) (s : State) : Out :=
  immWord d.toNat d.toNat (fun a => a ||| (zimm imm <<< (16 * sh.toNat))) s

/-! ### Branches and jumps (R298, R299) -/

/-- A conditional branch (R298). -/
def branchWord (o : CbOp) (c : Word → Word → Bool) (s : State) : Out :=
  ctWord s true true (gNeeds [o.a.toNat, o.b.toNat] []) (fun s =>
    let t := s.tile s.cur.tile
    if c (t.g o.a.toNat) (t.g o.b.toNat) then
      ok (s.jump (BitVec.ofNat 64 s.cur.q.addr + (o.off.signExtend 64 <<< 2)).toNat none)
    else ok (s.ctNext 1))

/-- `BEQ` (R298). -/
def execBeq (o : CbOp) (s : State) : Out := branchWord o condEq s
/-- `BNE` (R298). -/
def execBne (o : CbOp) (s : State) : Out := branchWord o condNe s
/-- `BLT` (R298). -/
def execBlt (o : CbOp) (s : State) : Out := branchWord o condLt s
/-- `BGE` (R298). -/
def execBge (o : CbOp) (s : State) : Out := branchWord o condGe s
/-- `BLTU` (R298). -/
def execBltu (o : CbOp) (s : State) : Out := branchWord o condLtu s
/-- `BGEU` (R298). -/
def execBgeu (o : CbOp) (s : State) : Out := branchWord o condGeu s

/-- The link of a jump: lane 1 of the line after the jump's own (R299). -/
def linkOf (pc : Nat) : Word := BitVec.ofNat 64 (pc - pc % 32 + 36)

/-- `JAL` (R299). -/
def execJal (d : BitVec 5) (off : BitVec 21) (s : State) : Out :=
  ctWord s true true (gNeeds [] [d.toNat]) (fun s =>
    ok (s.jump (BitVec.ofNat 64 s.cur.q.addr + (off.signExtend 64 <<< 2)).toNat (some (d.toNat, linkOf s.cur.q.addr))))

/-- `JALR` (R299): a target that is not word aligned is ILLINSN and writes nothing. -/
def execJalr (o : CiOp) (s : State) : Out :=
  ctWord s true true (gNeeds [o.s.toNat] [o.d.toNat]) (fun s =>
    let target := ((s.tile s.cur.tile).g o.s.toNat + simm o.imm).toNat
    if target % 4 != 0 then ok (s.trapCt tILLINSN)
    else ok (s.jump target (some (o.d.toNat, linkOf s.cur.q.addr))))

/-! ### Scalar memory (R302) -/

/-- The mailbox window of the handler (R166). -/
def inMailbox (a : Nat) : Bool := 0xFF00000000000000 ≤ a && a ≤ 0xFF0000000000001F

/-- The mailbox slot of a tile in its die's pager mailbox, as 32 bytes (R84, R118). -/
def State.slotBytes (s : State) (n : Nat) : List Byte :=
  (List.range 4).flatMap (fun i => leBytes 8 (get 0 (s.die (dieOf n)).mailbox (n % 128 * 4 + i)).toNat)
def State.setSlot (s : State) (n : Nat) (bs : List Byte) : State :=
  let set := fun (m : SMap Word) i => put m (n % 128 * 4 + i) (BitVec.ofNat 64 (leNat ((bs.drop (8 * i)).take 8)))
  s.modDie (dieOf n) (fun x => { x with mailbox := (List.range 4).foldl set x.mailbox })

/-- `LDS` (R302): its data return at issue + 3 when the data cache holds them, and otherwise later, at a time the architecture leaves open (R295, R437); a read
of the mailbox is an acquire of every class at system scope (R180). -/
def execLds (o : LdsOp) (s : State) : Out :=
  ctWord s (wellFormed (.lds o)) true (gNeeds [o.b.toNat] [o.v.toNat]) (fun s =>
    let n := s.cur.tile
    let t := s.tile n
    let len := 2 ^ o.sz.toNat
    let a := (t.g o.b.toNat + o.off.signExtend 64).toNat
    let val := fun (bs : List Byte) => if o.sx then sext (8 * len) (leNat bs) else BitVec.ofNat 64 (leNat bs)
    if a % len != 0 then ok (s.trapCt tILLINSN)
    else if t.ct.handler && inMailbox a then
      let bs := ((s.slotBytes n).drop (a % 32)).take len
      withAcquire s n 0xF 4 (fun s =>
        let (s, e) := s.fresh
        ok ((s.modTile n (fun t => t.setG o.v.toNat (val bs) (3 + e))).ctNext 1))
    else match s.tileRead n a len false with
      | (s, .wait) => ok s
      | (s, .fault f) => ok (s.trapXlat n 1 s.cur.q.addr a 0 f false)
      | (s, .ok (bs, hit)) =>
        let (s, e) := if hit then (s, 0) else s.fresh
        ok ((s.modTile n (fun t => t.setG o.v.toNat (val bs) (3 + e))).ctNext 1))

/-- `STS` (R302); a write to the mailbox is a release of every class at system scope (R180). -/
def execSts (o : StsOp) (s : State) : Out :=
  ctWord s true true (gNeeds [o.b.toNat, o.v.toNat] []) (fun s =>
    let n := s.cur.tile
    let t := s.tile n
    let len := 2 ^ o.sz.toNat
    let a := (t.g o.b.toNat + o.off.signExtend 64).toNat
    let bs := leBytes len (t.g o.v.toNat).toNat
    if a % len != 0 then ok (s.trapCt tILLINSN)
    else if t.ct.handler && inMailbox a then
      awaitPrior s n 0xF (fun s => withRelease s n 0xF 4 (fun s =>
        let old := s.slotBytes n
        ok ((s.setSlot n (old.take (a % 32) ++ bs ++ old.drop (a % 32 + len))).ctNext 1)))
    else match s.storeCheck n a len false noneWhole with
      | (s, .wait) => ok s
      | (s, .fault f) => ok (s.trapXlat n 1 s.cur.q.addr a 1 f false)
      | (s, .ok (.cached r w via)) => if s.roomWaits n a len then ok s else ok ((s.cacheStore n a (bs.map some) r w via).ctNext 1)
      | (s, .ok (.direct pa attr)) => ok (((s.flushRange n a len).writeAt t.id.part a pa attr (bs.map some)).ctNext 1))

/-! ### Ordering and cache maintenance (R303, R304) -/

/-- `FENCE` (R178, R303): it holds CT until the prior set has performed; with an empty mask it has no effect. -/
def fenceOn (s : State) (mask : BitVec 4) (scope : Nat) (f : State → Out) : Out :=
  let n := s.cur.tile
  if mask = 0 then f s
  else awaitPrior s n mask (fun s => withAcquire s n mask scope f)

def execFence (mask : BitVec 4) (scope : BitVec 3) (s : State) : Out :=
  ctWord s (scopeOk scope) true Needs.none (fun s => fenceOn s mask scope.toNat (fun s => ok (s.ctNext 1)))

/-- Does a line overlap a range of `len` bytes (R190)? -/
def overlaps (a len line : Nat) : Bool := 0 < len && a / 128 ≤ line && line ≤ (a + len - 1) / 128

/-- Lines leave the instruction store; a fetch in this cycle still reads them (R257). -/
def Fetch.dropLines (x : Fetch) (p : Nat → Bool) : Fetch :=
  { x with store := x.store.filter (fun e => !p e.1), gone := x.gone ++ x.store.filter (fun e => p e.1) }

/-- Cache maintenance on a range (R190, R191, R257): the tile's lines, its instruction store, and with a level above 0 the
Basin lines of its partition whose frame the level names. -/
def State.maintain (s : State) (n a len opc lvl : Nat) : State :=
  let p := (s.tile n).id.part
  let inRange := fun (x : Nat) => overlaps a len (x / 128)
  let s := if opc = 1 then s else s.cleanCache n inRange
  let s := if opc = 0 then s else s.dropCache n inRange
  let s := if opc = 0 then s else s.modTile n (fun t => { t with fe := t.fe.dropLines (fun e => inRange (e % 2 ^ 57)) })
  if lvl = 0 then s
  else (List.range 4).foldl (fun s d =>
    let named := fun (e : Nat × BLine) => e.1 / 2 ^ 50 == p && overlaps a len (e.1 % 2 ^ 50) &&
      (lvl == 1 || (lvl == 2 && isDram e.2.pa) || (lvl == 3 && isTier2 e.2.pa))
    ((s.die d).lines.filter named).foldl (fun s e => if opc = 0 then s.cleanLine d e.1 else s.dropLine d e.1) s) s

/-- Does maintenance wait for dirty bytes of its range that a slice holds (R191)? An invalidation of the tile's lines alone writes nothing back. -/
def State.maintainWaits (s : State) (n a len opc : Nat) : Bool :=
  opc != 1 && (s.cleanCache n (fun x => overlaps a len (x / 128))).backHeld n (fun x => overlaps a len (x / 128))

/-- The limits of a maintenance range: it does not wrap, and its ends are canonical (R190, R304). -/
def rangeOk (a len : Nat) : Bool := a + len - 1 < 2 ^ 57

/-- `CMO` (R304). -/
def execCmo (opc lvl : BitVec 2) (a n : BitVec 5) (s : State) : Out :=
  ctWord s (opc != 3) true (gNeeds [a.toNat, n.toNat] []) (fun s =>
    let k := s.cur.tile
    let x := ((s.tile k).g a.toNat).toNat
    let len := ((s.tile k).g n.toNat).toNat
    if len = 0 then ok (s.ctNext 1)
    else if !rangeOk x len then ok (s.trapXlat k 1 s.cur.q.addr x 0 ⟨1, 0⟩ false)
    else if s.maintainWaits k x len opc.toNat then ok (s.cleanCache k (fun a => overlaps x len (a / 128)))
    else ok ((s.maintain k x len opc.toNat lvl.toNat).ctNext 1))

/-! ### Semaphores, events and the gang barrier (R305–R307) -/

/-- `SEMW` (R305). -/
def execSemw (o : SemOp) (s : State) : Out :=
  ctWord s (scopeOk o.scope) true (gNeeds [o.s.toNat] []) (fun s =>
    let t := s.tile s.cur.tile
    if (t.sem o.sm.toNat).toNat < (t.g o.s.toNat).toNat % 2 ^ 32 then ok s
    else withAcquire s s.cur.tile o.mask o.scope.toNat (fun s => ok (s.ctNext 1)))

/-- `SEMR` (R305). -/
def execSemr (d : BitVec 5) (sm : BitVec 6) (s : State) : Out :=
  ctWord s true true (gNeeds [] [d.toNat]) (fun s =>
    ok ((s.modTile s.cur.tile (fun t => t.setG d.toNat ((t.sem sm.toNat).setWidth 64) 1)).ctNext 1))

/-- `SEMS` (R181, R305): the raise lands in the cycle after its prior set has performed, and CT holds until then. -/
def execSems (o : SemOp) (s : State) : Out :=
  ctWord s (scopeOk o.scope) true (gNeeds [o.s.toNat] []) (fun s =>
    let n := s.cur.tile
    awaitPrior s n o.mask (fun s => withRelease s n o.mask o.scope.toNat (fun s =>
      ok ((s.modTile n (fun t => t.ctLand 1 (landOrd .ct) (.raise o.sm.toNat (t.g o.s.toNat)))).ctNext 2))))

/-- `WFE` (R151, R306). -/
def execWfe (s : State) : Out :=
  ctWord s true true Needs.none (fun s =>
    if (s.tile s.cur.tile).ct.latch then
      ok ((s.modTile s.cur.tile (fun t => { t with ct := { t.ct with latch := false } })).ctNext 1)
    else ok s)

/-- Set the event latch of a tile (R151). -/
def State.setLatch (s : State) (n : Nat) : State := s.modTile n (fun t => { t with ct := { t.ct with latch := true } })

/-- `SEV` (R306): the latch of every tile of the gang, or of the issuing tile outside a gang task. R306 only bounds when they are set; DESIGN CHOICE (log
118): at once. -/
def execSev (s : State) : Out :=
  ctWord s true true Needs.none (fun s =>
    let s := match s.gangOf s.cur.tile with
      | none => s.setLatch s.cur.tile
      | some g => g.tiles.foldl State.setLatch s
    ok (s.ctNext 1))

/-- `GBAR` (R184, R307): in a gang of one a `FENCE` at gang scope. Otherwise the rank arrives once, with the release of its
mask, whose prior set the barrier awaits, and CT waits until the barrier has completed, with the acquire. -/
def execGbar (mask : BitVec 4) (s : State) : Out :=
  ctWord s true (s.tile s.cur.tile).service Needs.none (fun s =>
    let n := s.cur.tile
    let t := s.tile n
    match s.gangOf n with
    | none => ok s
    | some g =>
      if g.log2 = 0 then fenceOn s mask 1 (fun s => ok (s.ctNext 1))
      else if t.ct.released then
        withAcquire s n mask 1 (fun s => ok ((s.modTile n (fun t => { t with ct := { t.ct with joined := false, released := false } })).ctNext 1))
      else if t.ct.joined then ok s
      else
        let l := match t.ct.prior with | some l => l | none => t.priorKeys s.tm.pre mask
        withRelease (s.modTile n (fun t => { t with ct := { t.ct with prior := some l } })) n mask 1 (fun s =>
        let s := s.modTile n (fun t => { t with ct := { t.ct with joined := true, barPrior := l, prior := none } })
        ok (s.modGang g.base (fun g => { g with arrived := g.arrived ++ [n - g.base], lastArrival := t.cnt }))))

/-! ### Progress and completion (R308, R309) -/

/-- Restart the watchdog of a queue (R108). -/
def State.restartDog (s : State) (p q : Nat) : State :=
  s.modPart p (fun x => { x with queues := upd Queue.reset x.queues q (fun k => { k with dog := 0 }) })

/-- Record a mark of a rank and restart the watchdog of the gang's queue (R139, R308). -/
def State.recordMark (s : State) (n : Nat) (v : Word) : State :=
  match s.gangOf n with
  | none => s
  | some g => (s.modGang g.base (fun g => { g with marks := put g.marks (n - g.base) v, lastMark := v })).restartDog g.part g.queue

/-- `MARK` (R308): its write goes to the coherence point, and what the data cache holds of its bytes leaves the cache (R173, R174). -/
def execMark (r : BitVec 5) (s : State) : Out :=
  ctWord s true (s.tile s.cur.tile).service (gNeeds [r.toNat] []) (fun s =>
    let n := s.cur.tile
    let t := s.tile n
    let v := t.g r.toNat
    if t.id.prog = 0 then ok ((s.recordMark n v).ctNext 1)
    else awaitPrior s n 0xF (fun s => match (if s.cutOff (dieOf n) t.id.prog.toNat then (s, .fault ⟨2, 0⟩) else s.check t.id.part t.id.prog.toNat 8 .wr noneWhole) with
      | (s, .wait) => ok s
      | (s, .fault f) => ok (s.trapXlat n 1 s.cur.q.addr t.id.prog.toNat 1 f false)
      | (s, .ok pa attr _ _) =>
        withRelease (s.markWrite t.id.part t.id.prog.toNat) n 0xF 4 (fun s =>
          let s := s.flushRange n t.id.prog.toNat 8
          let s := s.writeAt t.id.part t.id.prog.toNat pa attr ((leBytes 8 v.toNat).map some)
          ok ((s.recordMark n v).ctNext 1))))

/-- The columns other than CT. -/
def otherCols : List Col := [.ld, .st, .vx, .mx, .sq, .lk, .ce]

/-- The tile has drained, so that `DONE` may issue (R309). -/
def Tile.drained (t : Tile) : Bool :=
  otherCols.all (fun c => (t.iq c).isEmpty && (t.col c).ackKey.isNone) && t.pend.isEmpty && t.ct.lands.isEmpty && !t.fe.seqr.run && t.sq.flight.isNone &&
    t.en.ceq.isEmpty && t.en.lkq.isEmpty && t.en.spq.isEmpty && t.en.posted.isEmpty && t.en.recvs.isEmpty

/-- A tile that becomes idle at the end of its task (R131). -/
def Tile.idleNow (t : Tile) : Tile :=
  { t with run := false, id := { t.id with ended := false, active := false }, fe := { t.fe with on := false } }

/-- `DONE` (R131, R309): the cache is cleaned and invalidated; with the last rank the barge completes, its tiles become idle
and its join is to be decremented. -/
def execDone (s : State) : Out :=
  ctWord s true (s.tile s.cur.tile).service Needs.none (fun s =>
    let n := s.cur.tile
    if !(s.tile n).drained then ok s
    else match s.gangOf n with
      | none => ok s
      | some g =>
        let s := s.flushCache n
        if s.backHeld n (fun _ => true) then ok s else
        let s := (s.ctDone 1).modTile n (fun t =>
          { (t.setIq .ct []) with id := { t.id with ended := true }, fe := { (t.setIq .ct []).fe with on := false } })
        let s := s.restartDog g.part g.queue
        let s := s.modGang g.base (fun g => { g with done := g.done ++ [n - g.base] })
        if g.done.length + 1 = 2 ^ g.log2 then
          let s := g.tiles.foldl (fun s k => s.modTile k Tile.idleNow) s
          ok { s with gangs := s.gangs.filter (fun h => !(h.base = g.base && h.onTiles)),
                      joins := if g.word 2 = 0 then s.joins else s.joins ++ [g] }
        else ok s)

/-! ### Loops (R310–R312) -/

/-- Start the modulo sequencer on the next B lines (R157, R310). -/
def State.startLoop (s : State) (b ii sc n : Nat) : State :=
  let k := s.cur.tile
  let a := s.cur.q.addr
  (s.modTile k (fun t =>
    { t with fe := { t.fe with seqr := { t.fe.seqr with mloop := a, run := true, lines := b, body := [], ii := ii, sc := sc, n := n, ahead := [], started := false, pos := 0 } } })).ctNext 1

/-- B, II and SC within R157. -/
def mloopOk (b ii sc : Nat) : Bool := 1 ≤ b && b ≤ 32 && 1 ≤ ii && ii ≤ 64 && 1 ≤ sc && sc ≤ 16

/-- `MLOOP` with its count in a register (R310). -/
def execMloop (b : BitVec 6) (ii : BitVec 7) (sc : BitVec 5) (r : BitVec 5) (s : State) : Out :=
  ctWord s true (s.tile s.cur.tile).service (gNeeds [r.toNat] []) (fun s =>
    let t := s.tile s.cur.tile
    if !mloopOk b.toNat ii.toNat sc.toNat || (t.g r.toNat).toNat ≥ 2 ^ 32 then ok (s.trapCt tLOOP)
    else if t.fe.seqr.run then ok s
    else ok (s.startLoop b.toNat ii.toNat sc.toNat (t.g r.toNat).toNat))

/-- `MLOOP lcb`, with the pending count (R310). -/
def execMloopLcb (b : BitVec 6) (ii : BitVec 7) (sc : BitVec 5) (s : State) : Out :=
  ctWord s true (s.tile s.cur.tile).service Needs.none (fun s =>
    let t := s.tile s.cur.tile
    if !mloopOk b.toNat ii.toNat sc.toNat || !t.fe.seqr.lcbValid then ok (s.trapCt tLOOP)
    else if t.fe.seqr.run then ok s
    else
      let n := t.fe.seqr.lcb.toNat
      let s := s.modTile s.cur.tile (fun t => { t with fe := { t.fe with seqr := { t.fe.seqr with lcbValid := false } } })
      ok (s.startLoop b.toNat ii.toNat sc.toNat n))

/-- `MLCB` (R159, R311): the flag is read at the coherence point every 64 c until it is not zero; then the named count. -/
def execMlcb (idx : BitVec 3) (a : BitVec 5) (s : State) : Out :=
  ctWord s (idx != 0) (s.tile s.cur.tile).service (gNeeds [a.toNat] []) (fun s =>
    let n := s.cur.tile
    let x := ((s.tile n).g a.toNat).toNat
    if x % 64 != 0 then ok (s.trapCt tILLINSN)
    else match s.tileRead n x 8 true with
      | (s, .wait) => ok s
      | (s, .fault f) => ok (s.trapXlat n 1 s.cur.q.addr x 0 f false)
      | (s, .ok (fl, _)) =>
        if leNat fl = 0 then ok (s.modTile n (fun t => { t with ct := { t.ct with busy := t.ct.clk + 64 } }))
        else
          withAcquire s n 0x1 4 (fun s => match s.tileRead n (x + 8 * idx.toNat) 8 false with
          | (s, .wait) => ok s
          | (s, .fault f) => ok (s.trapXlat n 1 s.cur.q.addr (x + 8 * idx.toNat) 0 f false)
          | (s, .ok (c, _)) =>
            if leNat c ≥ 2 ^ 32 then ok (s.trapCt tLOOP)
            else ok ((s.modTile n (fun t => { t with fe := { t.fe with seqr := { t.fe.seqr with lcb := BitVec.ofNat 32 (leNat c), lcbValid := true } } })).ctNext 1)))

/-- `LOOP` (R160, R312). -/
def execLoop (r : BitVec 5) (e : BitVec 11) (s : State) : Out :=
  ctWord s (e != 0) (s.tile s.cur.tile).maintenance (gNeeds [r.toNat] []) (fun s =>
    let n := s.cur.tile
    let t := s.tile n
    let last := s.cur.q.addr + 4 * e.toNat
    let cnt := (t.g r.toNat).toNat
    if cnt = 0 then
      let s := s.ctNext 1
      ok (s.modTile n (fun t => t.redirect (s.stamp + 1) (last + 4) false true))
    else if t.ct.loops.length = 4 then ok (s.trapCt tLOOP)
    else
      let s := s.ctNext 1
      ok (s.modTile n (fun t => { t with ct := { t.ct with loops := ⟨0, last, cnt⟩ :: t.ct.loops, loopStart := true } })))

/-- `UNLOOP` (R160, R312). -/
def execUnloop (s : State) : Out :=
  ctWord s true (s.tile s.cur.tile).maintenance Needs.none (fun s =>
    let n := s.cur.tile
    match (s.tile n).ct.loops with
    | [] => ok (s.trapCt tLOOP)
    | _ :: r => ok ((s.modTile n (fun t => { t with ct := { t.ct with loops := r, loopStart := false } })).ctNext 1))

/-! ### Identity, system registers and address registers (R313–R316) -/

/-- The identifiers of R313. -/
def State.ident (s : State) (n sel : Nat) : Word :=
  let t := s.tile n
  match sel with
  | 0 => BitVec.ofNat 64 (n % 128)
  | 1 => BitVec.ofNat 64 t.id.rank
  | 2 => BitVec.ofNat 64 t.id.gsize
  | 3 => BitVec.ofNat 64 (dieOf n)
  | 4 => BitVec.ofNat 64 s.pkg
  | 5 => BitVec.ofNat 64 t.id.part
  | _ => t.id.barge

/-- `RDID` (R313). -/
def execRdid (d : BitVec 5) (sel : BitVec 4) (s : State) : Out :=
  ctWord s (sel.toNat < 7) true (gNeeds [] [d.toNat]) (fun s =>
    ok ((s.modTile s.cur.tile (fun t => t.setG d.toNat (s.ident s.cur.tile sel.toNat) 1)).ctNext 1))

/-- `SRR` (R314). -/
def execSrr (d : BitVec 5) (sys : BitVec 12) (s : State) : Out :=
  ctWord s (sysKnown sys) true (gNeeds [] [d.toNat]) (fun s =>
    ok ((s.modTile s.cur.tile (fun t => t.setG d.toNat (t.sysRead sys.toNat) 1)).ctNext 1))

/-- `SRW` (R314): a read-only register or a reserved value is ILLSYSW and changes nothing. -/
def execSrw (r : BitVec 5) (sys : BitVec 12) (s : State) : Out :=
  ctWord s (sysKnown sys) true (gNeeds [r.toNat] []) (fun s =>
    let v := (s.tile s.cur.tile).g r.toNat
    if !sysWritable sys.toNat v then ok (s.trapCt tILLSYSW)
    else ok ((s.modTile s.cur.tile (fun t => t.ctLand 1 (landOrd .ct) (.sys sys.toNat v))).ctNext 1))

/-- `RDSTAMP` (R315). -/
def execRdstamp (d : BitVec 5) (s : State) : Out :=
  ctWord s true true (gNeeds [] [d.toNat]) (fun s =>
    ok ((s.modTile s.cur.tile (fun t => t.setG d.toNat (BitVec.ofNat 64 s.stamp) 1)).ctNext 1))

/-- `MOVA` (R261, R316): its write stands over every other write of that cycle (R295, R322). -/
def execMova (tgt : BitVec 7) (r : BitVec 5) (s : State) : Out :=
  ctWord s (tgt.toNat < 88) true (gNeeds [r.toNat] []) (fun s =>
    ok ((s.modTile s.cur.tile (fun t =>
      t.ctLand 1 90 (if tgt.toNat < 16 then .areg tgt.toNat (t.g r.toNat) else .preg (tgt.toNat - 16) (t.g r.toNat)))).ctNext 1))

/-! ### Traps and their ends (R317–R319) -/

/-- `TRAP` (R317): SWTRAP, precise after the instruction. -/
def execTrap (_code : BitVec 16) (s : State) : Out :=
  ctWord s true true Needs.none (fun s =>
    let a := s.cur.q.addr
    ok ((s.ctNext 1).trapAt s.cur.tile .ct tSWTRAP a 0))

/-- `ERET` (R162, R318). -/
def execEret (s : State) : Out :=
  ctWord s true (s.tile s.cur.tile).ct.handler Needs.none (fun s => ok ((s.ctDone 1).returnFromTrap s.cur.tile))

/-- What `HALT` in the handler puts into the fault record: cause TRANSLATION with the subcause for a translation fault,
cause TRAP otherwise (R138, R140, R162). -/
def haltInfo (t : Tile) (n : Nat) : AbortInfo :=
  let code := wfld t.ct.cause 0 8
  if code = tTRANSLATION then ⟨1, wfld t.ct.cause 8 5, some n, t.ct.xva, t.ct.xinfo, word50 code t.ct.xpc, 0⟩
  else ⟨2, 0, some n, 0, 0, word50 code t.ct.xpc, 0⟩

/-- `HALT` (R319): in the handler the gang is aborted; in maintenance mode outside it CT stops. -/
def execHalt (s : State) : Out :=
  ctWord s true (s.tile s.cur.tile).maintenance Needs.none (fun s =>
    let n := s.cur.tile
    let t := s.tile n
    if t.ct.handler then
      match s.gangOf n with
      | some g => ok (s.abortGang g (haltInfo t n))
      | none => ok (s.modTile n Tile.stop)
    else ok ((s.ctDone 1).modTile n (fun t => { (t.setIq .ct []) with ct := { (t.setIq .ct []).ct with halted := true }, fe := { (t.setIq .ct []).fe with on := false } })))

end Sys2Proof.Machine
end

