-- ==== Sys2Proof/Machine/Chan.lean ====
section
/-! DEFINITION. Channels (R105–R107): the entries of a task's table, their checks in order, and the allowance. -/
namespace Sys2Proof.Machine

open Sys2Proof

/-- The fields of a channel entry (R106). -/
def chKind (e : Word × Word) : Nat := wfld e.2 60 3
def chAllow (e : Word × Word) : Nat := wfld e.2 0 32
def chLen (e : Word × Word) : Nat := 2 ^ wfld e.2 40 6

/-- The permission bits of an entry (R106): their bit numbers. -/
def permSend : Nat := 59
def permRecv : Nat := 58
def permWrite : Nat := 57
def permRead : Nat := 56

/-- Is the entry valid (R106)? -/
def chValid (e : Word × Word) : Bool :=
  let k := chKind e
  let l := wfld e.2 40 6
  wfld e.2 63 1 == 1 && k < 4 && wfld e.2 46 10 == 0 && wfld e.2 32 8 == 0 &&
    (if k == 3 then 12 ≤ l && l ≤ 44 else l == 0) &&
    (match k with
     | 1 => wfld e.1 19 45 == 0
     | 2 => wfld e.1 16 48 == 0
     | 3 => wfld e.1 57 7 == 0 && wfld e.1 0 12 == 0
     | _ => true)

/-- The endpoint tile of a KIND 1 entry (R106). -/
def chPlace (e : Word × Word) : Place := ⟨wfld e.1 7 12 / 4, wfld e.1 7 12 % 4 * 128 + wfld e.1 0 7⟩

/-- Entry `ch` of the table that the task keeps; a table whose read faulted holds no valid entry (R105). -/
def Tile.chan (t : Tile) (ch : Nat) : Word × Word := if t.en.chansOk then get (0, 0) t.en.chans ch else (0, 0)

/-- What a command asks of its channel: the kinds it accepts, the permission bit, the virtual range it touches in a KIND 3
region, and its bytes. -/
structure ChanUse where
  kinds : List Nat
  perm : Nat
  ranges : List (Nat × Nat)
  bytes : Nat
  deriving DecidableEq, Repr

/-- Is a place owned by the partition? The ownership of another package's tiles is not seen from here. -/
def State.placeOwned (s : State) (p : Place) (part : Nat) : Bool :=
  p.pkg != s.pkg || ((s.tile p.tile).id.ownV && (s.tile p.tile).id.ownPart == part)

/-! ### Groups (R392–R394) -/

/-- The group that a KIND 2 entry names (R106). -/
def State.group (s : State) (part : Nat) (e : Word × Word) : Option Group := find (s.part part).groups (wfld e.1 0 16)

/-- The rank of a place in a group. -/
def Group.rank (g : Group) (p : Place) : Option Nat :=
  let i := g.members.findIdx (fun m => !memberEng m && memberPlace m == p)
  if i < g.members.length then some i else none

/-- The additional checks of a command on a group (R392), by subcause. A member group is one whose members must hold the issuing tile, and
engine members are refused unless `engines`. -/
structure GroupUse where
  member : Bool
  engines : Bool
  deriving DecidableEq, Repr
def State.groupBad (s : State) (n ch : Nat) : Option GroupUse → Bool
  | none => false
  | some _ => 4095 < wfld ((s.tile n).chan ch).1 0 16 || (s.group (s.tile n).id.part ((s.tile n).chan ch)).isNone
def State.groupDenied (s : State) (n ch : Nat) : Option GroupUse → Bool
  | none => false
  | some u => match s.group (s.tile n).id.part ((s.tile n).chan ch) with
    | none => false
    | some g => (u.member && (g.rank (s.place n)).isNone) || (!u.engines && g.members.any memberEng)

/-- The checks of R107 in order, with those of R392 under their subcauses: the subcause of the first that fails. -/
def State.chanCheck (s : State) (n ch : Nat) (u : ChanUse) (g : Option GroupUse := none) : Option Nat :=
  let t := s.tile n
  let e := t.chan ch
  if !chValid e || !u.kinds.contains (chKind e) || s.groupBad n ch g then some 1
  else if !e.2.getLsbD u.perm || s.groupDenied n ch g then some 2
  else if chKind e = 3 && u.ranges.any (fun r => r.2 != 0 && (r.1 < e.1.toNat || e.1.toNat + chLen e < r.1 + r.2)) then some 3
  else if chAllow e < u.bytes then some 4
  else if chKind e = 1 && !s.placeOwned (chPlace e) t.id.part then some 5
  else none

/-- Is the allowance of a channel free for so many bytes more (R107)? -/
def Tile.allowOk (t : Tile) (ch bytes : Nat) : Bool := get 0 t.en.allow ch + bytes ≤ chAllow (t.chan ch)
/-- Take allowance, and return it. -/
def Tile.allowTake (t : Tile) (ch bytes : Nat) : Tile := { t with en := { t.en with allow := upd 0 t.en.allow ch (· + bytes) } }
def Tile.allowGive (t : Tile) (ch bytes : Nat) : Tile := { t with en := { t.en with allow := upd 0 t.en.allow ch (· - bytes) } }

/-! ### Tasks that are switched out (R400) -/

/-- ID.BARGE of the task that bytes leave for, as they leave. -/
def State.boundFor (s : State) (p : Place) : Word := if p.pkg = s.pkg then (s.tile p.tile).id.barge else 0
/-- Do bytes wait at the ingress, because the task they are bound for is switched out? What another package sends is bound for the
task that the tile last held. -/
def State.heldBack (s : State) (src : Place) (n : Nat) (bound : Word) : Bool :=
  s.gangs.any (fun g => g.has n && g.away (s.tile n) && g.id == (if src.pkg = s.pkg then bound else (s.tile n).id.barge))
/-- Is a tile behind a fence (R246)? -/
def Tile.isFenced (t : Tile) : Bool :=
  match t.wa.health with
  | .healthy => false
  | .suspect => false
  | .readmitted => false
  | _ => true

/-- The same for a packet of tile `a`, and through no fence (R57, R246). -/
def State.reachable (s : State) (a : Nat) (p : Place) : Bool :=
  s.linked (dieOf a) p && !(p.pkg == s.pkg && (s.tile p.tile).isFenced)

end Sys2Proof.Machine
end

