-- ==== Sys2Proof/Machine/Engine.lean ====
section
/-! DEFINITION. What the engines CE, LK and state spill share: the spaces they read and write, commands in their queues, waits
and raises, and the ends of commands (R164, R182, R333, R389). -/
namespace Sys2Proof.Machine

open Sys2Proof

/-- Where an engine access goes: virtual memory of the issuing partition, as a die reaches it, or the scratchpad of a tile. -/
inductive Space where
  | vm (d : Nat)
  | spad (p : Place)
  deriving DecidableEq, Repr

/-- The key of a byte of another package's scratchpad in the memory that the links show. -/
def farSpad (p : Place) (a : Nat) : Nat := 2 ^ 70 + (p.pkg * 512 + p.tile) * 2 ^ 21 + a

/-- The pieces of a range that no 128-byte line boundary cuts. -/
def linePieces (a n : Nat) : List (Nat × Nat) :=
  if n = 0 then [] else (List.range ((a + n + 127) / 128 - a / 128)).map (fun i =>
    let lo := Nat.max a ((a / 128 + i) * 128)
    (lo, Nat.min (a + n) ((a / 128 + i + 1) * 128) - lo))

/-- Read pieces of virtual memory in ascending order. -/
def State.vmRead (s : State) (d part : Nat) (ps : List (Nat × Nat)) : State × Nat × Ans (List Byte) :=
  match ps with
  | [] => (s, 0, .ok [])
  | (a, n) :: r => if s.cutOff d a then (s, a, .fault ⟨2, 0⟩) else match s.coRead part a n .rd with
    | (s, .fault f) => (s, a, .fault f)
    | (s, .wait) => (s, a, .wait)
    | (s, .ok b) => match s.vmRead d part r with
      | (s, a, .ok c) => (s, a, .ok (b ++ c))
      | x => x

/-- Check pieces of virtual memory, in ascending order. -/
def State.vmCheck (s : State) (d part : Nat) (acc : Acc) (ps : List (Nat × Nat)) : State × Nat × Ans Unit :=
  match ps with
  | [] => (s, 0, .ok ())
  | (a, n) :: r => if s.cutOff d a then (s, a, .fault ⟨2, 0⟩) else match s.check part a n acc (fun k => acc = .wr && a ≤ 32 * k && 32 * k + 32 ≤ a + n) with
    | (s, .fault f) => (s, a, .fault f)
    | (s, .wait) => (s, a, .wait)
    | (s, .ok _ _ _ _) => s.vmCheck d part acc r

/-- Write pieces of virtual memory whose checks have passed. -/
def State.vmWrite (s : State) (part : Nat) (ps : List (Nat × Nat)) (bs : List Byte) : State :=
  match ps with
  | [] => s
  | (a, n) :: r => (s.coWrite part a ((bs.take n).map some)).1.vmWrite part r (bs.drop n)

/-- Read `n` bytes of a space. The second component is the address of a fault. -/
def State.spRead (s : State) (part : Nat) (sp : Space) (a n : Nat) : State × Nat × Ans (List Byte) :=
  match sp with
  | .vm d => s.vmRead d part (linePieces a n)
  | .spad p => (s, 0, .ok (if p.pkg = s.pkg then (s.tile p.tile).before_.spad.bytes a n else s.far.bytes (farSpad p a) n))

/-- Write bytes into a space: every piece is checked before the first is written (R83, R163). -/
def State.spWrite (s : State) (part : Nat) (sp : Space) (a : Nat) (bs : List Byte) : State × Nat × Ans Unit :=
  match sp with
  | .vm d => match s.vmCheck d part .wr (linePieces a bs.length) with
    | (s, x, .ok _) => (s.vmWrite part (linePieces a bs.length) bs, x, .ok ())
    | r => r
  | .spad p =>
    (if p.pkg = s.pkg then s.modTile p.tile (·.engStore a bs) else { s with far := s.far.store (farSpad p a) bs }, 0, .ok ())

/-- One outstanding part of a command is done. -/
def Cmd.ack (c : Cmd) : Cmd := { c with left := c.left - 1 }

/-- A new command. -/
def newCmd (key : Nat) (i : Instr) (pc : Nat) (ops : List Word) : Cmd :=
  { key := key, instr := i, pc := pc, ops := ops, await := none, raise := none, scope := 4, rel := none, chan := none, started := false, lines := 0, performed := false, left := 0, gen := 0, buf := [], ahead := none, allow := 0, status := [], peer := none, since := 0, next := 0, prior := none }

/-- A sender learns that a command's part for a fenced tile is lost: the channel entry becomes invalid and the command takes the
CHANNEL trap, once (R247). -/
def Tile.lostCommand (t : Tile) (col : Col) (c : Cmd) : Tile :=
  let t := match c.chan with
    | some ch => { t with en := { t.en with chans := put t.en.chans ch (0, 0) } }
    | none => t
  if (t.ct.reqs ++ t.ct.early).any (fun q => q.code == tCHANNEL && q.col == colCode col) || (t.ct.handler && wfld t.ct.cause 0 8 == tCHANNEL) then t
  else t.request (trapReq tCHANNEL (colCode col) c.pc 1)

/-- ACC of XFLT.INFO: a read or write of the copy engine is a copy source or destination, but for those of `CMOA` (R78, R84). -/
def cmdAcc (col : Col) (i : Instr) (acc : Nat) : Nat :=
  match i with
  | .cmoa _ => acc
  | _ => if col = .ce && acc < 2 then acc + 4 else acc

/-- The resumable TRANSLATION trap of a command (R83, R163). -/
def State.engineFault (s : State) (n : Nat) (col : Col) (c : Cmd) (va acc : Nat) (f : Flt) : State :=
  let acc := cmdAcc col c.instr acc
  (s.nameRoute n va f).modTile n (fun t => t.request ⟨tTRANSLATION, colCode col, c.pc, f.sub, true, BitVec.ofNat 64 va, xfltInfo va t.id.part (colCode col) acc f⟩)

/-- Any other trap of a command that has started. -/
def State.engineTrap (s : State) (n : Nat) (col : Col) (c : Cmd) (code sub : Nat) : State :=
  s.modTile n (fun t => t.request (trapReq code (colCode col) c.pc sub))

/-- Is an await satisfied (R267)? -/
def Tile.awaitOk (t : Tile) (c : Cmd) : Bool :=
  match c.await with
  | none => true
  | some (sm, thr) => thr ≤ (t.sem sm).toNat

/-- A legal scratchpad span (R335, R390). -/
def spadOk (a n : Nat) : Bool := a < 0x200000 && a + n ≤ 0x200000

/-- The sign of a 32-bit field. -/
def int32 (v : Nat) : Int := (BitVec.ofNat 32 v).toInt

/-- An address moved by a signed amount, modulo 2^64. -/
def moved (a : Nat) (d : Int) : Nat := (((a : Int) + d) % 2 ^ 64).toNat

end Sys2Proof.Machine
end

