-- ==== Sys2Proof/Machine/Num.lean ====
section
/-! DEFINITION. Number formats and exact arithmetic (13_arithmetic): decoding, encoding, rounding in the five modes, overflow, sums
and products of exact values, conversions, dot products and the Philox generator. -/
namespace Sys2Proof.Machine

open Sys2Proof

/-- A floating-point format (R279): width, mantissa bits, bias, the exponent of the top binade, the largest significand there,
whether it has infinities, the infinity and the default NaN. -/
structure Fmt where
  w : Nat
  man : Nat
  bias : Nat
  emax : Nat
  maxK : Nat
  hasInf : Bool
  inf : Nat
  nan : Nat
  deriving DecidableEq, Repr

def f32 : Fmt := ⟨32, 23, 127, 127, 2 ^ 24 - 1, true, 0x7F800000, 0x7FC00000⟩
def bf16 : Fmt := ⟨16, 7, 127, 127, 255, true, 0x7F80, 0x7FC0⟩
def f16 : Fmt := ⟨16, 10, 15, 15, 2047, true, 0x7C00, 0x7E00⟩
def e4m3 : Fmt := ⟨8, 3, 7, 8, 14, false, 0x7F, 0x7F⟩
def e5m2 : Fmt := ⟨8, 2, 15, 15, 7, true, 0x7C, 0x7E⟩
def e2m1 : Fmt := ⟨4, 1, 1, 2, 3, false, 0, 0⟩

/-- The format of an element type of VX (R263). -/
def fmtOf (et : Nat) : Fmt :=
  match et with
  | 0 => f32 | 1 => bf16 | 2 => f16 | 3 => e4m3 | 4 => e5m2 | _ => e2m1

/-- The value of a bit pattern: NaN, an infinity, or ± m · 2^e (a zero has m = 0 and keeps its sign). -/
inductive Val where
  | nan
  | inf (neg : Bool)
  | fin (neg : Bool) (m : Nat) (e : Int)
  deriving DecidableEq, Repr

/-- The exponent of the units of the subnormals. -/
def Fmt.qmin (f : Fmt) : Int := 1 - (f.bias : Int) - f.man

/-- `dec` (R283). -/
def dec (f : Fmt) (b : Nat) : Val :=
  let neg := b / 2 ^ (f.w - 1) % 2 == 1
  let mag := b % 2 ^ (f.w - 1)
  let e := mag / 2 ^ f.man
  let m := mag % 2 ^ f.man
  if f.hasInf then
    if mag = f.inf then .inf neg
    else if f.inf < mag then .nan
    else if e = 0 then .fin neg m f.qmin else .fin neg (2 ^ f.man + m) (f.qmin + e - 1)
  else if f.w = 8 ∧ mag = 0x7F then .nan
  else if e = 0 then .fin neg m f.qmin else .fin neg (2 ^ f.man + m) (f.qmin + e - 1)

/-- The sign bit of a pattern. -/
def signBit (f : Fmt) (neg : Bool) : Nat := if neg then 2 ^ (f.w - 1) else 0

/-- The pattern of k · 2^q, which lies on the grid of the format. -/
def encK (f : Fmt) (neg : Bool) (k : Nat) (q : Int) : Nat :=
  if k < 2 ^ f.man then signBit f neg + k
  else if k = 2 ^ (f.man + 1) then signBit f neg + ((q + 1 - f.qmin + 1).toNat * 2 ^ f.man)
  else signBit f neg + ((q - f.qmin + 1).toNat * 2 ^ f.man + (k - 2 ^ f.man))

/-- The largest finite value, and the default NaN (R279). -/
def encMax (f : Fmt) (neg : Bool) : Nat := encK f neg f.maxK ((f.emax : Int) - f.man)
def encInf (f : Fmt) (neg : Bool) : Nat := signBit f neg + f.inf

/-- The result of an infinite input (R284). -/
def infResult (f : Fmt) (sat neg : Bool) : Nat :=
  if f.hasInf then encInf f neg else if f.w = 4 then encMax f neg else if sat then encMax f neg else f.nan

/-- The result of a finite overflow under a mode (R284). -/
def overflow (f : Fmt) (mode : Nat) (sat neg : Bool) : Nat :=
  if f.w = 4 || sat then encMax f neg
  else if !f.hasInf then f.nan
  else match mode with
    | 1 => encMax f neg
    | 2 => if neg then encMax f neg else encInf f neg
    | 3 => if neg then encInf f neg else encMax f neg
    | _ => encInf f neg

/-- Floor of the binary logarithm of n / d, both positive. -/
def log2Q (n d : Nat) : Int :=
  let l : Int := (Nat.log2 n : Int) - Nat.log2 d
  -- n/d lies in [2^(l-1), 2^(l+1))
  if (if 0 ≤ l then decide (d * 2 ^ l.toNat ≤ n) else decide (d ≤ n * 2 ^ (-l).toNat)) then l else l - 1

/-- Does rounding the magnitude k + r/d up under a mode choose k + 1 (R283, R285)? -/
def roundsUp (mode u : Nat) (neg : Bool) (k r d : Nat) : Bool :=
  if r = 0 then false
  else match mode with
    | 1 => false
    | 2 => !neg
    | 3 => neg
    | 4 => if neg then decide ((d - r) * 2 ^ 32 ≤ u * d) else decide (u * d < r * 2 ^ 32)
    | _ => decide (d < 2 * r) || (decide (2 * r = d) && k % 2 == 1)

/-- `round_mode` and `enc` of the non-zero magnitude n / d (R283–R285). -/
def roundQ (f : Fmt) (mode : Nat) (sat : Bool) (u : Nat) (neg : Bool) (n d : Nat) : Nat :=
  if n = 0 then signBit f neg
  else
    let qmax : Int := (f.emax : Int) - f.man
    let q : Int := Max.max f.qmin (Min.min qmax (log2Q n d - f.man))
    let n' := if 0 ≤ q then n else n * 2 ^ (-q).toNat
    let d' := if 0 ≤ q then d * 2 ^ q.toNat else d
    let k := n' / d'
    let r := n' % d'
    -- beyond the largest finite magnitude stochastic rounding is RNE (R285)
    let big := q = qmax ∧ (f.maxK < k ∨ (k = f.maxK ∧ r ≠ 0))
    let mode := if mode = 4 ∧ big then 0 else mode
    let k := if roundsUp mode u neg k r d' then k + 1 else k
    if q = qmax ∧ f.maxK < k then overflow f mode sat neg else encK f neg k q

/-- `enc(f, round_mode(x, m, f, ovf))` of an exact value. -/
def round (f : Fmt) (mode : Nat) (sat : Bool) (u : Nat) (x : Val) : Nat :=
  match x with
  | .nan => f.nan
  | .inf s => infResult f sat s
  | .fin s m e => if 0 ≤ e then roundQ f mode sat u s (m * 2 ^ e.toNat) 1 else roundQ f mode sat u s m (2 ^ (-e).toNat)

/-- RNE to F32. -/
def rne32 (x : Val) : Nat := round f32 0 false 0 x

/-! ### Exact operations -/

def Val.neg (x : Val) : Val :=
  match x with
  | .nan => .nan
  | .inf s => .inf (!s)
  | .fin s m e => .fin (!s) m e
def Val.abs (x : Val) : Val :=
  match x with
  | .nan => .nan
  | .inf _ => .inf false
  | .fin _ m e => .fin false m e
def Val.isNan (x : Val) : Bool := match x with | .nan => true | _ => false
def Val.isInf (x : Val) : Bool := match x with | .inf _ => true | _ => false
def Val.isZero (x : Val) : Bool := match x with | .fin _ 0 _ => true | _ => false
def Val.sign (x : Val) : Bool := match x with | .nan => false | .inf s => s | .fin s _ _ => s

/-- The integer x · 2^(-e) of a finite value whose exponent is at least e. -/
def Val.scaled (x : Val) (e : Int) : Int :=
  match x with
  | .fin s m k => (if s then -1 else 1) * ((m * 2 ^ (k - e).toNat : Nat) : Int)
  | _ => 0
def Val.exp (x : Val) : Int := match x with | .fin _ _ e => e | _ => 0

/-- A finite value from an integer and an exponent. -/
def ofInt (z : Int) (e : Int) : Val := .fin (decide (z < 0)) z.natAbs e

/-- The exact product (R283). -/
def mulV (a b : Val) : Val :=
  match a, b with
  | .nan, _ => .nan
  | _, .nan => .nan
  | .inf s, .inf t => .inf (s != t)
  | .inf s, .fin t m _ => if m = 0 then .nan else .inf (s != t)
  | .fin s m _, .inf t => if m = 0 then .nan else .inf (s != t)
  | .fin s m e, .fin t n k => .fin (s != t) (m * n) (e + k)

/-- The exact sum of a list (R283, R288, R358); `rdn` says that an exact zero of mixed signs is −0. -/
def sumV (rdn : Bool) (l : List Val) : Val :=
  if l.any Val.isNan then .nan
  else if l.any (fun x => x == .inf false) then (if l.any (fun x => x == .inf true) then .nan else .inf false)
  else if l.any (fun x => x == .inf true) then .inf true
  else
    let e := l.foldl (fun e x => Min.min e x.exp) 0
    let z := l.foldl (fun a x => a + x.scaled e) 0
    if z = 0 then
      let zero := l.all Val.isZero
      if zero && l.all (fun x => x.sign) && !l.isEmpty then .fin true 0 0
      else if zero && l.all (fun x => !x.sign) then .fin false 0 0
      else .fin rdn 0 0
    else ofInt z e

def addV (rdn : Bool) (a b : Val) : Val := sumV rdn [a, b]

/-- Is a < b, with −0 below +0 when `zeros` (R59, R194, R350)? A NaN is below nothing and above nothing. -/
def ltV (zeros : Bool) (a b : Val) : Bool :=
  match a, b with
  | .nan, _ => false
  | _, .nan => false
  | .inf true, .inf true => false
  | .inf true, _ => true
  | _, .inf true => false
  | .inf false, _ => false
  | _, .inf false => true
  | .fin s m e, .fin t n k =>
    let lo := Min.min e k
    let x := Val.scaled (.fin s m e) lo
    let y := Val.scaled (.fin t n k) lo
    decide (x < y) || (zeros && decide (x = 0) && decide (y = 0) && s && !t)
def eqV (a b : Val) : Bool := !a.isNan && !b.isNan && !ltV false a b && !ltV false b a

/-- The greater and the smaller pattern, −0 below +0, NaN giving the default NaN (R59, R194, R350). -/
def maxF (f : Fmt) (a b : Nat) : Nat :=
  if (dec f a).isNan || (dec f b).isNan then f.nan else if ltV true (dec f a) (dec f b) then b else a
def minF (f : Fmt) (a b : Nat) : Nat :=
  if (dec f a).isNan || (dec f b).isNan then f.nan else if ltV true (dec f b) (dec f a) then b else a

/-! ### Integers (R281, R287) -/

def isSigned (et : Nat) : Bool := et == 6 || et == 8 || et == 10

/-- The integer a lane holds. -/
def intOf (signed : Bool) (w v : Nat) : Int := if signed && decide (2 ^ (w - 1) ≤ v) then (v : Int) - 2 ^ w else v

/-- The range of an integer format, and a value clamped or wrapped to it. -/
def intLo (signed : Bool) (w : Nat) : Int := if signed then -(2 ^ (w - 1)) else 0
def intHi (signed : Bool) (w : Nat) : Int := if signed then 2 ^ (w - 1) - 1 else 2 ^ w - 1
def wrapInt (w : Nat) (x : Int) : Nat := (x % 2 ^ w).toNat
def satInt (signed : Bool) (w : Nat) (x : Int) : Nat := wrapInt w (Max.max (intLo signed w) (Min.min (intHi signed w) x))

/-- A value rounded to an integer under a mode (R287). -/
def roundInt (mode u : Nat) (neg : Bool) (m : Nat) (e : Int) : Int :=
  let n := if 0 ≤ e then m * 2 ^ e.toNat else m
  let d := if 0 ≤ e then 1 else 2 ^ (-e).toNat
  let k := n / d
  let k := if roundsUp mode u neg k (n % d) d then k + 1 else k
  if neg then -(k : Int) else k

/-- The conversion of R287 between element types coded as ET. -/
def convert (src dst mode : Nat) (sat : Bool) (u : Nat) (v : Nat) : Nat :=
  let ws := width (BitVec.ofNat 4 src)
  let wd := width (BitVec.ofNat 4 dst)
  if src < 6 then
    let x := dec (fmtOf src) v
    if dst < 6 then (match x with | .nan => (fmtOf dst).nan | _ => round (fmtOf dst) mode sat u x)
    else match x with
      | .nan => 0
      | .inf s => wrapInt wd (if s then intLo (isSigned dst) wd else intHi (isSigned dst) wd)
      | .fin s m e => satInt (isSigned dst) wd (roundInt mode u s m e)
  else
    let x := intOf (isSigned src) ws v
    if dst < 6 then round (fmtOf dst) mode sat u (ofInt x 0) else satInt (isSigned dst) wd x

/-! ### Amax (R292) -/

/-- One update of VX.AMAX by a value. -/
def amaxUpdate (s : Lane × Bool × Bool) (x : Val) : Lane × Bool × Bool :=
  match x with
  | .nan => (s.1, true, s.2.2)
  | .inf _ => (s.1, s.2.1, true)
  | x => (BitVec.ofNat 32 (maxF f32 s.1.toNat (round f32 2 false 0 x.abs)), s.2.1, s.2.2)

/-- The value of a lane of an element type, for amax. -/
def valOf (et v : Nat) : Val := if et < 6 then dec (fmtOf et) v else ofInt (intOf (isSigned et) (width (BitVec.ofNat 4 et)) v) 0

/-! ### Random numbers (R286) -/

/-- The rounds of Philox 4×32-10. -/
def philoxLoop (n : Nat) (k0 k1 : Nat) (x : Nat × Nat × Nat × Nat) : Nat × Nat × Nat × Nat :=
  match n with
  | 0 => x
  | n + 1 =>
    let p := 0xD2511F53 * x.1
    let q := 0xCD9E8D57 * x.2.2.1
    philoxLoop n ((k0 + 0x9E3779B9) % 2 ^ 32) ((k1 + 0xBB67AE85) % 2 ^ 32)
      ((q / 2 ^ 32) ^^^ x.2.1 ^^^ k0, q % 2 ^ 32, (p / 2 ^ 32) ^^^ x.2.2.2 ^^^ k1, p % 2 ^ 32)

/-- Word j of philox(key, c) (R286). -/
def philox (key : Word) (c : Nat × Nat × Nat × Nat) (j : Nat) : Nat :=
  let x := philoxLoop 10 (key.toNat % 2 ^ 32) (key.toNat / 2 ^ 32) c
  match j with
  | 0 => x.1 | 1 => x.2.1 | 2 => x.2.2.1 | _ => x.2.2.2

/-- `rand32(c, i)` (R286). -/
def rand32 (key : Word) (c : Nat × Nat × Nat × Nat) (i : Nat) : Nat :=
  philox key ((c.1 + i / 4) % 2 ^ 32, c.2.1, c.2.2.1, c.2.2.2) (i % 4)

/-- CRC-32 of IEEE 802.3 over bytes (R381). -/
def crcByte (c : Nat) (b : Byte) : Nat :=
  (List.range 8).foldl (fun c _ => if c % 2 = 1 then (c / 2) ^^^ 0xEDB88320 else c / 2) (c ^^^ b.toNat)
def crc32 (bs : List Byte) : Nat := (bs.foldl crcByte 0xFFFFFFFF) ^^^ 0xFFFFFFFF

end Sys2Proof.Machine
end

