-- ==== Sys2Proof/Machine/Real.lean ====
section
/-! DEFINITION. The correctly rounded functions (R194, R286, R355, R407, R408): reciprocal, reciprocal square root, powers, logarithms
and sums of exponentials, by intervals of fixed-point integers whose precision rises until both ends round alike. -/
namespace Sys2Proof.Machine

open Sys2Proof

/-- An interval of reals: the ends are integers in units of 2^(-p). -/
structure Iv where
  lo : Int
  hi : Int
  deriving DecidableEq, Repr

/-- Σ 1/(k·2^k) up to n terms in units of 2^(-p). -/
def ln2Sum (p n : Nat) : Nat :=
  match n with
  | 0 => 0
  | k + 1 => 2 ^ p / ((k + 1) * 2 ^ (k + 1)) + ln2Sum p k

/-- ln 2. -/
def ln2 (p : Nat) : Iv :=
  let s : Int := ln2Sum p (p + 4)
  ⟨s, s + p + 8⟩

/-- The Taylor series of e^x for a scaled x in [0, 1): the sum, rounded down term by term. -/
def expSum (p x n k term acc : Nat) : Nat :=
  match n with
  | 0 => acc
  | n + 1 =>
    let term' := term * x / (2 ^ p * k)
    expSum p x n (k + 1) term' (acc + term')

/-- e^x for x in [0, 1). -/
def expUnit (p : Nat) (x : Iv) : Iv :=
  let n := p + 8
  let lo := expSum p x.lo.toNat n 1 (2 ^ p) (2 ^ p)
  let hi := expSum p x.hi.toNat n 1 (2 ^ p) (2 ^ p)
  ⟨lo, (hi : Int) + 4 * n + 8⟩

/-- The atanh series of a scaled z in [0, 1/2): Σ z^(2k+1)/(2k+1), rounded down term by term. -/
def atanhSum (p z2 n k term acc : Nat) : Nat :=
  match n with
  | 0 => acc
  | n + 1 => atanhSum p z2 n (k + 2) (term * z2 / 2 ^ p) (acc + term / k)

/-- ln(n / d) for 1 ≤ n / d < 2. -/
def lnUnit (p n d : Nat) : Iv :=
  let z := (n - d) * 2 ^ p / (n + d)
  let s : Int := 2 * atanhSum p (z * z / 2 ^ p) (p + 4) 1 z 0
  ⟨s, s + 8 * p + 64⟩

/-- ln(n / d) for positive n and d. -/
def lnQ (p n d : Nat) : Iv :=
  let k := log2Q n d
  let m := if 0 ≤ k then lnUnit p n (d * 2 ^ k.toNat) else lnUnit p (n * 2 ^ (-k).toNat) d
  let l := ln2 p
  if 0 ≤ k then ⟨m.lo + k * l.lo, m.hi + k * l.hi⟩ else ⟨m.lo + k * l.hi, m.hi + k * l.lo⟩

/-- The quotient of an interval by the interval of ln 2: the binary logarithm. -/
def divLn2 (p : Nat) (x : Iv) : Iv :=
  let l := ln2 p
  let down := fun (a : Int) => if 0 ≤ a then a * 2 ^ p / l.hi else a * 2 ^ p / l.lo
  let up := fun (a : Int) => if 0 ≤ a then a * 2 ^ p / l.lo + 1 else a * 2 ^ p / l.hi + 1
  ⟨down x.lo, up x.hi⟩

/-- log2(n / d). -/
def log2Iv (p n d : Nat) : Iv :=
  let k := log2Q n d
  let m := divLn2 p (if 0 ≤ k then lnUnit p n (d * 2 ^ k.toNat) else lnUnit p (n * 2 ^ (-k).toNat) d)
  ⟨m.lo + k * 2 ^ p, m.hi + k * 2 ^ p⟩

/-- 2^f for a scaled f in [0, 1], within [1, 2]. -/
def pow2Frac (p f : Nat) : Iv :=
  let l := ln2 p
  expUnit p ⟨f * l.lo / 2 ^ p, f * l.hi / 2 ^ p + 1⟩

/-- An interval of magnitudes n / 2^p · 2^s, with n between lo and hi. -/
structure Mag where
  lo : Nat
  hi : Nat
  p : Nat
  s : Int
  deriving DecidableEq, Repr

/-- Round n / 2^p · 2^s. -/
def roundAt (f : Fmt) (mode : Nat) (sat : Bool) (u : Nat) (neg : Bool) (n p : Nat) (s : Int) : Nat :=
  if 0 ≤ s then roundQ f mode sat u neg (n * 2 ^ s.toNat) (2 ^ p) else roundQ f mode sat u neg n (2 ^ (p + (-s).toNat))

/-- The precisions tried in turn. -/
def precisions : List Nat := [96, 200, 400, 800]

/-- Round a real given by intervals of rising precision: the first precision at which both ends round alike. -/
def roundIv (f : Fmt) (mode : Nat) (sat : Bool) (u : Nat) (neg : Bool) (g : Nat → Mag) (ps : List Nat) : Nat :=
  match ps with
  | [] => signBit f neg
  | p :: r =>
    let m := g p
    let a := roundAt f mode sat u neg m.lo m.p m.s
    if a = roundAt f mode sat u neg m.hi m.p m.s || r.isEmpty then a else roundIv f mode sat u neg g r

/-- Round a real whose sign the intervals also give. -/
def roundSigned (f : Fmt) (mode : Nat) (sat : Bool) (u : Nat) (g : Nat → Iv) (ps : List Nat) : Nat :=
  match ps with
  | [] => 0
  | p :: r =>
    let m := g p
    let one := fun (z : Int) => roundAt f mode sat u (decide (z < 0)) z.natAbs p 0
    if (one m.lo = one m.hi && decide (0 < m.lo * m.hi)) || r.isEmpty then one m.lo else roundSigned f mode sat u g r

/-- The rational value of a finite value: sign, numerator, denominator. -/
def Val.numDen (m : Nat) (e : Int) : Nat × Nat := if 0 ≤ e then (m * 2 ^ e.toNat, 1) else (m, 2 ^ (-e).toNat)

/-- 1 / a (R355). -/
def rcp (f : Fmt) (mode : Nat) (sat : Bool) (u : Nat) (a : Val) : Nat :=
  match a with
  | .nan => f.nan
  | .inf s => signBit f s
  | .fin s m e =>
    if m = 0 then infResult f false s
    else
      let q := Val.numDen m e
      roundQ f mode sat u s q.2 q.1

/-- 1 / √a (R355). -/
def rsq (f : Fmt) (mode : Nat) (sat : Bool) (u : Nat) (a : Val) : Nat :=
  match a with
  | .nan => f.nan
  | .inf s => if s then f.nan else 0
  | .fin s m e =>
    if m = 0 then infResult f false s
    else if s then f.nan
    else
      let q := Val.numDen m e
      -- √(den/num) = √(den·num)/num
      let sq := fun (p : Nat) => Nat.sqrt (q.2 * q.1 * 4 ^ p)
      if sq 0 * sq 0 = q.1 * q.2 then roundQ f mode sat u false (sq 0) q.1
      else roundIv f mode sat u false (fun p => ⟨sq p * 2 ^ p / q.1, (sq p + 1) * 2 ^ p / q.1 + 1, 2 * p, 0⟩) (precisions.map (· + 300))

/-- 2^a (R355); beyond ±2^20 the result lies far outside every format. -/
def exp2V (f : Fmt) (mode : Nat) (sat : Bool) (u : Nat) (a : Val) : Nat :=
  match a with
  | .nan => f.nan
  | .inf s => if s then 0 else infResult f false false
  | .fin s m e =>
    let q := Val.numDen m e
    if 2 ^ 20 * q.2 ≤ q.1 then
      (if s then roundQ f mode sat u false 1 (2 ^ 2000) else roundQ f mode sat u false (2 ^ 2000) 1)
    else
      let n : Int := if s then -((q.1 / q.2 : Nat) : Int) - (if q.1 % q.2 = 0 then 0 else 1) else (q.1 / q.2 : Nat)
      let r := if q.1 % q.2 = 0 then 0 else if s then q.2 - q.1 % q.2 else q.1 % q.2
      if r = 0 then roundAt f mode sat u false 1 0 n
      else roundIv f mode sat u false (fun p =>
        let a := pow2Frac p (r * 2 ^ p / q.2)
        let b := pow2Frac p (r * 2 ^ p / q.2 + 1)
        ⟨a.lo.toNat, b.hi.toNat, p, n⟩) precisions

/-- Is n / d a power of two? -/
def isPow2Q (n d : Nat) : Bool :=
  let k := log2Q n d
  if 0 ≤ k then n == d * 2 ^ k.toNat else n * 2 ^ (-k).toNat == d

/-- log2 a (R355). -/
def log2V (f : Fmt) (mode : Nat) (sat : Bool) (u : Nat) (a : Val) : Nat :=
  match a with
  | .nan => f.nan
  | .inf s => if s then f.nan else infResult f false false
  | .fin s m e =>
    if m = 0 then infResult f false true
    else if s then f.nan
    else
      let q := Val.numDen m e
      if isPow2Q q.1 q.2 then round f mode sat u (ofInt (log2Q q.1 q.2) 0)
      else roundSigned f mode sat u (fun p => log2Iv p q.1 q.2) precisions

/-- A finite value in units of 2^(-p), rounded down. -/
def Val.units (x : Val) (p : Nat) : Int :=
  match x with
  | .fin s m e =>
    let z : Int := (if s then -1 else 1) * (m : Int)
    if 0 ≤ e + p then z * 2 ^ (e + p).toNat else z / 2 ^ (-(e + p)).toNat
  | _ => 0

/-- 2^x for a scaled x ≤ 0, in units of 2^(-p); below 2^(-p) the interval is [0, 1]. -/
def pow2Neg (p : Nat) (x : Iv) : Iv :=
  let one := fun (z : Int) (up : Bool) =>
    let n := z / 2 ^ p
    if n < -(p : Int) then (if up then 1 else 0)
    else
      let v := pow2Frac p (z % 2 ^ p).toNat
      if up then v.hi / 2 ^ (-n).toNat + 1 else v.lo / 2 ^ (-n).toNat
  ⟨Max.max 0 (one x.lo false), Min.min (2 ^ p) (one (Min.min 0 x.hi) true)⟩

/-- A logarithm whose real value is 0 is +0: an operand −0 does not give its sign to it. -/
def Val.posZero (v : Val) : Val := match v with | .fin _ 0 _ => .fin false 0 0 | v => v

/-- log2(2^a + 2^b) (R194): a special value of an input decides; otherwise with M the greater, M + log2(1 + 2^(-|a-b|)). -/
def lseV (mode : Nat) (a b : Val) : Nat :=
  match a, b with
  | .nan, _ => f32.nan
  | _, .nan => f32.nan
  | .inf false, _ => encInf f32 false
  | _, .inf false => encInf f32 false
  | .inf true, .inf true => encInf f32 true
  | .inf true, y => round f32 mode false 0 y.posZero
  | x, .inf true => round f32 mode false 0 x.posZero
  | x, y =>
    let m := if ltV false x y then y else x
    let lo := Min.min x.exp y.exp
    let d : Int := -(Int.natAbs (x.scaled lo - y.scaled lo) : Int)
    if d = 0 then
      -- M + 1, exactly
      round f32 mode false 0 (sumV false [m, .fin false 1 0])
    else if ltV false (ofInt d lo) (ofInt (-700) 0) then
      -- the term added to M is positive and far below every place of the result: any such term rounds alike
      round f32 mode false 0 (sumV false [m, .fin false 1 (-400)])
    else roundSigned f32 mode false 0 (fun p =>
      let p := p + 200
      let dv := (ofInt d lo).units p
      let t := pow2Neg p ⟨dv, dv + 1⟩
      let l1 := log2Iv p (2 ^ p + t.lo.toNat) (2 ^ p)
      let l2 := log2Iv p (2 ^ p + t.hi.toNat) (2 ^ p)
      let mu := m.units p
      -- drop back to the precision of the caller; the sum never lies on the lower end
      ⟨(mu + Max.max 1 l1.lo) / 2 ^ 200, (mu + l2.hi + 1) / 2 ^ 200 + 1⟩) precisions

/-- log2(e) times a finite value, in units of 2^(-p): x / ln 2. -/
def timesLog2e (p : Nat) (x : Val) : Iv :=
  let z := x.units (p + 160)
  let v := divLn2 (p + 160) ⟨z, z + 1⟩
  ⟨v.lo / 2 ^ 160, v.hi / 2 ^ 160 + 1⟩

/-- e^(x - m) for finite x ≤ m, in units of 2^(-p). -/
def expNeg (p : Nat) (x m : Val) : Iv :=
  let lo := Min.min x.exp m.exp
  let d := x.scaled lo - m.scaled lo
  if d = 0 then ⟨2 ^ p, 2 ^ p⟩ else pow2Neg p (timesLog2e p (ofInt d lo))

/-- The sum of intervals. -/
def ivSum (l : List Iv) : Iv := l.foldl (fun a x => ⟨a.lo + x.lo, a.hi + x.hi⟩) ⟨0, 0⟩

/-- The greatest finite value of a list. -/
def maxFin (l : List Val) : Option Val :=
  l.foldl (fun m x => match x, m with
    | .fin _ _ _, none => some x
    | .fin _ _ _, some y => if ltV false y x then some x else m
    | _, _ => m) none

/-- ln Σ e^x as an interval, for a list with a finite greatest value m and no +∞ or NaN (R407). -/
def lnSumIv (p : Nat) (m : Val) (l : List Val) : Iv :=
  let s := ivSum (l.map (fun x => match x with | .fin _ _ _ => expNeg p x m | _ => ⟨0, 0⟩))
  let a := lnQ p s.lo.toNat (2 ^ p)
  let b := lnQ p s.hi.toNat (2 ^ p)
  let mu := m.units p
  ⟨mu + a.lo, mu + 1 + b.hi⟩

/-- ln Σ e^x, correctly rounded to F32, with the specials of `LSUM` (R407). -/
def lnSum (l : List Val) : Nat :=
  if l.any Val.isNan then f32.nan
  else if l.any (fun x => x == .inf false) then encInf f32 false
  else match maxFin l with
    | none => encInf f32 true
    | some m =>
      if (l.filter (fun x => match x with | .fin _ _ _ => true | _ => false)).length = 1 then round f32 0 false 0 m.posZero
      else roundSigned f32 0 false 0 (fun p => lnSumIv p m l) precisions

/-- gumbel(c): −ln(−ln((r + 0.5) / 2^32)) rounded to F32 (R286). -/
def gumbelOf (r : Nat) : Nat :=
  roundSigned f32 0 false 0 (fun p =>
    let u := lnQ p (2 ^ 33) (2 * r + 1)      -- −ln u, positive
    let a := lnQ p u.lo.toNat (2 ^ p)
    let b := lnQ p u.hi.toNat (2 ^ p)
    ⟨-b.hi, -a.lo⟩) precisions

/-- A decision between reals by intervals of rising precision: is a ≥ b? -/
def geIv (g : Nat → Iv × Iv) (ps : List Nat) : Bool :=
  match ps with
  | [] => true
  | p :: r =>
    let (a, b) := g p
    if b.hi ≤ a.lo then true else if a.hi < b.lo then false else geIv g r

end Sys2Proof.Machine
end

