-- ==== Sys2Proof/Machine/Ce.lean ====
section
/-! DEFINITION. The commands of the copy engine (R333–R343): each word's operands and checks, and the pieces in which a command
performs. -/
namespace Sys2Proof.Machine

open Sys2Proof

/-! ### The words -/

/-- At most four commands of CE are in progress (R333). -/
def ceInProgress : Nat := 4

/-- A CE word reaches the front of the command order when every earlier command has started (R141, R333). Then it waits for
its operands and room, takes the checks of R260 and `chk`, and is handed to the engine. -/
def ceWord (s : State) (i : Instr) (o : CeOp) (ks pushes : List Nat) (chk : State → List Nat → Option (Nat × Nat)) (alw : List Nat → Nat) : Out :=
  let n := s.cur.tile
  let t := s.tile n
  if t.faulted .ce || !t.en.ceq.all (·.started) || !(t.popsOk ks && t.pushesOk pushes) then ok s
  else if !wellFormed i then ok (s.trapCur tILLINSN 0)
  else
    let (u, ops) := t.popOps ks
    match chk s (ops.map (·.toNat)) with
    | some (code, sub) => ok (s.trapCur code sub)
    | none =>
      let (u, key) := u.newKey
      let c := { newCmd key i s.cur.q.addr ops with
        since := s.tm.pre
        await := if o.now then none else some (o.sw.toNat, o.thr.toNat)
        raise := if o.nor then none else some o.sr.toNat
        scope := o.scope.toNat
        rel := if o.rel then some o.rmask else none
        chan := if o.chv then some o.ch.toNat else none
        allow := if o.chv then alw (ops.map (·.toNat)) else 0 }
      let u := pushes.foldl Tile.reserve u
      ok ((s.setTile n { u with en := { u.en with ceq := u.en.ceq ++ [c] } }).modTile n (fun t =>
        let t := t.setIq .ce (t.iq .ce).tail
        { t with fe := { t.fe.issuedAt s.stamp (t.fe.seqr.handed == 0) with
          seqr := { t.fe.seqr with ahead := upd 0 t.fe.seqr.ahead (colCode .ce) (· - 1), handed := t.fe.seqr.handed - 1 } } }))

/-- The source and the destination space of a CE command of a tile (R334). -/
def ceSrc (s : State) (n : Nat) (o : CeOp) : Space := if ssp o = 0 then .vm (dieOf n) else .spad (s.place n)
def ceDst (s : State) (n : Nat) (o : CeOp) : Space :=
  match dsp o with
  | 0 => .vm (dieOf n)
  | 1 => .spad (s.place n)
  | _ => .spad (chPlace ((s.tile n).chan o.ch.toNat))

/-- The limits of an address range in a space (R335). -/
def rangeIn (space a n : Nat) : Option (Nat × Nat) := if space = 0 || spadOk a n then none else some (tADDR, 0)

/-- A limit that is ILLINSN when broken (R335). -/
def limit (b : Bool) : Option (Nat × Nat) := if b then none else some (tILLINSN, 0)

/-- The channel check of a CE command on its destination side (R107, R334). -/
def ceChan (s : State) (o : CeOp) (ranges : List (Nat × Nat)) (bytes : Nat) : Option (Nat × Nat) :=
  if !o.chv then none
  else
    let kinds := if dsp o = 2 then [1] else if dsp o = 0 then [3] else []
    (s.chanCheck s.cur.tile o.ch.toNat ⟨kinds, permWrite, ranges, bytes⟩).map (fun k => (tCHANNEL, k))

/-- The first check that fails. -/
def firstFail (l : List (Option (Nat × Nat))) : Option (Nat × Nat) := l.findSome? id

/-- Operand k of a list. -/
def op' (l : List Nat) (k : Nat) : Nat := l.getD k 0
/-- The bits 31:0 and 63:32 of an operand. -/
def lo32 (v : Nat) : Nat := v % 2 ^ 32
def hi32 (v : Nat) : Nat := v / 2 ^ 32

/-- `COPY` (R336). -/
def execCopy (o : CeOp) (s : State) : Out :=
  ceWord s (.copy o) o [0, 1, 2] [] (fun s l => firstFail
    [limit (op' l 2 < 2 ^ 32 && op' l 2 % 4 == 0 && op' l 0 % 4 == 0 && op' l 1 % 4 == 0),
     rangeIn (ssp o) (op' l 0) (op' l 2), rangeIn (dsp o) (op' l 1) (op' l 2),
     ceChan s o [(op' l 1, op' l 2)] (op' l 2)]) (fun l => op' l 2)

/-- The addresses of the first and last rows of a `COPYA` side. -/
def rowEnds (a : Nat) (stride : Int) (h : Nat) : List Nat := if h = 0 then [a] else [a, moved a (stride * ((h : Int) - 1))]

/-- `COPYA` (R336). -/
def execCopya (o : CeOp) (s : State) : Out :=
  ceWord s (.copya o) o [0, 1, 2, 3] [] (fun s l =>
    let w := lo32 (op' l 2)
    let h := hi32 (op' l 2)
    let ss := int32 (lo32 (op' l 3))
    let ds := int32 (hi32 (op' l 3))
    firstFail ([limit (w % 4 == 0 && op' l 0 % 4 == 0 && op' l 1 % 4 == 0 && ss % 4 == 0 && ds % 4 == 0)] ++
      (rowEnds (op' l 0) ss h).map (fun a => rangeIn (ssp o) a w) ++ (rowEnds (op' l 1) ds h).map (fun a => rangeIn (dsp o) a w) ++
      [ceChan s o (if h = 0 then [] else (rowEnds (op' l 1) ds h).map (fun a => (a, w))) (w * h)])) (fun l => lo32 (op' l 2) * hi32 (op' l 2))

/-- `FILL` (R336). -/
def execFill (o : CeOp) (s : State) : Out :=
  ceWord s (.fill o) o [0, 1, 2] [] (fun s l => firstFail
    [limit (op' l 1 < 2 ^ 32 && op' l 1 % 4 == 0 && op' l 0 % 4 == 0), rangeIn (dsp o) (op' l 0) (op' l 1),
     ceChan s o [(op' l 0, op' l 1)] (op' l 1)]) (fun l => op' l 1)

/-- The element size of `ACCW`. -/
def accwSize (q2 : Nat) : Nat := if q2 / 2 ^ 32 % 2 = 1 then 8 else 4

/-- `ACCW` (R337). -/
def execAccw (o : CeOp) (s : State) : Out :=
  ceWord s (.accw o) o [0, 1, 2] [] (fun s l =>
    let q := op' l 2
    let n := lo32 q
    let w8 := q / 2 ^ 32 % 2 == 1
    let fp := q / 2 ^ 33 % 2 == 1
    firstFail [limit (q < 2 ^ 34 && n % accwSize q == 0 && op' l 0 % accwSize q == 0 && op' l 1 % accwSize q == 0 &&
        (!fp || ((opx o == 2 || opx o == 3) && !w8)) && (opx o != 1 || !w8)),
      rangeIn (ssp o) (op' l 0) n, rangeIn (dsp o) (op' l 1) n, ceChan s o [(op' l 1, n)] n]) (fun l => lo32 (op' l 2))

/-- The checks of one 8-byte element. -/
def elemChecks (o : CeOp) (s : State) (l : List Nat) : Option (Nat × Nat) :=
  firstFail [limit (op' l 0 % 8 == 0), rangeIn (dsp o) (op' l 0) 8, ceChan s o [(op' l 0, 8)] 8]

/-- `XADD` (R338). -/
def execXadd (o : CeOp) (s : State) : Out := ceWord s (.xadd o) o [0, 1] [opx o % 4] (elemChecks o) (fun _ => 8)
/-- `CAS` (R338). -/
def execCas (o : CeOp) (s : State) : Out := ceWord s (.cas o) o [0, 1, 2] [opx o % 4] (elemChecks o) (fun _ => 8)

/-- `MCAST` (R339). -/
def execMcast (o : CeOp) (s : State) : Out :=
  ceWord s (.mcast o) o [0, 1, 2] [] (fun s l =>
    let n := lo32 (op' l 2)
    firstFail [limit (op' l 2 < 2 ^ 38 && n % 4 == 0 && n ≤ 0x200000 && op' l 0 % 4 == 0 && op' l 1 % 4 == 0),
      rangeIn (ssp o) (op' l 0) n, rangeIn 1 (op' l 1) n,
      (s.chanCheck s.cur.tile o.ch.toNat ⟨[2], permWrite, [], n⟩ (some ⟨false, false⟩)).map (fun k => (tCHANNEL, k))]) (fun l => lo32 (op' l 2))

/-- `MSEND` (R340). -/
def execMsend (o : CeOp) (s : State) : Out :=
  ceWord s (.msend o) o [0, 1] [] (fun s l =>
    let n := lo32 (op' l 1)
    firstFail [limit (op' l 1 < 2 ^ 48 && n % 4 == 0 && n ≤ 2 ^ 20 && op' l 0 % 4 == 0), rangeIn (ssp o) (op' l 0) n,
      (s.chanCheck s.cur.tile o.ch.toNat ⟨[1], permSend, [], n⟩).map (fun k => (tCHANNEL, k))]) (fun l => lo32 (op' l 1))

/-- `MRECV` (R341). -/
def execMrecv (o : CeOp) (s : State) : Out :=
  ceWord s (.mrecv o) o [0, 1, 2] [] (fun s l =>
    let n := lo32 (op' l 1)
    firstFail [limit (op' l 1 < 2 ^ 49 && n % 4 == 0 && op' l 0 % 4 == 0 && op' l 2 % 16 == 0), rangeIn (dsp o) (op' l 0) n,
      (s.chanCheck s.cur.tile o.ch.toNat ⟨[1], permRecv, [], 0⟩).map (fun k => (tCHANNEL, k))]) (fun _ => 0)

/-- `CMOA` (R343). -/
def execCmoa (o : CeOp) (s : State) : Out := ceWord s (.cmoa o) o [0, 1] [] (fun _ l => limit (op' l 1 < 2 ^ 32 && op' l 1 % 4 == 0)) (fun _ => 0)
/-- `PFB` (R343). -/
def execPfb (o : CeOp) (s : State) : Out := ceWord s (.pfb o) o [0, 1] [] (fun _ l => limit (op' l 1 < 2 ^ 32 && op' l 1 % 4 == 0)) (fun _ => 0)
/-- The check that needs no permission: it looks at V alone. -/
def permNone : Nat := 63
/-- `CEFLUSH` (R343): a channel that it names is checked as that of a destination in virtual memory, with no permission of R106 to look at
(R107, R334). -/
def execCeflush (o : CeOp) (s : State) : Out :=
  ceWord s (.ceflush o) o [] [] (fun s _ => if o.chv then (s.chanCheck s.cur.tile o.ch.toNat ⟨[3], permNone, [], 0⟩).map (fun k => (tCHANNEL, k)) else none)
    (fun _ => 0)

/-! ### Performing -/

/-- What one move of an engine does with a command: the state after it, and how the command goes on. -/
inductive Prog where
  | wait
  | fault (va acc : Nat) (f : Flt)
  | more (c : Cmd)
  deriving DecidableEq, Repr

/-- A command's packet cannot leave for a place: NODIE, with the failed bridge named (R13, R50). XFLT.VA reads 0, for the place has no virtual
address. -/
def State.unlinked (s : State) (n : Nat) (p : Place) : State × Prog :=
  (if p.pkg = s.pkg then s.nameBridge n (dieOf p.tile) else match s.portFor p with | some q => s.nameBridge n (portDie q) | none => s,
   .fault 0 1 ⟨2, 0⟩)

/-- One piece has performed; with no piece left the command has performed all its accesses. -/
def Cmd.step (c : Cmd) (total : Nat) : Prog := .more { c with lines := c.lines + 1, ahead := none, performed := decide (total ≤ c.lines + 1) && c.left == 0 }
/-- A command with nothing left to access. -/
def Cmd.finish (c : Cmd) : Prog := .more { c with performed := true }

/-- The number of 128-byte pieces of a length (R336). -/
def pieces (n : Nat) : Nat := (n + 127) / 128

/-- Read a piece in full, unless it has been read, and write it (R336). -/
def copyPiece (s : State) (part : Nat) (src : Space) (a : Nat) (dst : Space) (b n : Nat) (c : Cmd) (total : Nat) : State × Prog :=
  match (match c.ahead with | some bs => (s, 0, Ans.ok bs) | none => s.spRead part src a n) with
  | (s, va, .fault f) => (s, .fault va 0 f)
  | (s, _, .wait) => (s, .wait)
  | (s, _, .ok bs) => match s.spWrite part dst b bs with
    | (s, va, .fault f) => (s, .fault va 1 f)
    | (s, _, .wait) => (s, .wait)
    | (s, _, .ok _) => (s, c.step total)

/-- Piece `c.lines` of a plain copy of `n` bytes. -/
def copyLine (s : State) (part : Nat) (src : Space) (a : Nat) (dst : Space) (b n : Nat) (c : Cmd) : State × Prog :=
  let i := 128 * c.lines
  if n ≤ i then (s, c.finish) else copyPiece s part src (a + i) dst (b + i) (Nat.min 128 (n - i)) c (pieces n)

/-- The next piece of a `COPYA`: its source and destination addresses and its length. -/
def rowPiece (c : Cmd) : Nat × Nat × Nat :=
  let w := lo32 (c.opnd 2)
  let r := c.lines / pieces w
  let i := 128 * (c.lines % pieces w)
  (moved (c.opnd 0) (int32 (lo32 (c.opnd 3)) * r) + i, moved (c.opnd 1) (int32 (hi32 (c.opnd 3)) * r) + i, Nat.min 128 (w - i))
/-- `COPYA`: pieces row after row (R336). -/
def copyRows (s : State) (part : Nat) (src dst : Space) (c : Cmd) : State × Prog :=
  let total := pieces (lo32 (c.opnd 2)) * hi32 (c.opnd 2)
  let p := rowPiece c
  if c.lines < total then copyPiece s part src p.1 dst p.2.1 p.2.2 c total else (s, c.finish)

/-- The bytes of a fill piece: byte i of the range is byte i mod 8 of x (R336). -/
def fillBytes (x i n : Nat) : List Byte := (List.range n).map (fun k => BitVec.ofNat 8 (x / 256 ^ ((i + k) % 8)))

/-- `FILL`. -/
def fillLine (s : State) (part : Nat) (dst : Space) (c : Cmd) : State × Prog :=
  let i := 128 * c.lines
  let n := c.opnd 1
  if n ≤ i then (s, c.finish)
  else match s.spWrite part dst (c.opnd 0 + i) (fillBytes (c.opnd 2) i (Nat.min 128 (n - i))) with
    | (s, va, .fault f) => (s, .fault va 1 f)
    | (s, _, .wait) => (s, .wait)
    | (s, _, .ok _) => (s, c.step (pieces n))

/-- f of R337 on two elements of `w` bytes. -/
def accF (opx w : Nat) (fp : Bool) (old x : Nat) : Nat :=
  let lt := fun (a b : Nat) => decide (intOf true (8 * w) a < intOf true (8 * w) b)
  match opx with
  | 0 => (old + x) % 2 ^ (8 * w)
  | 1 => rne32 (addV false (dec f32 old) (dec f32 x))
  | 2 => if fp then minF f32 old x else if lt x old then x else old
  | 3 => if fp then maxF f32 old x else if lt old x then x else old
  | 4 => old &&& x
  | 5 => old ||| x
  | 6 => old ^^^ x
  | _ => x

/-- One read-modify-write of `n` bytes in a space (R187): permission for both is checked first. -/
def State.spRmw (s : State) (part : Nat) (sp : Space) (a n : Nat) (f : List Byte → Option (List Byte)) : State × Nat × Ans (List Byte) :=
  match (match sp with | .vm d => s.vmCheck d part .rmw (linePieces a n) | .spad _ => (s, 0, Ans.ok ())) with
  | (s, va, .fault x) => (s, va, .fault x)
  | (s, va, .wait) => (s, va, .wait)
  | (s, _, .ok _) => match s.spRead part sp a n with
    | (s, _, .ok old) => match f old with
      | none => (s, 0, .ok old)
      | some new => match s.spWrite part sp a new with
        | (s, va, .fault x) => (s, va, .fault x)
        | (s, va, .wait) => (s, va, .wait)
        | (s, _, .ok _) => (s, 0, .ok old)
    | r => r

/-- `ACCW`: one element per move (R337). -/
def accwElem (s : State) (part : Nat) (src dst : Space) (opx : Nat) (c : Cmd) : State × Prog :=
  let q := c.opnd 2
  let w := accwSize q
  let fp := q / 2 ^ 33 % 2 == 1
  let i := w * c.lines
  let n := lo32 q
  if n ≤ i then (s, c.finish)
  else match s.spRead part src (c.opnd 0 + i) w with
    | (s, va, .fault f) => (s, .fault va 0 f)
    | (s, _, .wait) => (s, .wait)
    | (s, _, .ok x) =>
      match (match opx, src with | 7, .vm d => s.vmCheck d part .wr (linePieces (c.opnd 0 + i) w) | _, _ => (s, 0, Ans.ok ())) with
      | (s, va, .fault f) => (s, .fault va 1 f)
      | (s, _, .wait) => (s, .wait)
      | (s, _, .ok _) => match s.spRmw part dst (c.opnd 1 + i) w (fun old => some (leBytes w (accF opx w fp (leNat old) (leNat x)))) with
        | (s, va, .fault f) => (s, .fault va 2 f)
        | (s, _, .wait) => (s, .wait)
        | (s, _, .ok old) =>
          let s := if opx = 7 then (s.spWrite part src (c.opnd 0 + i) old).1 else s
          (s, c.step (n / w))

/-- `XADD` and `CAS`: the old value enters its queue before the raise (R187, R338). -/
def atomicElem (s : State) (n : Nat) (dst : Space) (q : Nat) (f : Nat → Option Nat) (c : Cmd) : State × Prog :=
  match s.spRmw (s.tile n).id.part dst (c.opnd 0) 8 (fun old => (f (leNat old)).map (leBytes 8)) with
  | (s, va, .fault x) => (s, .fault va 2 x)
  | (s, _, .wait) => (s, .wait)
  | (s, _, .ok old) => (s.modTile n (fun t => t.push q (bytesRow old)), c.finish)

/-- `MCAST`: one line of the destination range to every member (R339); a member that no packet can reach is a fault before the line (R13). -/
def mcastLine (s : State) (n : Nat) (src : Space) (ch : Nat) (c : Cmd) : State × Prog :=
  let t := s.tile n
  let len := lo32 (c.opnd 2)
  let d := c.opnd 1
  let ps := linePieces d len
  match ps[c.lines]? with
  | none => (s, .more { c with performed := c.left == 0 })
  | some (a, k) =>
    let members := (match s.group t.id.part (t.chan ch) with | some g => g.members | none => []).map memberPlace
    match members.find? (fun p => !s.linked (dieOf n) p) with
    | some p => s.unlinked n p
    | none => match s.spRead t.id.part src (c.opnd 0 + (a - d)) k with
    | (s, va, .fault f) => (s, .fault va 0 f)
    | (s, _, .wait) => (s, .wait)
    | (s, _, .ok bs) =>
      let out := members.map (fun p => (⟨s.place n, p, a, bs, some (wfld (c.ops.getD 2 0) 32 6), c.key, true, s.boundFor p, s.stamp, c.lines, s.hop p, t.id.part⟩ : Delivery))
      let c := { c with lines := c.lines + 1, left := c.left + out.length }
      ({ s with blocks := s.blocks ++ out }.sent 1, .more { c with performed := c.left == 0 && ps.length ≤ c.lines })

/-- `MSEND`: the payload is read, then the message leaves; it ends when a receive has taken it (R340). -/
def msendStep (s : State) (n : Nat) (src : Space) (ch : Nat) (c : Cmd) : State × Prog :=
  let t := s.tile n
  let len := lo32 (c.opnd 1)
  let i := c.buf.length
  if c.peer.isSome then (s, .more { c with performed := c.left == 0 })
  else if i < len then match s.spRead t.id.part src (c.opnd 0 + i) (Nat.min 128 (len - i)) with
    | (s, va, .fault f) => (s, .fault va 0 f)
    | (s, _, .wait) => (s, .wait)
    | (s, _, .ok bs) => (s, .more { c with buf := c.buf ++ bs })
  else
    let dst := chPlace (t.chan ch)
    let m : Msg := ⟨s.place n, dst, BitVec.ofNat 16 (c.opnd 1 / 2 ^ 32), c.buf, c.key, s.boundFor dst, s.hop dst, false, t.id.part⟩
    ({ s with msgs := s.msgs ++ [m] }.sent 1, .more { c with peer := some (n, c.key), left := 1 })

/-- The status record of a receive (R342). -/
def recvStatus (src : Place) (tag len : Nat) (trunc cancelled : Bool) : List Byte :=
  leBytes 8 (len + tag * 2 ^ 32 + b2n trunc * 2 ^ 48 + b2n cancelled * 2 ^ 49) ++
    leBytes 8 ((src.pkg * 4 + src.tile / 128) * 128 + src.tile % 128)

/-- The payload of an overflow entry stays at its sender until a receive pulls it (R341, R342): an `MSEND` of this package is read now; one whose task
is switched out, and one of another package, gives what it sent (log 73). -/
def State.pull (s : State) (m : Msg) : Msg :=
  if m.src.pkg != s.pkg then m
  else match (s.tile m.src.tile).en.ceq.find? (·.key == m.key) with
    | some c => (match c.instr with
      | .msend o => (match s.spRead m.part (ceSrc s m.src.tile o) (c.opnd 0) (lo32 (c.opnd 1)) with
        | (_, _, .ok b) => { m with data := b }
        | _ => m)
      | _ => m)
    | none => m

/-- The space of a posted receive. -/
def postSpace (s : State) (n : Nat) (p : Posted) : Space := if p.space = 0 then .vm (dieOf n) else .spad (s.place n)

/-- The delivery of a message into a matched receive (R342): the first min(L, maximum) bytes, the status record, then the
raise with the event latch; the sender's command ends. -/
def State.deliver (s : State) (n : Nat) (p : Posted) (m : Msg) : State × Nat × Ans Unit :=
  let part := (s.tile n).id.part
  let k := Nat.min m.data.length p.maxLen
  match s.spWrite part (postSpace s n p) p.dst.toNat (m.data.take k) with
  | (s, va, .fault f) => (s, va, .fault f)
  | (s, va, .wait) => (s, va, .wait)
  | (s, _, .ok _) =>
    match (if p.status = 0 then (s, 0, Ans.ok ()) else s.spWrite part (.vm (dieOf n)) p.status.toNat (recvStatus m.src m.tag.toNat k (p.maxLen < m.data.length) false)) with
    | (s, va, .fault f) => (s, va, .fault f)
    | (s, va, .wait) => (s, va, .wait)
    | (s, va, .ok _) =>
      let s := match p.sem with | some sm => s.modTile n (fun t => t.raise sm 1 true) | none => s
      let s := if m.src.pkg = s.pkg then s.modHome m.src.tile m.key (fun t => t.modAny m.key Cmd.ack) else s
      (s, va, .ok ())

/-- The global number of a place. -/
def placeNum (p : Place) : Nat := p.pkg * 512 + p.tile

/-- Does a receive accept a message (R341)? -/
def Posted.accepts (p : Posted) (m : Msg) : Bool :=
  p.src == placeNum m.src && (match p.tag with | some t => t == m.tag | none => true)

/-- The receive that an `MRECV` posts. -/
def Tile.receiveOf (t : Tile) (o : CeOp) (c : Cmd) : Posted :=
  let q1 := c.opnd 1
  ⟨c.key, placeNum (chPlace (t.chan o.ch.toNat)), if q1 / 2 ^ 48 % 2 = 1 then none else some (BitVec.ofNat 16 (q1 / 2 ^ 32)),
    dsp o, c.ops.getD 0 0, lo32 q1, c.ops.getD 2 0, some o.sr.toNat⟩
/-- `MRECV`: the overflow queue first, in arrival order; otherwise the receive is posted (R341). -/
def mrecvStep (s : State) (n : Nat) (o : CeOp) (c : Cmd) : State × Prog :=
  let t := s.tile n
  let p := t.receiveOf o c
  match t.en.overflow.find? p.accepts with
  | some m => match s.deliver n p (s.pull m) with
    | (s, va, .fault f) => (s, .fault va 1 f)
    | (s, _, .wait) => (s, .wait)
    | (s, _, .ok _) =>
      (s.modTile n (fun t => { t with en := { t.en with overflow := t.en.overflow.filter (· != m) } }), .more { c with performed := true, raise := none })
  | none =>
    if 32 ≤ t.en.posted.length then (s, .wait)
    else (s.modTile n (fun t => { t with en := { t.en with posted := t.en.posted ++ [p] } }), .more { c with performed := true, raise := none })

/-- `CMOA` (R343): the maintenance of the range, at once. -/
def cmoaStep (s : State) (n : Nat) (o : CeOp) (c : Cmd) : State × Prog :=
  if c.opnd 1 = 0 then (s, c.finish)
  else if !rangeOk (c.opnd 0) (c.opnd 1) then (s, .fault (c.opnd 0) 0 ⟨1, 0⟩)
  else if s.maintainWaits n (c.opnd 0) (c.opnd 1) (o.fn.toNat % 4) then (s, .wait)
  else (s.maintain n (c.opnd 0) (c.opnd 1) (o.fn.toNat % 4) (dsp o), c.finish)

/-- `PFB`: each owner slice fills the Basin line, or drops the request (R343). -/
def pfbLine (s : State) (d part : Nat) (c : Cmd) : State × Prog :=
  let ps := linePieces (c.opnd 0) (c.opnd 1)
  match ps[c.lines]? with
  | none => (s, c.finish)
  | some (a, k) =>
    if s.cutOff d a then (s, c.step ps.length)
    else match s.coRead part a k .rd with
      | (_, .wait) => (s, .wait)
      | (_, .fault _) => (s, c.step ps.length)
      | (t, .ok _) => (t, c.step ps.length)

/-- `CEFLUSH` with CANCEL ends every posted receive (R343). DESIGN CHOICE (log 116): the spec gives the status of a cancelled receive its length 0 and
CANCELLED alone; its tag and its sender are free. -/
def ceflushStep (s : State) (n : Nat) (o : CeOp) (c : Cmd) : State × Prog :=
  if opx o % 2 = 0 then (s, c.finish)
  else match (s.tile n).en.posted with
    | [] => (s, c.finish)
    | p :: r =>
      let k := Config.bits s.free
      let src : Place := ⟨wfld k 9 12, wfld k 0 9⟩
      let tag := wfld k 32 16
      let s := { s with free := s.free + 1 }
      match (if p.status = 0 then (s, 0, Ans.ok ()) else s.spWrite (s.tile n).id.part (.vm (dieOf n)) p.status.toNat (recvStatus src tag 0 false true)) with
      | (s, va, .fault f) => (s, .fault va 1 f)
      | (s, _, .wait) => (s, .wait)
      | (s, _, .ok _) =>
        let s := s.modTile n (fun t => { t with en := { t.en with posted := r } })
        (match p.sem with | some sm => s.modTile n (fun t => t.raise sm 1 true) | none => s, .more c)

/-- One move of CE on a command that has started. -/
def cePerform (s : State) (n : Nat) (c : Cmd) : State × Prog :=
  let part := (s.tile n).id.part
  match c.instr with
  | .copy o => copyLine s part (ceSrc s n o) (c.opnd 0) (ceDst s n o) (c.opnd 1) (c.opnd 2) c
  | .copya o => copyRows s part (ceSrc s n o) (ceDst s n o) c
  | .fill o => fillLine s part (ceDst s n o) c
  | .accw o => accwElem s part (ceSrc s n o) (ceDst s n o) (opx o) c
  | .xadd o => atomicElem s n (ceDst s n o) (opx o % 4) (fun old => some ((old + c.opnd 1) % 2 ^ 64)) c
  | .cas o => atomicElem s n (ceDst s n o) (opx o % 4) (fun old => if old = c.opnd 1 then some (c.opnd 2) else none) c
  | .mcast o => mcastLine s n (ceSrc s n o) o.ch.toNat c
  | .msend o => msendStep s n (ceSrc s n o) o.ch.toNat c
  | .mrecv o => mrecvStep s n o c
  | .cmoa o => cmoaStep s n o c
  | .pfb _ => pfbLine s (dieOf n) part c
  | .ceflush o => ceflushStep s n o c
  | _ => (s, c.finish)

/-! ### State spill (R212, R388) -/

/-- A line of a fill: quarter q of a Pound row, in the row and in what the engines see of it. -/
def Tile.engPoundLine (t : Tile) (ps row q : Nat) (bs : List Byte) : Tile :=
  let set := fun (m : SMap Row) => put m (ps * 16 + row) (keepQuarters (~~~(BitVec.ofNat 4 (2 ^ q))) (get 0 m (ps * 16 + row)) (BitVec.ofNat 4096 (leNat bs * 2 ^ (1024 * q))))
  { t with st := { t.st with pound := set t.st.pound }, old := t.old.map (fun o => { o with pound := set o.pound }) }

/-- One 128-byte line of a spill or fill, in two cycles: four lines a Pound row, in ascending row order (R212). A spill takes a row as it stood before the
first of the row's cycles (R186, R388). -/
def spillLine (s : State) (n ps : Nat) (store : Bool) (c : Cmd) : State × Prog :=
  let t := s.tile n
  let row := c.lines / 4
  let q := c.lines % 4
  let a := c.opnd 0 + 128 * c.lines
  let c := if store && q = 0 then { c with buf := rowBytes (get 0 t.before_.pound (ps * 16 + row)) } else c
  let moved := { c with next := s.tm.pre + 2 }
  if s.tm.pre < c.next then (s, .wait)
  else if 64 ≤ c.lines then (s, c.finish)
  else if store then match s.spWrite t.id.part (.vm (dieOf n)) a ((c.buf.drop (128 * q)).take 128) with
    | (s, va, .fault f) => (s, .fault va 1 f)
    | (s, _, .wait) => (s, .wait)
    | (s, _, .ok _) => (s, moved.step 65)
  else match s.spRead t.id.part (.vm (dieOf n)) a 128 with
    | (s, va, .fault f) => (s, .fault va 0 f)
    | (s, _, .wait) => (s, .wait)
    | (s, _, .ok bs) =>
      (s.modTile n (fun t => t.engPoundLine ps row q bs), moved.step 65)

/-- One move of the state-spill engine. -/
def spillPerform (s : State) (n : Nat) (c : Cmd) : State × Prog :=
  match c.instr with
  | .pspill _ ps _ _ _ => spillLine s n ps.toNat true c
  | .pfill _ ps _ _ _ => spillLine s n ps.toNat false c
  | _ => (s, c.finish)

end Sys2Proof.Machine
end

