-- ==== Sys2Proof/Machine/Lk.lean ====
section
/-! DEFINITION. The commands of the link engine (R389–R404): the words with their operands and checks, the start of a command, its
pieces, and what collectives register (R59–R64). -/
namespace Sys2Proof.Machine

open Sys2Proof

/-! ### The words -/

/-- The link engine holds at most sixteen commands that have not ended (R389). -/
def lkDepth : Nat := 16

/-- The command an LK word hands to its engine. -/
def lkCmd (i : Instr) (o : LkOp) (pc key : Nat) (ops : List Word) (alw : Nat) : Cmd :=
  { newCmd key i pc ops with
    await := if o.now then none else some (o.sw.toNat, o.thr.toNat)
    raise := if o.nor then none else some o.sr.toNat
    scope := o.scope.toNat
    rel := if o.rel then some o.rmask else none
    chan := if o.chv then some o.ch.toNat else none
    allow := if o.chv then alw else 0 }

/-- An LK word's attempt to issue (R389): operands, checks, room in the engine; the command passes on at issue + 1. `pre` may
add to the command what the word reads at issue. -/
def lkWord (s : State) (i : Instr) (o : LkOp) (ks pushes : List Nat) (chk : State → List Nat → Option (Nat × Nat)) (alw : List Nat → Nat) : Out :=
  let k := syncNeeds .lk o.tok ks pushes
  syncIssue s (wellFormed i) o.tok.dly none k (fun s =>
    let n := s.cur.tile
    let t := s.tile n
    let ops := (t.popOps ks).2
    if lkDepth ≤ t.en.lkq.length then ok s
    else match chk s (ops.map (·.toNat)) with
      | some (code, sub) => ok (s.trapCur code sub)
      | none =>
        ok (s.fire k 1 (fun t =>
          let (t, ops) := t.popOps ks
          let (t, key) := t.newKey
          let c := { lkCmd i o s.cur.q.addr key ops (alw (ops.map (·.toNat))) with since := s.tm.pre }
          ({ t with en := { t.en with lkq := t.en.lkq ++ [c] } }).pushToks k.outs 1)))

/-- The local space of a command (R391). -/
def lspBit (o : LkOp) (b : Nat) : Nat := b2n (o.fn.getLsbD b)
/-- The channel check of an LK command. -/
def lkChan (s : State) (o : LkOp) (u : ChanUse) : Option (Nat × Nat) := (s.chanCheck s.cur.tile o.ch.toNat u).map (fun k => (tCHANNEL, k))
/-- The channel check of a collective command on a group, of which it must be a member and which has no engine members (R392). -/
def lkGroup (s : State) (o : LkOp) (perm bytes : Nat) : Option (Nat × Nat) :=
  (s.chanCheck s.cur.tile o.ch.toNat ⟨[2], perm, [], bytes⟩ (some ⟨true, false⟩)).map (fun k => (tCHANNEL, k))

/-- `SEND` (R401). -/
def execSend (o : LkOp) (s : State) : Out :=
  lkWord s (.send o) o [0, 1] [] (fun s l => firstFail
    [limit (op' l 1 ≤ 2 ^ 20 && op' l 1 % 4 == 0 && op' l 0 % 4 == 0), rangeIn (lspBit o 0) (op' l 0) (op' l 1),
     lkChan s o ⟨[1], permSend, [], op' l 1⟩]) (fun l => op' l 1)
/-- `RECV` (R401). -/
def execRecv (o : LkOp) (s : State) : Out :=
  lkWord s (.recv o) o [0, 1, 2] [] (fun s l => firstFail
    [limit (op' l 1 < 2 ^ 32 && op' l 1 % 4 == 0 && op' l 0 % 4 == 0 && op' l 2 % 16 == 0), rangeIn (lspBit o 0) (op' l 0) (op' l 1),
     lkChan s o ⟨[1], permRecv, [], 0⟩]) (fun _ => 0)

/-- The DSEM and DRAISE fields of `PUT`. -/
def dsemOf (q2 : Nat) : Nat := q2 / 2 ^ 32 % 64
def draiseOf (q2 : Nat) : Bool := q2 / 2 ^ 38 % 2 == 1

/-- `PUT` (R402). -/
def execPut (o : LkOp) (s : State) : Out :=
  lkWord s (.put o) o [0, 1, 2] [] (fun s l =>
    let n := lo32 (op' l 2)
    let kind := chKind ((s.tile s.cur.tile).chan o.ch.toNat)
    firstFail [limit (op' l 2 < 2 ^ 39 && n % 4 == 0 && op' l 0 % 4 == 0 && op' l 1 % 4 == 0 &&
        !(draiseOf (op' l 2) && kind == 3) && (draiseOf (op' l 2) || dsemOf (op' l 2) == 0)),
      rangeIn (lspBit o 0) (op' l 0) n, (if kind = 1 then rangeIn 1 (op' l 1) n else none),
      lkChan s o ⟨[1, 3], permWrite, [(op' l 1, n)], n⟩]) (fun l => lo32 (op' l 2))
/-- `GET` (R402). DESIGN CHOICE (log 91): of the bytes that R107 counts against ALLOW, a send allowance, `GET`, `RECV`, `MRECV`, `RADD` and
`GRPDEF` have none, since they send no data over their channel. -/
def execGet (o : LkOp) (s : State) : Out :=
  lkWord s (.get o) o [0, 1, 2] [] (fun s l =>
    let n := op' l 2
    let kind := chKind ((s.tile s.cur.tile).chan o.ch.toNat)
    firstFail [limit (n < 2 ^ 32 && n % 4 == 0 && op' l 0 % 4 == 0 && op' l 1 % 4 == 0),
      rangeIn (lspBit o 0) (op' l 1) n, (if kind = 1 then rangeIn 1 (op' l 0) n else none),
      lkChan s o ⟨[1, 3], permRead, [(op' l 0, n)], 0⟩]) (fun _ => 0)

/-- The return queue of `APPEND`. -/
def appendQ (o : LkOp) : List Nat := if o.fn.getLsbD 2 then [o.fn.toNat % 4] else []
/-- `APPEND` (R403). -/
def execAppend (o : LkOp) (s : State) : Out :=
  lkWord s (.append o) o [0, 1, 2, 3] (appendQ o) (fun s l => firstFail
    [limit (op' l 3 ≤ 24 && op' l 0 % 4 == 0 && op' l 1 % 8 == 0 && op' l 2 % 512 == 0), rangeIn (lspBit o 3) (op' l 0) 512,
     lkChan s o ⟨[3], permSend, [(op' l 1, 8), (op' l 2, 512 * 2 ^ op' l 3)], 512⟩]) (fun _ => 512)

/-- The element size of a reduction (R397). -/
def redSize (op : Nat) : Nat := if op = 1 || op = 2 then 2 else if op = 4 || op = 9 || op = 10 then 8 else 4

/-- `RADD` (R397). -/
def execRadd (o : LkOp) (s : State) : Out :=
  lkWord s (.radd o) o [0, 1, 2, 3] [] (fun s l =>
    let n := lo32 (op' l 2)
    firstFail [limit (op' l 2 < 2 ^ 34 && n % 4 == 0 && n % redSize o.fn.toNat == 0 && op' l 0 % 4 == 0 && op' l 1 % 4 == 0 && op' l 3 % 8 == 0),
      rangeIn 1 (op' l 0) n, rangeIn 1 (op' l 1) n, lkGroup s o permRecv 0]) (fun _ => 0)
/-- `PRED` (R398). -/
def execPred (o : LkOp) (s : State) : Out :=
  lkWord s (.pred o) o [0, 1, 2, 3] [] (fun s l =>
    let n := 8 * op' l 2
    firstFail [limit (op' l 2 ≤ 65536 && op' l 0 % 4 == 0 && op' l 1 % 4 == 0 && op' l 3 % 8 == 0),
      rangeIn (lspBit o 0) (op' l 0) n, rangeIn (lspBit o 0) (op' l 1) n, lkGroup s o permWrite n]) (fun l => 8 * op' l 2)
/-- `LBAR` (R399). -/
def execLbar (o : LkOp) (s : State) : Out :=
  lkWord s (.lbar o) o [0] [] (fun s l => firstFail [limit (op' l 0 % 8 == 0), lkGroup s o permNone 0]) (fun _ => 0)
/-- `GRPDEF` (R393). -/
def execGrpdef (o : LkOp) (s : State) : Out :=
  lkWord s (.grpdef o) o [0, 1] [] (fun s l => firstFail [limit (op' l 0 % 16 == 0 && op' l 1 % 8 == 0), lkChan s o ⟨[2], permWrite, [], 0⟩]) (fun _ => 0)
/-- `LQUIET` (R404). -/
def execLquiet (o : LkOp) (s : State) : Out := lkWord s (.lquiet o) o [] [] (fun _ _ => none) (fun _ => 0)
/-- `LFENCE` (R404). -/
def execLfence (o : LkOp) (s : State) : Out := lkWord s (.lfence o) o [] [] (fun _ _ => none) (fun _ => 0)

/-! ### COLL (R395, R396) -/

/-- Fields of a record held as bytes. -/
def recFld (b : List Byte) (off n : Nat) : Nat := leNat ((b.drop off).take n)
def recInt (b : List Byte) (off : Nat) : Int := int32 (recFld b off 4)
def collN (b : List Byte) (d : Nat) : Nat := recFld b (0x20 + 4 * d) 4
def collTotal (b : List Byte) : Nat := collN b 0 * collN b 1 * collN b 2 * collN b 3
def collLen (b : List Byte) : Nat := recFld b 0x10 4
def collMode (b : List Byte) : Nat := recFld b 0x14 4

/-- The indices of transfer k (R396). -/
def collIdx (b : List Byte) (k : Nat) : List Nat :=
  [k % collN b 0, k / collN b 0 % collN b 1, k / (collN b 0 * collN b 1) % collN b 2, k / (collN b 0 * collN b 1 * collN b 2)]
/-- The affine form with coefficients at an offset. -/
def collAff (b : List Byte) (off : Nat) (is : List Nat) : Int := (List.range 4).foldl (fun a d => a + recInt b (off + 4 * d) * is.getD d 0) 0
/-- The rank that transfer k of a `COLL` goes to, and its source and destination addresses (R396). -/
def collPeer (b : List Byte) (gs k : Nat) : Nat := ((recInt b 0x18 + collAff b 0x50 (collIdx b k)) % gs).toNat
def collFrom (b : List Byte) (k : Nat) : Nat := moved (recFld b 0 8) (collAff b 0x30 (collIdx b k))
def collTo (b : List Byte) (k : Nat) : Nat := moved (recFld b 8 8) (collAff b 0x40 (collIdx b k))
def collSem (b : List Byte) : Option Nat := if collMode b / 2 ^ 14 % 2 = 1 then some (collMode b / 2 ^ 8 % 64) else none
def collContrib (b : List Byte) : Bool := collMode b % 4 == 1
/-- The corners of the nest. -/
def collCorners (b : List Byte) : List (List Nat) :=
  (List.range 16).map (fun m => (List.range 4).map (fun d => if m / 2 ^ d % 2 = 1 then collN b d - 1 else 0))

/-- The checks of R395 on a record. -/
def collBad (b : List Byte) : Option (Nat × Nat) :=
  let m := collMode b
  let contrib := m % 4 == 1
  let spans := fun (base off : Nat) => (collCorners b).all (fun is =>
    let a := (base : Int) + collAff b off is
    decide (0 ≤ a) && spadOk a.toNat (collLen b))
  firstFail [limit (collLen b % 4 == 0 && collLen b ≤ 2 ^ 20 && m % 4 < 2 && m / 2 ^ 15 == 0 && m / 8 % 32 == 0 &&
      !(contrib && m / 2 ^ 14 % 2 == 1) && (!contrib || recFld b 8 8 == 0) && recFld b 0x1C 4 == 0 &&
      (List.range 4).all (fun d => 1 ≤ collN b d && collN b d ≤ 2 ^ 20) && collTotal b ≤ 2 ^ 24 &&
      (!contrib || recFld b 0x40 16 == 0) && recFld b 0x60 32 == 0 && recFld b 0 8 % 4 == 0 && recFld b 8 8 % 4 == 0 &&
      (List.range 8).all (fun d => collN b (d % 4) == 1 || recFld b (0x30 + 4 * d) 4 % 4 == 0)),
    (if m / 4 % 2 = 0 || spans (recFld b 0 8) 0x30 then none else some (tADDR, 0)),
    (if contrib || spans (recFld b 8 8) 0x40 then none else some (tADDR, 0))]

/-- `COLL` (R395): the record is read and checked at issue. -/
def execColl (o : LkOp) (s : State) : Out :=
  let k := syncNeeds .lk o.tok [0, 1] []
  syncIssue s (wellFormed (.coll o)) o.tok.dly none k (fun s =>
    let n := s.cur.tile
    let t := s.tile n
    let r := (qWordOf (t.front 0)).toNat
    let st := (qWordOf (t.front 1)).toNat
    if lkDepth ≤ t.en.lkq.length then ok s
    else if r % 128 != 0 || st % 8 != 0 then ok (s.trapCur tILLINSN 0)
    else match s.coReadVia (dieOf n) t.id.part r 128 .rd with
      | (s, .wait) => ok s
      | (s, .fault f) => ok (s.trapXlat n (colCode .lk) s.cur.q.addr r 0 f false)
      | (s, .ok b) =>
        match firstFail [collBad b, lkGroup s o permWrite (collTotal b * collLen b)] with
        | some (code, sub) => ok (s.trapCur code sub)
        | none => ok (s.fire k 1 (fun t =>
          let (t, ops) := t.popOps [0, 1]
          let (t, key) := t.newKey
          let c := { lkCmd (.coll o) o s.cur.q.addr key ops (collTotal b * collLen b) with buf := b, since := s.tm.pre }
          ({ t with en := { t.en with lkq := t.en.lkq ++ [c] } }).pushToks k.outs 1)))

/-! ### Reductions (R59, R61, R394) -/

/-- Change a reduction, after making it at the engine of a port group if it does not exist. -/
def State.modRed (s : State) (kind part group : Nat) (gen : BitVec 16) (dest pg : Nat) (f : Reduction → Reduction) : State :=
  let l := if s.reds.any (·.is kind part group gen dest) then s.reds else s.reds ++ [⟨kind, part, group, gen, dest, none, [], none, [], pg⟩]
  { s with reds := l.map (fun r => if r.is kind part group gen dest then f r else r) }

/-- An engine takes a contribution: the first of each rank, and of the registered length (R394, R397). -/
def Reduction.take (r : Reduction) (now src : Nat) (data : List Byte) : Reduction :=
  let fits := match r.op with | some (_, n) => data.length == n | none => r.kind == 0 || r.parts.all (fun e => e.2.length == data.length)
  if (find r.parts src).isSome || !fits then r
  else { r with parts := put r.parts src data, first := match r.first with | none => some now | x => x }

/-- A member registers the operation at the engine of a port group, to which early arrivals at other engines of its die pass: those of another
length are discarded (R397). The reductions of a whole group have the length that came first, and a member of another length contributes nothing that
matches (R398). -/
def Reduction.register (r : Reduction) (op len rank tile key pg : Nat) : Reduction :=
  let regs := put r.regs rank (tile, key)
  if r.kind = 0 then { r with op := some (op, len), pg := pg, parts := r.parts.filter (fun e => e.2.length == len), regs := regs }
  else { r with op := some (r.op.getD (op, match r.parts.head? with | some e => e.2.length | none => len)), regs := regs }

/-- Elements of `w` bytes of a list of bytes. -/
def elems (w : Nat) (b : List Byte) : List Nat := (List.range (b.length / w)).map (fun i => leNat ((b.drop (w * i)).take w))

/-- The combine and the final step of an operation on one element (R59, R397). -/
def redCombine (op a b : Nat) : Nat :=
  let w := 8 * redSize op
  let lt := fun (x y : Nat) => decide (intOf true w x < intOf true w y)
  match op with
  | 0 => rne32 (addV false (dec f32 a) (dec f32 b))
  | 1 => rne32 (addV false (dec f32 a) (dec bf16 b))
  | 2 => rne32 (addV false (dec f32 a) (dec f16 b))
  | 3 => (a + b) % 2 ^ 32
  | 4 => (a + b) % 2 ^ 64
  | 5 => minF f32 a b
  | 6 => maxF f32 a b
  | 7 => if lt b a then b else a
  | 8 => if lt a b then b else a
  | 9 => if lt b a then b else a
  | _ => if lt a b then b else a
def redFirst (op a : Nat) : Nat :=
  match op with
  | 1 => rne32 (dec bf16 a)
  | 2 => rne32 (dec f16 a)
  | _ => a
def redFinal (op a : Nat) : Nat :=
  match op with
  | 1 => round bf16 0 false 0 (dec f32 a)
  | 2 => round f16 0 false 0 (dec f32 a)
  | _ => a

/-- The reduction in ascending rank order (R59). -/
def reduceAll (op : Nat) (cs : List (List Byte)) : List Byte :=
  let w := redSize op
  let es := cs.map (elems w)
  match es with
  | [] => []
  | e :: r =>
    let acc := r.foldl (fun a c => List.zipWith (redCombine op) a c) (e.map (redFirst op))
    acc.flatMap (fun v => leBytes w (redFinal op v))

/-- The greater of two pairs (R61): a greater value, then a lower index; NaN below −∞. -/
def pairBetter (a b : Nat × Nat) : Nat × Nat :=
  let x := dec f32 a.1
  let y := dec f32 b.1
  if x.isNan && y.isNan then (f32.nan, Nat.min a.2 b.2)
  else if x.isNan then b
  else if y.isNan then a
  else if ltV false x y then b
  else if ltV false y x then a
  else if a.2 ≤ b.2 then a else b
/-- The value-index reduction (R61). A lone contribution is copied (R62). -/
def reducePairs (cs : List (List Byte)) : List Byte :=
  let canon := fun (p : Nat × Nat) => if (dec f32 p.1).isNan then (f32.nan, p.2) else p
  let es := cs.map (fun c => (elems 8 c).map (fun v => canon (v % 2 ^ 32, v / 2 ^ 32)))
  match es with
  | [] => []
  | [_] => cs.flatten
  | e :: r => (r.foldl (fun a c => List.zipWith pairBetter a c) e).flatMap (fun p => leBytes 4 p.1 ++ leBytes 4 p.2)

/-! ### Starting a command -/

/-- The virtual-memory ranges that a command names, with the kind of access, which are checked at its start (R390). -/
def lkRanges (s : State) (n : Nat) (c : Cmd) : List (Acc × Nat × Nat) :=
  let st := fun (k : Nat) (bytes : Nat) => if c.opnd k = 0 then [] else [(Acc.wr, c.opnd k, bytes)]
  let loc := fun (l : Nat) (a : Acc) (k len : Nat) => if l = 0 && len != 0 then [(a, c.opnd k, len)] else []
  let g := fun (o : LkOp) => match s.group (s.tile n).id.part ((s.tile n).chan o.ch.toNat) with | some g => g.members.length | none => 1
  let stLen := fun (o : LkOp) => 8 + 8 * ((g o + 63) / 64)
  match c.instr with
  | .coll o => (if collMode c.buf / 4 % 2 = 0 && collLen c.buf != 0 then (List.range (collTotal c.buf)).map (fun k => (Acc.rd, collFrom c.buf k, collLen c.buf)) else []) ++ st 1 (stLen o)
  | .radd o => st 3 (stLen o)
  | .send o => loc (lspBit o 0) .rd 0 (c.opnd 1)
  | .recv o => loc (lspBit o 0) .wr 0 (c.opnd 1) ++ st 2 16
  | .put o =>
    let remote := if chKind ((s.tile n).chan o.ch.toNat) = 3 && lo32 (c.opnd 2) != 0 then [(Acc.wr, c.opnd 1, lo32 (c.opnd 2))] else []
    loc (lspBit o 0) .rd 0 (lo32 (c.opnd 2)) ++ remote
  | .get o =>
    let remote := if chKind ((s.tile n).chan o.ch.toNat) = 3 && c.opnd 2 != 0 then [(Acc.rd, c.opnd 0, c.opnd 2)] else []
    loc (lspBit o 0) .wr 1 (c.opnd 2) ++ remote
  | .append o => loc (lspBit o 3) .rd 0 512 ++ [(Acc.rmw, c.opnd 1, 8), (Acc.wr, c.opnd 2, 512 * 2 ^ c.opnd 3)]
  | .pred o => loc (lspBit o 0) .rd 0 (8 * c.opnd 2) ++ loc (lspBit o 0) .wr 1 (8 * c.opnd 2) ++ st 3 (stLen o)
  | .lbar o => st 0 (stLen o)
  | .grpdef o => (if o.fn = 0 then [(Acc.rd, c.opnd 0, 16)] else []) ++ [(Acc.wr, c.opnd 1, 8)]
  | _ => []

/-- The checks at start (R390); nothing when all pass. -/
def startChecks (s : State) (d part : Nat) (l : List (Acc × Nat × Nat)) : State × Option Prog :=
  match l with
  | [] => (s, none)
  | (a, va, n) :: r => match s.vmCheck d part a (linePieces va n) with
    | (s, x, .fault f) => (s, some (.fault x (accCode a) f))
    | (s, _, .wait) => (s, some .wait)
    | (s, _, .ok _) => startChecks s d part r

end Sys2Proof.Machine
end

