-- ==== Sys2Proof/Machine/Run.lean ====
section
/-! DEFINITION. The moves of the engines: how commands start (R141, R176, R333, R389, R390), how a link command performs
(R393–R404), how collectives end (R59–R64), and how a command ends (R182, R389). -/
namespace Sys2Proof.Machine

open Sys2Proof

/-! ### Link commands -/

/-- The group of a command's channel, with the rank of the tile. -/
def groupOf (s : State) (n : Nat) (o : LkOp) : Option (Group × Nat × Nat) :=
  let t := s.tile n
  match s.group t.id.part (t.chan o.ch.toNat) with
  | none => none
  | some g => some (g, (g.rank (s.place n)).getD 0, wfld (t.chan o.ch.toNat).1 0 16)

/-- Is a member a tile of this package that is fenced? -/
def State.memberFenced (s : State) (m : Nat) : Bool := !memberEng m && (memberPlace m).pkg == s.pkg && (s.tile (memberPlace m).tile).isFenced

/-- Why a collective that a member joins cannot come to its commit point: a member is fenced, or the member's contribution cannot leave for the
engine (R13, R63, R247). -/
def State.joinBad (s : State) (n : Nat) (g : Group) (kind : Nat) : Option Nat :=
  if g.members.any s.memberFenced then some 2
  else if kind != 0 && !s.linked (dieOf n) (memberDie (g.members.getD 0 0)) then some 3
  else none

/-- A collective joins its reduction: the generation advances and the member is registered, at the engine of a port group of its own die for
`RADD`; the source of `RADD` is its own contribution, and that of any other member travels to rank 0's engine or switch (R394, R397–R399). A
collective that has failed already is reported so (R63). A group of one, or a count of zero, is done at once; `same` says that its source is its
destination, and nothing moves then (R62, R185). -/
def joinRed (s : State) (n : Nat) (o : LkOp) (kind op pg : Nat) (data : List Byte) (same : Bool) (c : Cmd) : State × Prog :=
  match groupOf s n o with
  | none => (s, .more ({ c with started := true }.fail 5 0 []))
  | some (g, rank, num) =>
    let t := s.tile n
    let part := t.id.part
    let gen : BitVec 16 := get 0 t.en.gens num + 1
    let s := s.modTile n (fun t => { t with en := { t.en with gens := put t.en.gens num gen } })
    let gs := g.members.length
    let dest := if kind = 0 then rank else 0
    let c := { c with started := true, gen := gen }
    if gs ≤ 1 || (kind != 2 && data.isEmpty) then
      (s, .more { c with buf := if same then [] else data, status := doneRec gs gen.toNat })
    else match g.failed.find? (fun f => f.kind == kind && f.gen == gen && f.dest == dest) with
      | some f => (s, .more (c.fail f.cause gs f.bits))
      | none =>
        let s := s.modRed kind part num gen dest pg (fun r =>
          let r := r.register op data.length rank n c.key pg
          if kind = 0 then r.take s.stamp rank data else r)
        match s.joinBad n g kind with
        | some cause =>
          let bits := match s.reds.find? (·.is kind part num gen dest) with | some r => r.parts.map (·.1) | none => []
          (s.failReds cause (·.is kind part num gen dest), .more (c.fail cause gs bits))
        | none =>
          let at_ := memberDie (g.members.getD 0 0)
          let x : Contribution := ⟨kind, part, num, gen, dest, rank, data, none, s.stamp, 0, s.hop at_⟩
          (if kind = 0 then s else { s with contribs := s.contribs ++ [x] }.sent 1, .more { c with left := 1 })

/-- What a link command does at its start, after its checks. -/
def lkStart (s : State) (n : Nat) (c : Cmd) : State × Prog :=
  let t := s.tile n
  let part := t.id.part
  match c.instr with
  | .radd o => match s.spRead part (.spad (s.place n)) (c.opnd 0) (lo32 (c.opnd 2)) with
    | (s, _, .ok b) => joinRed s n o 0 o.fn.toNat (c.opnd 2 / 2 ^ 32 % 4) b (c.opnd 0 == c.opnd 1) c
    | (s, _) => (s, .wait)
  | .pred o => match s.spRead part (if lspBit o 0 = 0 then .vm (dieOf n) else .spad (s.place n)) (c.opnd 0) (8 * c.opnd 2) with
    | (s, _, .ok b) => joinRed s n o 1 0 0 b (c.opnd 0 == c.opnd 1) c
    | (s, va, .fault f) => (s, .fault va 0 f)
    | (s, _, .wait) => (s, .wait)
  | .lbar o => joinRed s n o 2 0 0 [] true c
  | .coll o =>
    let gen := match groupOf s n o with | some (_, _, num) => get 0 t.en.gens num | none => 0
    (s, .more { c with started := true, gen := gen })
  | .send _ => (s, .more { c with started := true, left := 1 })
  | .recv _ => (s, .more { c with started := true, left := 1 })
  | _ => (s, .more { c with started := true })

/-- The end of a link command that writes data and a status record: the data piece by piece, the bitmap, then the status word
(R64, R185, R342). `fin` says how the command goes on then. -/
def drainStep (s : State) (n part : Nat) (dst : Space) (a status : Nat) (c : Cmd) (fin : Cmd → Prog := Cmd.finish) : State × Prog :=
  let i := 128 * c.lines
  if i < c.buf.length then match s.spWrite part dst (a + i) ((c.buf.drop i).take 128) with
    | (s, va, .fault f) => (s, .fault va 1 f)
    | (s, _, .wait) => (s, .wait)
    | (s, _, .ok _) => (s, .more { c with lines := c.lines + 1 })
  else if c.status.isEmpty || status = 0 then (s, fin c)
  else match s.spWrite part (.vm (dieOf n)) (status + 8) (c.status.drop 8) with
    | (s, va, .fault f) => (s, .fault va 1 f)
    | (s, _, .wait) => (s, .wait)
    | (s, _, .ok _) => match s.spWrite part (.vm (dieOf n)) status (c.status.take 8) with
      | (s, va, .fault f) => (s, .fault va 1 f)
      | (s, _, .wait) => (s, .wait)
      | (s, _, .ok _) => (s, fin c)

/-- The ranks whose transfers of a `COLL` have all been acknowledged (R396). -/
def collAcked (s : State) (n : Nat) (g : Group) (c : Cmd) : List Nat :=
  let b := c.buf
  let peer := collPeer b g.members.length
  (List.range g.members.length).filter (fun r =>
    (List.range (collTotal b - c.lines)).all (fun k => peer (c.lines + k) != r) &&
      !s.blocks.any (fun d => d.src == s.place n && d.key == c.key && d.dst == memberPlace (g.members.getD r 0)) &&
      !(s.contribs ++ s.refused.map (·.2)).any (fun d => d.ack == some (n, c.key) && d.dest == r))

/-- A transfer of a `COLL` on a group of one, or of no bytes (R185): a copy in place where source and destination differ, and none of the
triggers yet. -/
def collLocal (s : State) (n part : Nat) (src : Space) (c : Cmd) : State × Prog :=
  let b := c.buf
  let own := Space.spad (s.place n)
  let i := c.lines
  if collContrib b || (src = own ∧ collFrom b i = collTo b i) then (s, .more { c with lines := i + 1 })
  else match s.spRead part src (collFrom b i) (collLen b) with
    | (s, va, .fault f) => (s, .fault va 0 f)
    | (s, _, .wait) => (s, .wait)
    | (s, _, .ok bs) => ((s.spWrite part own (collTo b i) bs).1, .more { c with lines := i + 1 })

/-- The triggers of such a `COLL` follow its status record, one by one; then it has performed (R185). A trigger of no bytes for another tile
travels as its transfer would, and nothing awaits it. -/
def collTrigger (s : State) (n : Nat) (g : Group) (c : Cmd) : State × Prog :=
  let b := c.buf
  match collSem b with
  | none => (s, c.finish)
  | some sm =>
    if collTotal b ≤ c.lines then (s, c.finish)
    else
      let dst := memberPlace (g.members.getD (collPeer b g.members.length c.lines) 0)
      let c := { c with lines := c.lines + 1 }
      if dst = s.place n then (s.modTile n (fun t => t.raise sm (collLen b) true), .more c)
      else if !s.reachable n dst then (s, .more c)
      else
        let x : Delivery := ⟨s.place n, dst, 0, [], some sm, c.key, false, s.boundFor dst, s.stamp, c.lines, s.hop dst, (s.tile n).id.part⟩
        ({ s with blocks := s.blocks ++ [x] }.sent 1, .more { c with left := c.left + 1 })

/-- One transfer of a `COLL` (R396). -/
def collStep (s : State) (n : Nat) (o : LkOp) (c : Cmd) : State × Prog :=
  let t := s.tile n
  let part := t.id.part
  let b := c.buf
  let own := Space.vm (dieOf n)
  if b.isEmpty then drainStep s n part own 0 (c.opnd 1) c
  else match groupOf s n o with
  | none => (s, .more (c.fail 5 0 []))
  | some (g, rank, num) =>
    let gs := g.members.length
    let alone := gs ≤ 1 || collLen b = 0
    let src := if collMode b / 4 % 2 = 0 then Space.vm (dieOf n) else .spad (s.place n)
    if alone && c.peer.isSome then collTrigger s n g c
    else if collTotal b ≤ c.lines || collLen b = 0 then
      if 0 < c.left then (s, .wait)
      else
        let c := if c.status.isEmpty then { c with status := doneRec gs c.gen.toNat } else c
        if alone then
          drainStep s n part own 0 (c.opnd 1) { c with buf := [], lines := 0 } (fun c => .more { c with buf := b, lines := 0, peer := some (n, c.key) })
        else drainStep s n part own 0 (c.opnd 1) { c with buf := [] }
    else if alone then collLocal s n part src c
    else
      let peer := collPeer b gs c.lines
      let dst := memberPlace (g.members.getD peer 0)
      if !s.reachable n dst then
        let fenced := dst.pkg = s.pkg && (s.tile dst.tile).isFenced
        (s, .more (c.fail (if fenced then 2 else 3) gs (collAcked s n g c)))
      else match s.spRead part src (collFrom b c.lines) (collLen b) with
        | (s, va, .fault f) => (s, .fault va 0 f)
        | (s, _, .wait) => (s, .wait)
        | (s, _, .ok bs) =>
          if collContrib b then
            if peer = rank then (s, .more { c with lines := c.lines + 1 })
            else
              let x : Contribution := ⟨0, part, num, c.gen, peer, rank, bs, some (n, c.key), s.stamp, c.lines, s.hop dst⟩
              ({ s with contribs := s.contribs ++ [x] }.sent 1, .more { c with lines := c.lines + 1, left := c.left + 1 })
          else
            let x : Delivery := ⟨s.place n, dst, collTo b c.lines, bs, collSem b, c.key, false, s.boundFor dst, s.stamp, c.lines, s.hop dst, part⟩
            ({ s with blocks := s.blocks ++ [x] }.sent 1, .more { c with lines := c.lines + 1, left := c.left + 1 })

/-- `PUT`: to a region line by line; to a tile as one block, which lands and raises there (R183, R402). -/
def putStep (s : State) (n : Nat) (o : LkOp) (c : Cmd) : State × Prog :=
  let t := s.tile n
  let part := t.id.part
  let e := t.chan o.ch.toNat
  let len := lo32 (c.opnd 2)
  let src := if lspBit o 0 = 0 then Space.vm (dieOf n) else .spad (s.place n)
  if chKind e = 3 then copyLine s part src (c.opnd 0) (.vm (dieOf n)) (c.opnd 1) len c
  else if c.peer.isSome then (s, .more { c with performed := c.left == 0 })
  else if c.buf.length < len then match s.spRead part src (c.opnd 0 + c.buf.length) (Nat.min 128 (len - c.buf.length)) with
    | (s, va, .fault f) => (s, .fault va 0 f)
    | (s, _, .wait) => (s, .wait)
    | (s, _, .ok bs) => (s, .more { c with buf := c.buf ++ bs })
  else
    let x : Delivery := ⟨s.place n, chPlace e, c.opnd 1, c.buf, if draiseOf (c.opnd 2) then some (dsemOf (c.opnd 2)) else none, c.key, false, s.boundFor (chPlace e), s.stamp, 0, s.hop (chPlace e), part⟩
    ({ s with blocks := s.blocks ++ [x] }.sent 1, .more { c with peer := some (n, c.key), left := 1 })

/-- `GET` (R402). -/
def getStep (s : State) (n : Nat) (o : LkOp) (c : Cmd) : State × Prog :=
  let e := (s.tile n).chan o.ch.toNat
  copyLine s (s.tile n).id.part (if chKind e = 3 then .vm (dieOf n) else .spad (chPlace e)) (c.opnd 0)
    (if lspBit o 0 = 0 then .vm (dieOf n) else .spad (s.place n)) (c.opnd 1) (c.opnd 2) c

/-- `APPEND`: the fetch-and-add, the value returned, then the row (R188, R403). -/
def appendStep (s : State) (n : Nat) (o : LkOp) (c : Cmd) : State × Prog :=
  let part := (s.tile n).id.part
  if c.buf.isEmpty then match s.spRmw part (.vm (dieOf n)) (c.opnd 1) 8 (fun old => some (leBytes 8 (leNat old + 1))) with
    | (s, va, .fault f) => (s, .fault va 2 f)
    | (s, _, .wait) => (s, .wait)
    | (s, _, .ok old) =>
      let s := if o.fn.getLsbD 2 then s.modTile n (fun t => t.push (o.fn.toNat % 4) (bytesRow old)) else s
      (s, .more { c with buf := old })
  else copyLine s part (if lspBit o 3 = 0 then .vm (dieOf n) else .spad (s.place n)) (c.opnd 0) (.vm (dieOf n)) (c.opnd 2 + 512 * (leNat c.buf % 2 ^ c.opnd 3)) 512 c

/-- A `COLL` some of whose transfers are lost fails, once (R396): its record marks the ranks whose transfers were all acknowledged in the
state `s`, in which the lost ones are still under way. -/
def State.failColl (s : State) (n : Nat) (t : Tile) (o : LkOp) (c : Cmd) (cause : Nat) : Tile :=
  match s.group t.id.part (t.chan o.ch.toNat) with
  | some g => if c.status.isEmpty then t.modCmd .lk c.key (fun _ => c.fail cause g.members.length (collAcked s n g c)) else t
  | none => t
/-- The `COLL` commands under way in a tile, and in every tile and saved context, that a predicate on their tile and channel picks fail (R393, R400). -/
def State.failTile (s : State) (cause : Nat) (p : Tile → Nat → Bool) (n : Nat) (t : Tile) : Tile :=
  (t.en.lkq.filter (·.started)).foldl (fun t c => match c.instr with
    | .coll o => if p t o.ch.toNat then s.failColl n t o c cause else t
    | _ => t) t
def State.failColls (s : State) (cause : Nat) (p : Tile → Nat → Bool) : State :=
  { s with tiles := s.tiles.map (fun e => (e.1, s.failTile cause p e.1 e.2)), saved := s.saved.map (fun e => (e.1, s.failTile cause p (e.1 / 8) e.2)) }
/-- The FAILED records of the commands of a tile that have failed are written before the commands are dropped (R63, R400); a write that faults, or
must wait, is not made. -/
def State.writeFailed (s : State) (n : Nat) : State :=
  (s.tile n).en.lkq.foldl (fun s c =>
    let a := match c.instr with | .coll _ => c.opnd 1 | .radd _ => c.opnd 3 | .pred _ => c.opnd 3 | .lbar _ => c.opnd 0 | _ => 0
    if c.status.isEmpty || c.performed || a = 0 || leNat (c.status.take 8) / 2 ^ 62 != 2 then s
    else match s.coWriteVia (dieOf n) (s.tile n).id.part (a + 8) ((c.status.drop 8).map some) with
      | (s, .ok _) => (s.coWriteVia (dieOf n) (s.tile n).id.part a ((c.status.take 8).map some)).1
      | (s, _) => s) s

/-- The result code of `GRPDEF`, and the members of a descriptor (R393). -/
def grpResult (s : State) (n num : Nat) (del : Bool) (b : List Byte) : Nat × List Nat × Bool :=
  let part := (s.tile n).id.part
  let g := recFld b 0 4
  let flags := recFld b 4 4
  let ms := (List.range (Nat.min g 4096)).map (fun r => recFld b (0x10 + 4 * r) 4)
  let defined := (find (s.part part).groups num).isSome
  let memberOk := fun (m : Nat) => (memberEng m && m % 128 == 0 || !memberEng m) && m / 2 ^ 19 % 2 ^ 12 == 0
  let bad := g = 0 || 4096 < g || flags / 2 != 0 || recFld b 8 8 != 0 || !ms.all memberOk || !ms.Nodup
  let owned := fun (m : Nat) => if memberEng m then s.linked (dieOf n) (memberPlace m) else s.placeOwned (memberPlace m) part && s.reachable n (memberPlace m)
  let res := if 4095 < num then 3
    else if del then (if defined then 0 else 1)
    else if bad then 3 else if defined then 1 else if !ms.all owned then 2 else 0
  (res, ms, flags % 2 == 1)

/-- `GRPDEF` (R393). Whether the value-index reductions of the group are placed in a switch is chosen here (R60): only with SWOK, and when
members lie in other packages; whether the switches between them report ordered reduction is a free value (log 92). -/
def grpdefStep (s : State) (n : Nat) (o : LkOp) (c : Cmd) : State × Prog :=
  let part := (s.tile n).id.part
  let num := wfld ((s.tile n).chan o.ch.toNat).1 0 16
  let gone := lspBit o 0 == 1
  match (if gone then (s, 0, Ans.ok []) else s.spRead part (.vm (dieOf n)) (c.opnd 0) 16) with
  | (s, va, .fault f) => (s, .fault va 0 f)
  | (s, _, .wait) => (s, .wait)
  | (s, _, .ok hd) =>
    match (if gone then (s, 0, Ans.ok []) else s.spRead part (.vm (dieOf n)) (c.opnd 0 + 16) (4 * Nat.min (recFld hd 0 4) 4096)) with
    | (s, va, .fault f) => (s, .fault va 0 f)
    | (s, _, .wait) => (s, .wait)
    | (s, _, .ok ms) =>
      let (res, members, swok) := grpResult s n num gone (hd ++ ms)
      match s.spWrite part (.vm (dieOf n)) (c.opnd 1) (leBytes 8 res) with
      | (s, va, .fault f) => (s, .fault va 1 f)
      | (s, _, .wait) => (s, .wait)
      | (s, _, .ok _) =>
        if res != 0 then (s, c.finish)
        else if gone then
          let s := (s.failReds 5 (fun r => r.part == part && r.group == num)).failColls 5 (fun t ch => t.id.part == part && wfld (t.chan ch).1 0 16 == num)
          (s.modPart part (fun p => { p with groups := del p.groups num }), c.finish)
        else
          let s := members.foldl (fun s m => if !memberEng m && (memberPlace m).pkg = s.pkg then
            s.modTile (memberPlace m).tile (fun t => { t with en := { t.en with gens := del t.en.gens num } }) else s) s
          let ordered := Config.go s.free
          let s := { s with free := s.free + 1 }
          let switch := swok && ordered && members.any (fun m => (memberPlace m).pkg != s.pkg)
          (s.modPart part (fun p => { p with groups := put p.groups num ⟨members, swok, [], switch, []⟩ }), c.finish)

/-- One move of the link engine on a command that has started. -/
def lkPerform (s : State) (n : Nat) (c : Cmd) : State × Prog :=
  let part := (s.tile n).id.part
  let own := Space.spad (s.place n)
  let loc := fun (o : LkOp) => if lspBit o 0 = 0 then Space.vm (dieOf n) else own
  match c.instr with
  | .coll o => collStep s n o c
  | .radd _ => if 0 < c.left then (s, .wait) else drainStep s n part own (c.opnd 1) (c.opnd 3) c
  | .pred o => if 0 < c.left then (s, .wait) else drainStep s n part (loc o) (c.opnd 1) (c.opnd 3) c
  | .lbar _ => if 0 < c.left then (s, .wait) else drainStep s n part (.vm (dieOf n)) 0 (c.opnd 0) c
  | .send _ => if 0 < c.left then (s, .wait) else (s, c.finish)
  | .recv o => if 0 < c.left then (s, .wait) else drainStep s n part (loc o) (c.opnd 0) (c.opnd 2) c
  | .put o => putStep s n o c
  | .get o => getStep s n o c
  | .append o => appendStep s n o c
  | .grpdef o => grpdefStep s n o c
  | _ => (s, c.finish)

/-! ### Starting, moving and ending -/

/-- The next piece of a command that copies: its source, its destination, its length and whether it is the last (R336, R402). -/
def nextPiece (s : State) (n : Nat) (c : Cmd) : Option (Space × Nat × Space × Nat × Nat × Bool) :=
  let e := fun (o : LkOp) => (s.tile n).chan o.ch.toNat
  let loc := fun (o : LkOp) => if lspBit o 0 = 0 then Space.vm (dieOf n) else .spad (s.place n)
  let i := 128 * c.lines
  let line := fun (src : Space) (a : Nat) (dst : Space) (b len : Nat) =>
    if len ≤ i then none else some (src, a + i, dst, b + i, Nat.min 128 (len - i), decide (len ≤ i + 128))
  match c.instr with
  | .copy o => line (ceSrc s n o) (c.opnd 0) (ceDst s n o) (c.opnd 1) (c.opnd 2)
  | .copya o => if 0 < lo32 (c.opnd 2) && c.lines < pieces (lo32 (c.opnd 2)) * hi32 (c.opnd 2) then
      (let p := rowPiece c
       some (ceSrc s n o, p.1, ceDst s n o, p.2.1, p.2.2, decide (c.lines + 1 = pieces (lo32 (c.opnd 2)) * hi32 (c.opnd 2)))) else none
  | .put o => if chKind (e o) = 3 then line (loc o) (c.opnd 0) (.vm (dieOf n)) (c.opnd 1) (lo32 (c.opnd 2)) else none
  | .get o => line (if chKind (e o) = 3 then .vm (dieOf n) else .spad (chPlace (e o))) (c.opnd 0) (loc o) (c.opnd 1) (c.opnd 2)
  | _ => none

/-- A range of bytes in a space, and whether two ranges share a byte. -/
abbrev Span := Space × Nat × Nat
def Span.meets (a b : Span) : Bool := a.1 == b.1 && a.2.2 != 0 && b.2.2 != 0 && decide (a.2.1 < b.2.1 + b.2.2) && decide (b.2.1 < a.2.1 + a.2.2)

/-- The bytes of a status record that a command may name. -/
def statusSpan (n a len : Nat) : Span := (.vm (dieOf n), a, if a = 0 then 0 else len)
/-- The length of the status record of a group (R64). -/
def State.statusLen (s : State) (n : Nat) (o : LkOp) : Nat :=
  8 + 8 * (((match s.group (s.tile n).id.part ((s.tile n).chan o.ch.toNat) with | some g => g.members.length | none => 1) + 63) / 64)
/-- The blocks of a command that are under way to scratchpads. -/
def State.sentSpans (s : State) (n key : Nat) : List Span :=
  (s.blocks.filter (fun d => d.src == s.place n && d.key == key)).map (fun d => (.spad d.dst, d.addr, d.data.length))

/-- Has a command that has started no read left (R175)? -/
def readsDone (s : State) (n : Nat) (c : Cmd) : Bool :=
  c.performed || match c.instr with
    | .send _ => c.peer.isSome
    | .msend _ => c.peer.isSome
    | .recv _ => true
    | .radd _ => true
    | .pred _ => true
    | .lbar _ => true
    | .lquiet _ => true
    | .lfence _ => true
    | .fill _ => true
    | .mcast _ => decide ((linePieces (c.opnd 1) (lo32 (c.opnd 2))).length ≤ c.lines)
    | .coll _ => c.buf.isEmpty || c.peer.isSome || collLen c.buf == 0 || decide (collTotal c.buf ≤ c.lines)
    | _ => c.peer.isSome || (match c.ahead, nextPiece s n c with
      | some _, some (_, _, _, _, _, last) => last
      | _, _ => false)

/-- The bytes that a command has still to write, when it has no read left (R175). -/
def writesLeft (s : State) (n : Nat) (c : Cmd) : Option (List Span) :=
  let loc := fun (o : LkOp) => if lspBit o 0 = 0 then Space.vm (dieOf n) else .spad (s.place n)
  if c.performed then some []
  else match c.instr with
    | .send _ => some []
    | .msend _ => some []
    | .lquiet _ => some []
    | .lfence _ => some []
    | .recv o => some [(loc o, c.opnd 0, c.opnd 1), statusSpan n (c.opnd 2) 16]
    | .radd o => some [(.spad (s.place n), c.opnd 1, lo32 (c.opnd 2)), statusSpan n (c.opnd 3) (s.statusLen n o)]
    | .pred o => some [(loc o, c.opnd 1, 8 * c.opnd 2), statusSpan n (c.opnd 3) (s.statusLen n o)]
    | .lbar o => some [statusSpan n (c.opnd 0) (s.statusLen n o)]
    | .fill o => some [(ceDst s n o, c.opnd 0, c.opnd 1)]
    | .mcast _ => some (s.sentSpans n c.key)
    | .coll o => some (statusSpan n (c.opnd 1) (s.statusLen n o) :: s.sentSpans n c.key)
    | _ => if c.peer.isSome then some (s.sentSpans n c.key) else match c.ahead, nextPiece s n c with
      | some _, some (_, _, dst, b, k, true) => some [(dst, b, k)]
      | _, _ => none

/-- The move of a command in progress that only reads, if its next move is one; a move that makes no access reads nothing. -/
def nextRead (s : State) (n : Nat) (c : Cmd) : Option Span :=
  let lk := fun (o : LkOp) => if lspBit o 0 = 0 then Space.vm (dieOf n) else .spad (s.place n)
  let rest := fun (src : Space) (len : Nat) => (src, c.opnd 0 + c.buf.length, Nat.min 128 (len - c.buf.length))
  match c.instr with
  | .send _ => some (.vm (dieOf n), 0, 0)
  | .msend o => some (if c.peer.isSome then (.vm (dieOf n), 0, 0) else rest (ceSrc s n o) (lo32 (c.opnd 1)))
  | .put o => if chKind ((s.tile n).chan o.ch.toNat) != 3 && c.buf.length < lo32 (c.opnd 2) then some (rest (lk o) (lo32 (c.opnd 2))) else none
  | .coll _ =>
    if collContrib c.buf && !c.buf.isEmpty && c.peer.isNone && decide (c.lines < collTotal c.buf) then
      some (if collMode c.buf / 4 % 2 = 0 then Space.vm (dieOf n) else .spad (s.place n), collFrom c.buf c.lines, collLen c.buf)
    else none
  | _ => none

/-- The source that a reduction reads at its start, or a `SEND` when it is matched. -/
def startRead (s : State) (n : Nat) (c : Cmd) : Span :=
  let lk := fun (o : LkOp) => if lspBit o 0 = 0 then Space.vm (dieOf n) else .spad (s.place n)
  match c.instr with
  | .radd _ => (.spad (s.place n), c.opnd 0, lo32 (c.opnd 2))
  | .pred o => (lk o, c.opnd 0, 8 * c.opnd 2)
  | .send o => (lk o, c.opnd 0, c.opnd 1)
  | _ => (.vm (dieOf n), 0, 0)

/-- Does a command in progress only wait for another tile, with no access made that has not performed (R404)? -/
def Cmd.waits (c : Cmd) : Bool :=
  c.performed || match c.instr with
    | .msend _ => c.peer.isSome
    | .send _ => c.peer.isSome
    | .recv _ => 0 < c.left
    | .radd _ => 0 < c.left
    | .pred _ => 0 < c.left
    | .lbar _ => 0 < c.left
    | .lquiet _ => true
    | .lfence _ => true
    | _ => false

/-- The commands before one in its stream. -/
def Tile.before (t : Tile) (col : Col) (key : Nat) : List Cmd := (t.cmds col).takeWhile (fun x => x.key != key)
/-- THE ORDER OF A STREAM (R175): reads perform in program order, and before no earlier write of a byte that they read; a write performs when every
earlier command has made all its accesses. -/
def State.mayRead (s : State) (n : Nat) (col : Col) (key : Nat) (r : Span) : Bool :=
  ((s.tile n).before col key).all (fun e => readsDone s n e && match writesLeft s n e with
    | some l => !l.any (Span.meets r)
    | none => false)
def State.mayWrite (s : State) (n : Nat) (col : Col) (key : Nat) : Bool :=
  ((s.tile n).before col key).all (fun e => readsDone s n e && match writesLeft s n e with
    | some l => l.all (fun w => w.2.2 == 0)
    | none => false)
/-- May a command make its next move? -/
def State.mayPerform (s : State) (n : Nat) (col : Col) (c : Cmd) : Bool :=
  s.mayWrite n col c.key || (match nextRead s n c with | some r => s.mayRead n col c.key r | none => false)
/-- May a piece be read ahead of earlier writes of other bytes (R175)? -/
def mayAhead (s : State) (n : Nat) (col : Col) (c : Cmd) : Bool :=
  c.ahead.isNone && match nextPiece s n c with
    | none => false
    | some (src, a, _, _, k, _) => s.mayRead n col c.key (src, a, k)

/-- Does a command's place in its queue let it start: CE has fewer than four in progress, `CEFLUSH` and `LQUIET` come when
every earlier command has ended, `LFENCE` when their accesses have performed, and nothing overtakes it; sixteen receives may be
unmatched, and `MRECV` holds CE while nothing matches it and 32 are posted (R333, R341, R343, R389, R401, R404)? The source of a reduction
is read at its start, in its turn (R175, R397, R398). -/
def State.mayStart (s : State) (n : Nat) (col : Col) (c : Cmd) : Bool :=
  let t := s.tile n
  let earlier := (t.cmds col).takeWhile (fun x => x.key != c.key)
  let isLfence := fun (x : Cmd) => match x.instr with | .lfence _ => true | _ => false
  let isRecv := fun (x : Cmd) => match x.instr with | .recv _ => 0 < x.left | _ => false
  let isMrecv := fun (x : Cmd) => match x.instr with | .mrecv _ => true | _ => false
  (col != .ce || (t.en.ceq.filter (·.started)).length < ceInProgress) && (col != .sq || earlier.isEmpty) && !earlier.any isLfence &&
    (match c.instr with
     | .ceflush _ => earlier.isEmpty
     | .lquiet _ => earlier.isEmpty
     | .lfence _ => earlier.all Cmd.waits
     | .radd _ => s.mayRead n .lk c.key (startRead s n c)
     | .pred _ => s.mayRead n .lk c.key (startRead s n c)
     | .recv _ => (earlier.filter isRecv).length < 16
     | .mrecv o => earlier.all (fun x => x.performed || !isMrecv x) && (t.en.posted.length < 32 || t.en.overflow.any (t.receiveOf o c).accepts)
     | _ => true)

/-- The release mask of a command at its start: REL with its mask, and the mask of `LBAR` (R182, R399). -/
def Cmd.relMask (c : Cmd) : BitVec 4 :=
  let m := c.rel.getD 0
  match c.instr with | .lbar o => m ||| o.fn | _ => m
/-- The cache side of the releases of a starting command: REL at the command's scope, the arrival of `LBAR` at system scope (R180, R184). -/
def State.startRelease (s : State) (n : Nat) (c : Cmd) : State :=
  let s := s.releaseCache n (c.rel.getD 0) c.scope
  match c.instr with | .lbar o => s.releaseCache n o.fn 4 | _ => s

/-- The first command that has not started tries to start, in a cycle after that of its issue (R333, R389). Its prior set is fixed when nothing else keeps it (R176). -/
def tryStart (s : State) (n : Nat) (col : Col) (c : Cmd) : State × Prog :=
  let t := s.tile n
  let l := match c.prior with | some l => l | none => t.priorKeys s.tm.pre c.relMask
  if s.tm.pre ≤ c.since || (s.frozen n && c.await.isSome) || !t.awaitOk c || !s.mayStart n col c then (s, .wait)
  else if !(match c.chan with | some ch => t.allowOk ch c.allow | none => true) then (s, .wait)
  else if !t.priorDone l then (s, if c.prior.isNone then .more { c with prior := some l } else .wait)
  else
    let s := s.startRelease n c
    if s.cacheHeld n (c.rel.getD 0) c.scope || (match c.instr with | .lbar o => s.cacheHeld n o.fn 4 | _ => false) then (s, .wait) else
    match (if col = .lk then startChecks s (dieOf n) t.id.part (lkRanges s n c) else (s, none)) with
    | (s, some p) => (s, p)
    | (s, none) =>
      match (if col = .lk then lkStart s n c else (s, .more { c with started := true })), c.chan with
      | (s, .more d), some ch => (s.modTile n (·.allowTake ch c.allow), .more { d with since := s.tm.pre })
      | (s, .more d), none => (s, .more { d with since := s.tm.pre })
      | x, _ => x

/-- The tile whose scratchpad a command reaches, with at least one byte, and whether it reaches it there by itself; the peer of a `SEND`, and of a
`RECV` that nothing has matched. -/
def cmdTarget (t : Tile) (c : Cmd) : Option (Place × Bool) :=
  let ce := fun (o : CeOp) (some_ : Bool) => if dsp o = 2 && some_ then some (chPlace (t.chan o.ch.toNat), true) else none
  let lk := fun (o : LkOp) (some_ direct : Bool) => if chKind (t.chan o.ch.toNat) = 1 && some_ then some (chPlace (t.chan o.ch.toNat), direct) else none
  match c.instr with
  | .copy o => ce o (c.opnd 2 != 0)
  | .copya o => ce o (lo32 (c.opnd 2) != 0 && hi32 (c.opnd 2) != 0)
  | .fill o => ce o (c.opnd 1 != 0)
  | .accw o => ce o (lo32 (c.opnd 2) != 0)
  | .xadd o => ce o true
  | .cas o => ce o true
  | .msend o => some (chPlace (t.chan o.ch.toNat), false)
  | .get o => lk o (c.opnd 2 != 0) true
  | .put o => lk o (lo32 (c.opnd 2) != 0) false
  | .send o => lk o true false
  | .recv o => lk o (0 < c.left) false
  | _ => none

/-- One move of a started command. What reaches a fenced tile is lost (R247), what cannot leave for its place faults (R13, R50), and what
reaches a switched-out task waits (R400). -/
def performStep (s : State) (n : Nat) (col : Col) (c : Cmd) : State × Prog :=
  let go := match col with
    | .ce => cePerform s n c
    | .sq => spillPerform s n c
    | _ => lkPerform s n c
  match cmdTarget (s.tile n) c with
  | none => go
  | some (p, direct) =>
    if c.peer.isSome then go
    else if p.pkg = s.pkg && (s.tile p.tile).isFenced then (s.modTile n (·.lostCommand col c), .wait)
    else if !(match c.instr with | .recv _ => true | _ => false) && !s.linked (dieOf n) p then s.unlinked n p
    else if p.pkg = s.pkg && direct && s.heldBack (s.place n) p.tile (s.boundFor p) then (s, .wait)
    else go

/-- A piece is read ahead of its turn. -/
def aheadStep (s : State) (n : Nat) (c : Cmd) : State × Prog :=
  match nextPiece s n c with
  | none => (s, .wait)
  | some (src, a, _, _, k, _) => match s.spRead (s.tile n).id.part src a k with
    | (s, va, .fault f) => (s, .fault va 0 f)
    | (s, _, .wait) => (s, .wait)
    | (s, _, .ok b) => (s, .more { c with ahead := some b })

/-- The outcome of a move goes into the queue of the engine, or becomes a trap. -/
def applyProg (s : State) (n : Nat) (col : Col) (c : Cmd) (p : Prog) : State :=
  match p with
  | .wait => s
  | .fault va acc f => s.engineFault n col c va acc f
  | .more d => s.modTile n (·.modCmd col c.key (fun _ => d))

/-- A MOVE OF AN ENGINE (R141, R175, R333, R389): a command that can start does; otherwise one of those in progress, a free choice
among them (R437), performs one piece in its turn, or reads one ahead of it. -/
def State.engineMove (s : State) (n : Nat) (col : Col) : State :=
  let t := s.tile n
  if t.faulted col then s
  else
    let going := (t.cmds col).filter (fun c => c.started && !c.performed && (s.mayPerform n col c || mayAhead s n col c))
    let start := match (t.cmds col).find? (fun c => !c.started) with
      | some c => let (s', p) := tryStart s n col c; (match p with | .wait => none | _ => some (applyProg s' n col c p))
      | none => none
    match start with
    | some s' => s'
    | none =>
      let pick := Config.pick s.free % Nat.max 1 going.length
      match going[pick]? with
      | none => s
      | some c =>
        let s1 := { s with free := s.free + 1 }
        let (s', p) := if s.mayPerform n col c then performStep s1 n col c else aheadStep s1 n c
        applyProg s' n col c p

/-- Has a collective failed: its status record says so (R63, R64)? -/
def Cmd.hasFailed (c : Cmd) : Bool := leNat (c.status.take 8) / 2 ^ 62 == 2
/-- May a command end: it and every earlier command of its stream have performed, also when it raises nothing; one that has failed ends with its
record (R182, R389). The accesses of receives still unmatched and reductions still open do not hold an `LFENCE` (R404). -/
def Tile.mayEnd (t : Tile) (col : Col) (c : Cmd) : Bool :=
  c.performed && (c.hasFailed || (match c.instr with
    | .lfence _ => true
    | .mrecv _ => true
    | _ => (t.before col c.key).all (·.performed)))

/-- COMMAND_END (R182, R211, R389): the command raises its semaphore and leaves its engine; its allowance returns; the last
spill or fill of a slot clears BUSY; a `RECV` lets its sender end. -/
def State.endCommand (s : State) (n : Nat) (col : Col) (c : Cmd) : State :=
  let s := s.modTile n (fun t =>
    let t := t.setCmds col ((t.cmds col).filter (fun x => x.key != c.key))
    let t := match c.raise, c.instr with
      | some sm, _ => t.raise sm 1 true
      | none, .recv _ => { t with ct := { t.ct with latch := true } }
      | none, _ => t
    let t := match c.chan with | some ch => t.allowGive ch c.allow | none => t
    let slot := match c.instr with | .pspill _ ps _ _ _ => some ps.toNat | .pfill _ ps _ _ _ => some ps.toNat | _ => none
    match slot with
    | none => t
    | some ps =>
      let k := get 0 t.st.spills ps - 1
      let t := { t with st := { t.st with spills := put t.st.spills ps k } }
      let d := t.desc ps
      if k = 0 then t.setDesc ps (BitVec.ofNat 16 (d.toNat - d.toNat / 2 ^ 14 % 2 * 2 ^ 14)) else t)
  match c.instr, c.peer with
  | .recv _, some (m, key) => s.modHome m key (·.modCmd .lk key Cmd.ack)
  | _, _ => s

end Sys2Proof.Machine
end

