-- ==== Sys2Proof/Machine/Vx.lean ====
section
/-! DEFINITION. The words of the VX column (16_vector_isa): each reads its rows and pops its queues in its issue cycle, and its
result lands at the write cycle of R348. -/
namespace Sys2Proof.Machine

open Sys2Proof

/-! ### One VX word -/

/-- Read the source rows in the order A, B, C (R346). -/
def Tile.vxSrcs (t : Tile) (srcs : List (BitVec 8)) : Tile × List Row :=
  srcs.foldl (fun (a : Tile × List Row) r => let (t, v) := a.1.vxSrc r; (t, a.2 ++ [v])) (t, [])

/-- The counter of R349 and the random word of a lane. -/
def Tile.vxRand (t : Tile) (key : Word) (i : Nat) : Nat :=
  rand32 key (wfld t.sq.rng 0 32, wfld t.sq.rng 32 32, t.id.rank, 0) i

/-- The advance of the counter by 256 (R349). -/
def Tile.vxAdvance (t : Tile) : Tile := { t with sq := { t.sq with rng := wset t.sq.rng 0 32 (wfld t.sq.rng 0 32 + 256) } }

/-- What a VX word does: `srcs` its source rows, `pushes` the queues it pushes, `lat` its write cycle, `rng` whether it uses
the counter, `f` its landings from the rows and the random words of its lanes. -/
def vxWord (s : State) (wf : Bool) (o : VxOp) (srcs : List (BitVec 8)) (pushes : List Nat) (lat : Nat) (rng : Bool)
    (f : Tile → List Row → (Nat → Nat) → Tile) : Out :=
  let k := syncNeeds .vx o.tok (srcPops srcs) pushes
  syncIssue s wf o.tok.dly none k (fun s =>
    let key := get 0 s.key (s.tile s.cur.tile).id.part
    ok (s.fire k 1 (fun t =>
      let u := fun i => t.vxRand key i
      let (t, rows) := t.vxSrcs srcs
      let t := f t rows u
      (if rng then t.vxAdvance else t).pushToks k.outs lat)))

/-- A VX word whose only result is the row or queue D. -/
def vxRow (s : State) (wf : Bool) (o : VxOp) (srcs : List (BitVec 8)) (lat : Nat) (g : List Row → (Nat → Nat) → Row) : Out :=
  vxWord s wf o srcs (srcPops [o.d]) lat (o.rnd == 4) (fun t rows u => t.rowOut .vx lat o.d (t.vrow o.d.toNat) (g rows u))

/-- Row k of the sources. -/
def src (rows : List Row) (k : Nat) : Row := rows.getD k 0

/-- The overflow rule and the random word of a word (R347, R349). -/
def uOf (o : VxOp) (u : Nat → Nat) (i : Nat) : Nat := if o.rnd == 4 then u i else 0

/-- A row computed lane by lane. -/
def byLane (et : BitVec 4) (f : Nat → Nat) : Row := ofLanes (width et) ((List.range (lanes et)).map f)

/-! ### Elementwise arithmetic (R350) -/

/-- A lane of R350: `ff` on exact values, `fi` on exact integers. -/
def arithLane (o : VxOp) (sat : Bool) (u : Nat) (ff : Val → Val → Val → Val) (fi : Int → Int → Int → Int) (a b c : Nat) : Nat :=
  let et := o.et.toNat
  let w := width o.et
  if isFp o.et then round (fmtOf et) o.rnd.toNat sat u (ff (dec (fmtOf et) a) (dec (fmtOf et) b) (dec (fmtOf et) c))
  else
    let x := fi (intOf (isSigned et) w a) (intOf (isSigned et) w b) (intOf (isSigned et) w c)
    if sat then satInt (isSigned et) w x else wrapInt w x

/-- An elementwise word. -/
def arithRow (s : State) (wf : Bool) (o : VxOp) (srcs : List (BitVec 8)) (ff : Val → Val → Val → Val) (fi : Int → Int → Int → Int) : Out :=
  vxRow s wf o srcs 3 (fun rows u =>
    let l := fun k i => lane (src rows k) (width o.et) i
    byLane o.et (fun i => arithLane o (fnBit o 0) (uOf o u i) ff fi (l 0 i) (l 1 i) (l 2 i)))

/-- Is a zero sum of mixed signs negative: under RDN (R283)? -/
def rdn (o : VxOp) : Bool := o.rnd == 3

/-- `VADD` (R350). -/
def execVadd (o : VxOp) (s : State) : Out :=
  arithRow s (wellFormed (.vadd o)) o [o.a, o.b] (fun a b _ => addV (rdn o) a b) (fun a b _ => a + b)
/-- `VSUB` (R350). -/
def execVsub (o : VxOp) (s : State) : Out :=
  arithRow s (wellFormed (.vsub o)) o [o.a, o.b] (fun a b _ => addV (rdn o) a b.neg) (fun a b _ => a - b)
/-- `VMUL` (R350). -/
def execVmul (o : VxOp) (s : State) : Out :=
  arithRow s (wellFormed (.vmul o)) o [o.a, o.b] (fun a b _ => mulV a b) (fun a b _ => a * b)
/-- `VFMA` (R350): one rounding. -/
def execVfma (o : VxOp) (s : State) : Out :=
  arithRow s (wellFormed (.vfma o)) o [o.a, o.b, o.c] (fun a b c => addV (rdn o) (mulV a b) c) (fun a b c => a * b + c)
/-- `VFMS` (R350). -/
def execVfms (o : VxOp) (s : State) : Out :=
  arithRow s (wellFormed (.vfms o)) o [o.a, o.b, o.c] (fun a b c => addV (rdn o) (mulV a b) c.neg) (fun a b c => a * b - c)

/-- The greater or the smaller of two lanes, without rounding (R350). -/
def pickLane (et : BitVec 4) (greater : Bool) (a b : Nat) : Nat :=
  if isFp et then (if greater then maxF (fmtOf et.toNat) a b else minF (fmtOf et.toNat) a b)
  else
    let lt := decide (intOf (isSigned et.toNat) (width et) a < intOf (isSigned et.toNat) (width et) b)
    if lt = greater then b else a

/-- A word that picks lanes. -/
def pickRow (s : State) (wf : Bool) (o : VxOp) (greater : Bool) : Out :=
  vxRow s wf o [o.a, o.b] 3 (fun rows _ =>
    byLane o.et (fun i => pickLane o.et greater (lane (src rows 0) (width o.et) i) (lane (src rows 1) (width o.et) i)))

/-- `VMAX` (R350). -/
def execVmax (o : VxOp) (s : State) : Out := pickRow s (wellFormed (.vmax o)) o true
/-- `VMIN` (R350). -/
def execVmin (o : VxOp) (s : State) : Out := pickRow s (wellFormed (.vmin o)) o false

/-- `VABS` (R350): exact. -/
def execVabs (o : VxOp) (s : State) : Out :=
  arithRow s (wellFormed (.vabs o)) o [o.a] (fun a _ _ => a.abs) (fun a _ _ => (a.natAbs : Int))
/-- `VNEG` (R350): exact. -/
def execVneg (o : VxOp) (s : State) : Out :=
  arithRow s (wellFormed (.vneg o)) o [o.a] (fun a _ _ => a.neg) (fun a _ _ => -a)

/-! ### Logic, shifts, compare and select (R351, R352) -/

/-- `VAND` (R351). -/
def execVand (o : VxOp) (s : State) : Out := vxRow s (wellFormed (.vand o)) o [o.a, o.b] 3 (fun r _ => src r 0 &&& src r 1)
/-- `VOR` (R351). -/
def execVor (o : VxOp) (s : State) : Out := vxRow s (wellFormed (.vor o)) o [o.a, o.b] 3 (fun r _ => src r 0 ||| src r 1)
/-- `VXOR` (R351). -/
def execVxor (o : VxOp) (s : State) : Out := vxRow s (wellFormed (.vxor o)) o [o.a, o.b] 3 (fun r _ => src r 0 ^^^ src r 1)

/-- A shift of lanes by lane i of B or by SH (R351). -/
def shiftRow (s : State) (wf : Bool) (o : VxOp) (f : Nat → Nat → Nat → Nat) : Out :=
  let w := width o.et
  vxRow s wf o (if fnBit o 11 then [o.a] else [o.a, o.b]) 3 (fun rows _ =>
    byLane o.et (fun i => f w (lane (src rows 0) w i) (if fnBit o 11 then fnFld o 0 6 else lane (src rows 1) w i)))

/-- The three shifts of a w-bit lane by k. -/
def shlLane (w a k : Nat) : Nat := if w ≤ k then 0 else a * 2 ^ k % 2 ^ w
def shrLane (w a k : Nat) : Nat := if w ≤ k then 0 else a / 2 ^ k
def sraLane (w a k : Nat) : Nat := wrapInt w (intOf true w a / 2 ^ (Nat.min k w))

/-- `VSHL` (R351). -/
def execVshl (o : VxOp) (s : State) : Out := shiftRow s (wellFormed (.vshl o)) o shlLane
/-- `VSHR` (R351). -/
def execVshr (o : VxOp) (s : State) : Out := shiftRow s (wellFormed (.vshr o)) o shrLane
/-- `VSRA` (R351). -/
def execVsra (o : VxOp) (s : State) : Out := shiftRow s (wellFormed (.vsra o)) o sraLane

/-- The predicates of `VCMP` on two lanes (R352). -/
def cmpLane (et : BitVec 4) (c a b : Nat) : Bool :=
  let x := dec (fmtOf et.toNat) a
  let y := dec (fmtOf et.toNat) b
  let i := intOf (isSigned et.toNat) (width et) a
  let j := intOf (isSigned et.toNat) (width et) b
  let unord := isFp et && (x.isNan || y.isNan)
  let lt := if isFp et then ltV false x y else decide (i < j)
  let gt := if isFp et then ltV false y x else decide (j < i)
  let eq := if isFp et then eqV x y else i == j
  match c with
  | 0 => eq
  | 1 => !eq
  | 2 => lt
  | 3 => lt || eq
  | 4 => gt
  | 5 => gt || eq
  | _ => unord

/-- `VCMP` (R352). -/
def execVcmp (o : VxOp) (s : State) : Out :=
  vxRow s (wellFormed (.vcmp o)) o [o.a, o.b] 3 (fun rows _ =>
    let w := width o.et
    byLane o.et (fun i => if cmpLane o.et (fnFld o 0 3) (lane (src rows 0) w i) (lane (src rows 1) w i) then 2 ^ w - 1 else 0))

/-- `VSEL` (R352). -/
def execVsel (o : VxOp) (s : State) : Out :=
  vxRow s (wellFormed (.vsel o)) o [o.a, o.b, o.c] 3 (fun rows _ =>
    let w := width o.et
    byLane o.et (fun i => if lane (src rows 2) w i != 0 then lane (src rows 0) w i else lane (src rows 1) w i))

/-- `VMOV` (R351). -/
def execVmov (o : VxOp) (s : State) : Out := vxRow s (wellFormed (.vmov o)) o [o.a] 3 (fun rows _ => src rows 0)

/-! ### Conversion and block quantisation (R353, R354) -/

/-- Replace `l.length` lanes from lane `at_` on. -/
def replaceLanes (w at_ : Nat) (old : Row) (l : List Nat) : Row :=
  let o := lanesOf old w
  ofLanes w (o.take at_ ++ l ++ o.drop (at_ + l.length))

/-- The amax updates of a list of values, as one landing (R292, R293). -/
def amaxAct (l : List Val) : Act :=
  let r := l.foldl amaxUpdate (0, false, false)
  .amax r.1 r.2.1 r.2.2

/-- `VCVT` (R353). -/
def execVcvt (o : VxOp) (s : State) : Out :=
  let sr := fnFld o 0 4
  let ws := width (BitVec.ofNat 4 sr)
  let wd := width o.et
  let part := fnFld o 7 3
  let n := 4096 / Nat.max ws wd
  let narrow := decide (wd < ws)
  vxWord s (wellFormed (.vcvt o)) o (if narrow then [o.a, o.b] else [o.a]) (srcPops [o.d]) 6 (o.rnd == 4) (fun t rows u =>
    let a := (List.range n).map (fun i => lane (src rows 0) ws (if narrow then i else part * n + i))
    let lo := if narrow then part * n else 0
    let res := (List.range n).map (fun i => convert sr o.et.toNat o.rnd.toNat (fnBit o 4) (uOf o u (lo + i)) (a.getD i 0))
    let t := if fnBit o 5 then t.after .vx 6 (amaxAct (a.map (valOf sr))) else t
    t.rowOut .vx 6 o.d (t.vrow o.d.toNat) (replaceLanes wd lo (if narrow then src rows 1 else 0) res))

/-- One block of `VQBLK`: its scale byte and its elements (R354). -/
def quantBlock (f : Fmt) (mode : Nat) (u : Nat → Nat) (l : List Nat) : Nat × List Nat :=
  let vs := l.map (dec f32)
  if vs.any (fun x => x.isNan || x.isInf) then (255, l.map (fun _ => f.nan))
  else
    let a := l.foldl (fun m x => Nat.max m (x % 2 ^ 31)) 0
    let sc : Nat := match dec f32 a with
      | .fin _ 0 _ => 127
      | .fin _ m e => (Min.min 254 (Max.max 0 ((Nat.log2 m : Int) + e - f.emax + 127))).toNat
      | _ => 127
    let shift := fun (x : Val) => match x with | .fin n m e => Val.fin n m (e + 127 - sc) | x => x
    (sc, (List.range l.length).map (fun j => round f mode true (u j) (shift (vs.getD j .nan))))

/-- `VQBLK` (R354). -/
def execVqblk (o : VxOp) (s : State) : Out :=
  let f := fmtOf o.et.toNat
  let q := fnFld o 10 2
  vxWord s (wellFormed (.vqblk o)) o [o.a, o.b] (srcPops [o.d] ++ [q]) 6 (o.rnd == 4) (fun t rows u =>
    let a := lanesOf (src rows 0) 32
    let bl := (List.range 4).map (fun b => quantBlock f o.rnd.toNat (fun j => uOf o u (32 * b + j)) ((a.drop (32 * b)).take 32))
    let t := if fnBit o 5 then t.after .vx 6 (amaxAct (a.map (dec f32))) else t
    let t := t.rowOut .vx 6 o.d (t.vrow o.d.toNat) (replaceLanes f.w (128 * fnFld o 7 3) (src rows 1) (bl.flatMap (·.2)))
    t.after .vx 6 (.qpush q (BitVec.ofNat 4096 (packLanes 8 (bl.map (·.1))))))

/-! ### Functions of one lane (R355–R357) -/

/-- A word that applies a correctly rounded function to each lane. -/
def funcRow (s : State) (wf : Bool) (o : VxOp) (f : Fmt → Nat → Bool → Nat → Val → Nat) : Out :=
  let m := fmtOf o.et.toNat
  vxRow s wf o [o.a] 6 (fun rows u =>
    byLane o.et (fun i => f m o.rnd.toNat (fnBit o 4) (uOf o u i) (dec m (lane (src rows 0) m.w i))))

/-- `VRCP` (R355). -/
def execVrcp (o : VxOp) (s : State) : Out := funcRow s (wellFormed (.vrcp o)) o rcp
/-- `VRSQ` (R355). -/
def execVrsq (o : VxOp) (s : State) : Out := funcRow s (wellFormed (.vrsq o)) o rsq
/-- `VEXP2` (R355). -/
def execVexp2 (o : VxOp) (s : State) : Out := funcRow s (wellFormed (.vexp2 o)) o exp2V
/-- `VLOG2` (R355). -/
def execVlog2 (o : VxOp) (s : State) : Out := funcRow s (wellFormed (.vlog2 o)) o log2V

/-- Entry e of table T in the scale memory (R356). -/
def Tile.tableEntry (t : Tile) (tbl e : Nat) : Val := dec f32 (lane (t.scaleRow (4 * tbl + e / 128)) 32 (e % 128))

/-- The floor of a finite value. -/
def floorV (x : Val) : Int :=
  match x with
  | .fin s m e => if 0 ≤ e then (Val.fin s m e).scaled 0 else (if s then -(m : Int) else m) / 2 ^ (-e).toNat
  | _ => 0

/-- The limit of the end segment with knots a and b, where b is the outer one (R357). -/
def limitV (a b : Val) : Val :=
  if a.isNan || b.isNan then .nan else if eqV a b then b else .inf (ltV false b a)

/-- `VTIE` of one lane (R357), over table entries `e`; `neg` says that an exact zero sum is −0 (R283). -/
def tieV (neg : Bool) (e : Nat → Val) (x : Val) : Val :=
  let x0 := e 0
  let ih := e 1
  let y := fun (k : Nat) => e (4 + k)
  if x0.isNan || x0.isInf || ih.isNan || ih.isInf || x.isNan then .nan
  else if ih.isZero then (if (y 0).isNan || (y 1).isNan then .nan else y 0)
  else match x with
    | .inf neg => if neg != ih.sign then limitV (y 1) (y 0) else limitV (y 506) (y 507)
    | x =>
      let t := mulV (addV false x x0.neg) ih
      let k := (Min.min 506 (Max.max 0 (floorV t))).toNat
      let f := addV false t (ofInt (-(k : Int)) 0)
      addV neg (y k) (mulV f (addV false (y (k + 1)) (y k).neg))

/-- `VTIE` (R357): the table is read in the issue cycle. -/
def execVtie (o : VxOp) (s : State) : Out :=
  let m := fmtOf o.et.toNat
  vxWord s (wellFormed (.vtie o)) o [o.a] (srcPops [o.d]) 6 (o.rnd == 4) (fun t rows u =>
    t.rowOut .vx 6 o.d (t.vrow o.d.toNat) (byLane o.et (fun i =>
      round m o.rnd.toNat (fnBit o 4) (uOf o u i) (tieV (rdn o) (t.tableEntry (fnFld o 0 2)) (dec m (lane (src rows 0) m.w i))))))

/-- `VTLD` (R356). -/
def execVtld (o : VxOp) (s : State) : Out :=
  vxWord s (wellFormed (.vtld o)) o [o.a] [] 3 false (fun t rows _ => t.after .vx 3 (.scale (fnFld o 0 4) (src rows 0) 0))

/-! ### Reductions, broadcast, permutation, compression (R358–R360) -/

/-- The reduction of all lanes (R358). -/
def reduce (o : VxOp) (u : Nat) (r : Row) : Nat :=
  let l := lanesOf r (width o.et)
  let et := o.et.toNat
  match fnFld o 0 2 with
  | 0 =>
    if isFp o.et then round (fmtOf et) o.rnd.toNat (fnBit o 2) u (sumV (rdn o) (l.map (dec (fmtOf et))))
    else
      let x := l.foldl (fun a v => a + intOf (isSigned et) (width o.et) v) 0
      if fnBit o 2 then satInt (isSigned et) (width o.et) x else wrapInt (width o.et) x
  | 1 => l.foldl (pickLane o.et true) (l.headD 0)
  | _ => l.foldl (pickLane o.et false) (l.headD 0)

/-- `VRED` (R358). -/
def execVred (o : VxOp) (s : State) : Out :=
  vxRow s (wellFormed (.vred o)) o [o.a] 8 (fun rows u =>
    let r := reduce o (uOf o u 0) (src rows 0)
    if qWord o.d then wordRow (if isInt o.et && isSigned o.et.toNat then sext (width o.et) r else BitVec.ofNat 64 r)
    else if fnBit o 3 then byLane o.et (fun _ => r) else BitVec.ofNat 4096 r)

/-- `VBCAST` (R359). -/
def execVbcast (o : VxOp) (s : State) : Out :=
  let w := width o.et
  vxRow s (wellFormed (.vbcast o)) o [o.a] 3 (fun rows _ =>
    byLane o.et (fun _ => lane (src rows 0) w (if qWord o.a then 0 else fnFld o 0 10)))

/-- `VPERM` (R359). -/
def execVperm (o : VxOp) (s : State) : Out :=
  let w := width o.et
  let n := lanes o.et
  -- sources pop in the order A, B, C
  vxRow s (wellFormed (.vperm o)) o (if w = 8 then [o.a, o.b, o.c] else [o.a, o.c]) 8 (fun rows _ =>
    let c := if w = 8 then src rows 2 else src rows 1
    byLane o.et (fun i =>
      let j := if i < 256 then lane c 16 i else lane (src rows 1) 16 (i - 256)
      if n ≤ j then 0 else lane (src rows 0) w j))

/-- The lanes whose selector lane has a bit set. -/
def picked (w : Nat) (a c : Row) : List Nat :=
  (List.range (4096 / w)).filterMap (fun i => if lane c w i != 0 then some (lane a w i) else none)

/-- `VPACK` (R360). -/
def execVpack (o : VxOp) (s : State) : Out :=
  let w := width o.et
  let q := fnFld o 9 2
  vxWord s (wellFormed (.vpack o)) o [o.a, o.c] (srcPops [o.d] ++ (if fnBit o 11 then [q] else [])) 6 false (fun t rows _ =>
    let l := picked w (src rows 0) (src rows 1)
    let t := t.rowOut .vx 6 o.d (t.vrow o.d.toNat) (ofLanes w l)
    if fnBit o 11 then t.after .vx 6 (.qpush q (BitVec.ofNat 4096 l.length)) else t)

/-- Expansion: each selected lane takes the next lane of A (R360). -/
def expand (a b c : List Nat) : List Nat :=
  match b, c with
  | y :: b, z :: c => if z != 0 then a.headD 0 :: expand (a.drop 1) b c else y :: expand a b c
  | _, _ => []

/-- `VUNPK` (R360). -/
def execVunpk (o : VxOp) (s : State) : Out :=
  let w := width o.et
  vxRow s (wellFormed (.vunpk o)) o [o.a, o.b, o.c] 6 (fun rows _ =>
    ofLanes w (expand (lanesOf (src rows 0) w) (lanesOf (src rows 1) w) (lanesOf (src rows 2) w)))

/-! ### Constants, random rows, amax and the window (R361–R363) -/

/-- `VIDX` (R361). -/
def execVidx (o : VxOp) (s : State) : Out :=
  let base : Int := (o.fn).toInt
  vxRow s (wellFormed (.vidx o)) o [] 3 (fun _ _ =>
    byLane o.et (fun i => if isFp o.et then rne32 (ofInt (base + i) 0) else wrapInt (width o.et) (base + i)))

/-- `VRNG` (R349, R361). -/
def execVrng (o : VxOp) (s : State) : Out :=
  vxWord s (wellFormed (.vrng o)) o [] (srcPops [o.d]) 3 true (fun t _ u =>
    t.rowOut .vx 3 o.d (t.vrow o.d.toNat) (byLane o.et u))

/-- `VCLR` (R361). -/
def execVclr (o : VxOp) (s : State) : Out := vxRow s (wellFormed (.vclr o)) o [] 3 (fun _ _ => 0)

/-- `VAMAX` (R362). -/
def execVamax (o : VxOp) (s : State) : Out :=
  vxWord s (wellFormed (.vamax o)) o [o.a] [] 3 false (fun t rows _ =>
    t.after .vx 3 (amaxAct ((lanesOf (src rows 0) (width o.et)).map (valOf o.et.toNat))))

/-- `VWIN` (R363): its write stands over an `SRW` and over the sequencer's advance of the same cycle. -/
def execVwin (o : VxOp) (s : State) : Out :=
  vxWord s (wellFormed (.vwin o)) o [] [] 1 false (fun t _ _ =>
    t.after .vx 1 (.sys 0x080 (BitVec.ofNat 64 (o.d.toNat + o.a.toNat * 2 ^ 8 + fnFld o 0 7 * 2 ^ 16))))

end Sys2Proof.Machine
end

