-- ==== Sys2Proof/Machine/Logit.lean ====
section
/-! DEFINITION. The jobs of the die engines (R217–R220): descriptors, reads and writes, failures; what a Sluice part contributes
and what a failed draw leaves (R223, R225, R226); and the words of a logit program (R406–R409). -/
namespace Sys2Proof.Machine

open Sys2Proof

/-! ### Answers of a job's accesses -/

/-- The answer of an access or a check of a job: it waits, it fails the job with a cause and a subcause, or it goes on. -/
inductive JAns (α : Type) where
  | wait
  | bad (cause sub : Nat)
  | ok (a : α)

/-- What follows when a job goes on. -/
def jbind (x : State × JAns α) (f : State → α → State × JAns β) : State × JAns β :=
  match x with
  | (s, .wait) => (s, .wait)
  | (s, .bad c k) => (s, .bad c k)
  | (s, .ok a) => f s a

/-- A read of a job at the coherence point; a translation fault is FAULT with its subcause (R219, R220). -/
def jread (s : State) (d part va n : Nat) : State × JAns (List Byte) :=
  match s.vmRead d part (linePieces va n) with
  | (s, _, .ok b) => (s, .ok b)
  | (s, a, .fault f) => (if f.sub = 2 then s.nameWay (512 + d) d a else s, .bad 3 f.sub)
  | (s, _, .wait) => (s, .wait)

/-- A write of a job. -/
def jwrite (s : State) (d part va : Nat) (bs : List Byte) : State × JAns Unit :=
  match s.spWrite part (.vm d) va bs with
  | (s, _, .ok _) => (s, .ok ())
  | (s, a, .fault f) => (if f.sub = 2 then s.nameWay (512 + d) d a else s, .bad 3 f.sub)
  | (s, _, .wait) => (s, .wait)

/-- A check of a job: its cause when it fails. -/
def jguard (s : State) (b : Bool) (cause : Nat) : State × JAns Unit := (s, if b then .ok () else .bad cause 0)

/-! ### Descriptors (R218, R221) -/

/-- A die-relative address on a die (R221). -/
def State.dieRel (s : State) (va d : Nat) : Nat := va - vaDie va * 2 ^ 45 + (s.pkg * 4 + d) * 2 ^ 45

/-- The rules of a job descriptor (R218, R394): a Sluice draw also needs a group of one engine member per die of DIEM, in
ascending die order. DESIGN CHOICE (log 112): R218 fails a misaligned address and gives RES, AUX and AE no alignment; each must be a multiple of the 8
bytes that its entries have. -/
def Job.valid (s : State) (j : Job) : Bool :=
  let zero := fun (k : Nat) => j.w k == 0
  wfld (j.w 0) 48 16 == 0 && wfld (j.w 0) 2 10 == 0 && wfld (j.w 0) 0 2 == j.kind && j.nseq ≤ 4096 &&
    j.seqa % 128 == 0 && j.stat % 8 == 0 &&
    (match j.kind with
     | 0 => j.res % 8 == 0 && j.aux % 8 == 0 && j.cs % 8 == 0 && zero 5 && wfld (j.w 7) 16 48 == 0 && j.diem.contains j.home &&
        (match find (s.part j.part).groups j.grp with
         | some g => g.members == j.diem.map (fun d => 2 ^ 31 + (s.pkg * 4 + d) * 128)
         | none => false)
     | 1 => j.grp == 0 && j.diem.isEmpty && zero 2 && zero 3 && zero 4 && zero 5 && zero 7
     | _ => j.grp == 0 && j.res % 8 == 0 && j.aux % 8 == 0 && j.cs % 8 == 0 && j.ae % 8 == 0 && wfld (j.w 7) 16 48 == 0)

/-- The fields of a sequence descriptor (R221). -/
def sdSeq (b : List Byte) : Nat := recFld b 0 4
def sdSfl (b : List Byte) : Nat := recFld b 4 4
def sdProg (b : List Byte) : Nat := recFld b 8 8
def sdTreg (b : List Byte) : Nat := recFld b 0x10 8
def sdLogit (b : List Byte) : Nat := recFld b 0x18 8
def sdStep (b : List Byte) : Nat := recFld b 0x20 4
def sdMax (b : List Byte) : Nat := recFld b 0x24 4
def sdEos (b : List Byte) : Nat := recFld b 0x28 4
def sdSalt (b : List Byte) : Nat := recFld b 0x2C 4
def sdGrpr (b : List Byte) : Nat := recFld b 0x30 8
def sdPnd (b : List Byte) : Nat := recFld b 0x38 8
def sdDraft (b : List Byte) : Nat := recFld b 0x40 8
def sdHtok (b : List Byte) : Nat := recFld b 0x48 8
def sflLive (f : Nat) : Bool := f % 2 == 1
def sflHeld (f : Nat) : Bool := f / 2 % 2 == 1
def sflHver (f : Nat) : Bool := f / 8 % 2 == 1
def sflRing (f : Nat) : Nat := f / 256 % 4
def sflMemb (f : Nat) : Nat := f / 1024 % 64
def pndV (p : Nat) : Bool := p / 2 ^ 31 % 2 == 1

/-- The fields of a best-of-n group record (R227). -/
def grN (b : List Byte) : Nat := recFld b 0 4
def grMargin (b : List Byte) : Nat := recFld b 4 4
def grAlive (b : List Byte) : Nat := recFld b 8 8
def grLeader (b : List Byte) : Nat := recFld b 0x10 4
def grCum (b : List Byte) (m : Nat) : Nat := recFld b (0x100 + 4 * m) 4

/-- The rules of a group record (R227). −0 is a legal margin. -/
def groupOk (b : List Byte) : Bool :=
  let m := dec f32 (grMargin b)
  1 ≤ grN b && grN b ≤ 64 && !m.isNan && (!m.sign || m.isZero) && grLeader b < grN b && leNat ((b.drop 0x14).take 236) == 0

/-- The rules of a sequence descriptor that need no other record (R221). -/
def seqOk (b : List Byte) : Bool :=
  let p := sdPnd b
  sdSfl b / 2 ^ 16 == 0 && sdSfl b / 16 % 16 == 0 && sdSfl b / 4 % 2 == 0 && sdProg b % 32 == 0 && sdTreg b % 65536 == 0 &&
    sdLogit b % 512 == 0 && sdGrpr b % 64 == 0 && sdDraft b % 64 == 0 && leNat (b.drop 0x50) == 0 &&
    p / 2 ^ 32 == 0 && p / 2 ^ 30 % 2 == 0 && p / 2 ^ 19 % 32 == 0 && !(sdDraft b != 0 && pndV p)

/-- A sequence descriptor as a job reads it. -/
def readSeq (s : State) (j : Job) (i : Nat) : State × JAns (List Byte) := jread s j.home j.part (j.seqa + 128 * i) 128

/-- The checks of a descriptor that is used (R221, R227): a group record it names must be sound and hold the member. -/
def checkSeq (s : State) (j : Job) (b : List Byte) : State × JAns Unit :=
  jbind (jguard s (seqOk b) 2) fun s _ =>
    if sdGrpr b = 0 then (s, .ok ())
    else jbind (jread s j.home j.part (sdGrpr b) 512) fun s g => jguard s (groupOk g && sflMemb (sdSfl b) < grN g) 2

/-! ### Jobs of a die -/

/-- The job of a kind that a die runs. -/
def State.job (s : State) (d kind : Nat) : Option Job := (s.die d).jobs.find? (·.kind == kind)
/-- Change the job of a kind of a die. -/
def State.modJob (s : State) (d kind : Nat) (f : Job → Job) : State :=
  s.modDie d (fun x => { x with jobs := x.jobs.map (fun j => if j.kind = kind then f j else j) })

/-- Record a failure: the lowest sequence index stands (R219). -/
def Job.setFail (j : Job) (f : JFail) : Job :=
  match j.fail with
  | some g => if f.seq < g.seq then { j with fail := some f } else j
  | none => { j with fail := some f }

/-- A part of a job fails at a sequence. A Sluice part that fails before it has contributed fails the draw (R223). -/
def State.jobFail (s : State) (d : Nat) (j : Job) (i cause sub : Nat) : State :=
  let s := s.modJob d j.kind (·.setFail ⟨i, cause, d, sub⟩)
  if j.kind = 0 && !j.contributed then s.drawFail j.part j.grp j.gen 5 else s

/-- The pair of a sequence that draws nothing (R223). -/
def skipPair : Word := BitVec.ofNat 64 (0xFFFFFFFF * 2 ^ 32 + f32.nan)

/-- Does a part of the job still have to write a sequence below i (R220)? A part writes its sequences in ascending order. -/
def State.writesBehind (s : State) (j : Job) (i : Nat) : Bool :=
  j.diem.any (fun e => match s.job e 0 with
    | some x => x.home == j.home && x.fail.isNone && decide (x.pairs.length < i)
    | none => false)

/-- A Sluice part writes the normaliser and the candidate of a sequence to AUX and keeps its pair (R225), once the job's writes to lower
sequences have performed (R220); when it has a pair for every sequence it contributes them to the draw. -/
def State.putPair (s : State) (d : Nat) (j : Job) (i norm cand : Nat) (p : Word) : State × JAns Unit :=
  if s.writesBehind j i then (s, .wait)
  else jbind (jwrite s d j.part (j.aux + 8 * (j.nseq * j.pos d + i)) (leBytes 4 norm ++ leBytes 4 cand)) fun s _ =>
    let pairs := put j.pairs i p
    if pairs.length < j.nseq then (s.modJob d 0 (fun j => { j with pairs := pairs }), .ok ())
    else
      let c : Contribution := ⟨3, j.part, j.grp, j.gen, 0, j.pos d, pairs.flatMap (fun e => leBytes 8 e.2.toNat), none, s.stamp, 0, ⟨s.packets, none, 0⟩⟩
      let s := s.modJob d 0 (fun j => { j with pairs := pairs, contributed := true })
      -- a draw that has already failed discards what comes later (R63); a failed bridge on the way to rank 0's engine ends it (R13)
      (if j.drawn.isSome then s else if !s.joined d (j.diem.headD d) then s.drawFail j.part j.grp j.gen 3
        else { s with contribs := s.contribs ++ [c] }.sent 1, .ok ())

/-! ### A running logit program -/

/-- A Sluice engine of a die. -/
def State.sluice (s : State) (d e : Nat) : Sluice := (s.die d).sluices.getD e .reset
def State.setSluice (s : State) (d e : Nat) (x : Sluice) : State := s.modDie d (fun y => { y with sluices := y.sluices.set e x })

/-- What a logit word sees: its die, its engine, its job and the engine's registers. -/
structure LCtx where
  die : Nat
  eng : Nat
  job : Job
  sl : Sluice

/-- The job ends with a cause: its engine stops (R223). -/
def State.logitFail (s : State) (x : LCtx) (cause sub : Nat) : State :=
  (s.setSluice x.die x.eng { x.sl with running := false }).jobFail x.die x.job x.sl.seq cause sub

/-- The outcome of a logit word. -/
def logitEnd (s : State) (x : LCtx) (r : State × JAns Sluice) : Out :=
  match r with
  | (_, .wait) => ok s
  | (t, .bad c k) => ok (t.logitFail x c k)
  | (t, .ok sl) => ok (t.setSluice x.die x.eng sl)

/-- A word of a logit program (R272, R406): a reserved field ends the job with PROG; otherwise it has its effect and the next
word follows. -/
def logitOp (s : State) (i : Instr) (f : State → LCtx → State × JAns Sluice) : Out :=
  let d := s.cur.tile / 4
  let e := s.cur.tile % 4
  match s.job d 0 with
  | none => ok s
  | some j =>
    let x : LCtx := ⟨d, e, j, s.sluice d e⟩
    if !wellFormed i then ok (s.logitFail x 4 0)
    else logitEnd s x (jbind (f s x) fun s sl =>
      (s, .ok { sl with pc := sl.pc + 1 + (match s.cur.q.ext with | some _ => 1 | none => 0) }))

/-- The l and k registers: an l lane starts at +0 (R406). -/
def Sluice.lreg (x : Sluice) (n : Nat) (r : BitVec 4) : List Lane := get (List.replicate n 0) x.l r.toNat
def Sluice.setL (x : Sluice) (r : BitVec 4) (v : List Lane) : Sluice := { x with l := put x.l r.toNat v }
def Sluice.kreg (x : Sluice) (r : BitVec 3) : Lane := get 0 x.k r.toNat
def Sluice.setK (x : Sluice) (r : BitVec 3) (v : Lane) : Sluice := { x with k := put x.k r.toNat v }
def LCtx.l (x : LCtx) (r : BitVec 4) : List Lane := x.sl.lreg x.job.shn r
def LCtx.k (x : LCtx) (r : BitVec 3) : Lane := x.sl.kreg r

/-- The value of a lane, and a rounded value as a lane. -/
def valL (v : Lane) : Val := dec f32 v.toNat
def laneOf (n : Nat) : Lane := BitVec.ofNat 32 n
def rneL (v : Val) : Lane := laneOf (rne32 v)
def negInf : Lane := laneOf (encInf f32 true)
def nanL : Lane := laneOf f32.nan

/-- A word that only changes registers. -/
def logitReg (s : State) (i : Instr) (f : LCtx → Sluice) : Out := logitOp s i (fun s x => (s, .ok (f x)))
/-- A word that maps the lanes of one register. -/
def logitMap (s : State) (i : Instr) (d a : BitVec 4) (f : LCtx → Nat → Lane → Lane) : Out :=
  logitReg s i (fun x => x.sl.setL d ((x.l a).mapIdx (fun k v => f x k v)))
/-- A word whose scalar must be a number from 0 to 1 (R407). -/
def unitOk (p : Val) : Bool := !p.isNan && !ltV false p (.fin false 0 0) && !ltV false (.fin false 1 0) p

/-- The tables of the sequence on a die (R222). -/
def LCtx.table (s : State) (x : LCtx) (off : Nat) : Nat := s.dieRel (sdTreg x.sl.desc) x.die + off

/-- The header of a table region: NB and GEN; outside its limits the job ends with PROG (R222). -/
def readHeader (s : State) (x : LCtx) : State × JAns (Nat × Bool) :=
  jbind (jread s x.die x.job.part (x.table s 0) 128) fun s b =>
    jbind (jguard s (recFld b 0 4 ≤ 1024 && recFld b 4 1 ≤ 1 && leNat (b.drop 5) == 0) 4) fun s _ => (s, .ok (recFld b 0 4, recFld b 4 1 == 1))

/-- The counts of the shard (R222). -/
def readCounts (s : State) (x : LCtx) : State × JAns (List Nat) :=
  jbind (jread s x.die x.job.part (x.table s 0x20000) (2 * x.job.shn)) fun s b => (s, .ok (elems 2 b))

/-! ### Loads and elementwise words (R407) -/

/-- `LLDL` (R407). -/
def execLldl (d : BitVec 4) (s : State) : Out :=
  logitOp s (.lldl d) (fun s x =>
    jbind (jread s x.die x.job.part (s.dieRel (sdLogit x.sl.desc) x.die) (4 * x.job.shn)) fun s b =>
      (s, .ok (x.sl.setL d ((elems 4 b).map laneOf))))

/-- Add the bias entries in order (R407). -/
def addBiases (shn : Nat) (l : List Lane) (es : List (Nat × Lane)) : Option (List Lane) :=
  match es with
  | [] => some l
  | (i, b) :: r => if shn ≤ i then none else addBiases shn (l.set i (rneL (addV false (valL (l.getD i 0)) (valL b)))) r

/-- `LBIAS` (R407). -/
def execLbias (d a : BitVec 4) (s : State) : Out :=
  logitOp s (.lbias d a) (fun s x =>
    jbind (readHeader s x) fun s h =>
      jbind (jread s x.die x.job.part (x.table s 0x1000) (8 * h.1)) fun s b =>
        match addBiases x.job.shn (x.l a) ((elems 8 b).map (fun e => (e % 2 ^ 32, laneOf (e / 2 ^ 32)))) with
        | some l => (s, .ok (x.sl.setL d l))
        | none => (s, .bad 4 0))

/-- The quotient of R407's repetition penalty and temperature, rounded; the spec states no quotient by ±0, by an infinity or by
NaN other than NaN: the value is free there. -/
def divL (free : Lane) (a b : Val) : Lane :=
  match a, b with
  | .nan, _ => nanL
  | _, .nan => nanL
  | .inf s, .fin t m _ => if m = 0 then free else laneOf (encInf f32 (s != t))
  | .fin s m e, .fin t n k =>
    if n = 0 then free
    else
      let x := e - k
      laneOf (if 0 ≤ x then roundQ f32 0 false 0 (s != t) (m * 2 ^ x.toNat) n else roundQ f32 0 false 0 (s != t) m (n * 2 ^ (-x).toNat))
  | _, _ => free

/-- One lane of `LPEN` (R407): c is the count. -/
def penLane (free : Lane) (mode : Nat) (p v : Lane) (c : Nat) : Lane :=
  let x := valL v
  let q := valL p
  if c = 0 then v
  else match mode with
    | 0 => if ltV false (.fin false 0 0) x then divL free x q else rneL (mulV x q)
    | 1 => rneL (sumV false [x, (mulV (.fin false c 0) q).neg])
    | _ => rneL (sumV false [x, q.neg])

/-- `LPEN` (R407): lanes whose quotient the spec does not state get free values. -/
def execLpen (d a : BitVec 4) (k : BitVec 3) (m : BitVec 2) (s : State) : Out :=
  logitOp s (.lpen d a k m) (fun s x =>
    jbind (readCounts s x) fun s cs =>
      let n := s.free
      let l := (x.l a).mapIdx (fun i v => penLane ((Config.bits (n + i)).setWidth 32) m.toNat (x.k k) v (cs.getD i 0))
      ({ s with free := n + x.job.shn }, .ok (x.sl.setL d l)))

/-- `LTEMP` (R407). -/
def execLtemp (d a : BitVec 4) (k : BitVec 3) (s : State) : Out :=
  logitOp s (.ltemp d a k) (fun s x =>
    let t := valL (x.k k)
    jbind (jguard s (!t.isNan && !t.isInf && !t.isZero && !t.sign) 4) fun s _ =>
      (s, .ok (x.sl.setL d ((x.l a).map (fun v => divL 0 (valL v) t)))))

/-- `LMASK` (R407). -/
def execLmask (d a : BitVec 4) (s : State) : Out :=
  logitOp s (.lmask d a) (fun s x =>
    jbind (readHeader s x) fun s h =>
      if !h.2 then (s, .ok (x.sl.setL d (x.l a)))
      else jbind (jread s x.die x.job.part (x.table s 0x4000) ((x.job.shn + 7) / 8)) fun s b =>
        (s, .ok (x.sl.setL d ((x.l a).mapIdx (fun i v => if (b.getD (i / 8) 0).getLsbD (i % 8) then v else negInf)))))

/-- `LSUBX` (R407). -/
def execLsubx (d a : BitVec 4) (k : BitVec 3) (s : State) : Out :=
  logitMap s (.lsubx d a k) d a (fun x _ v => rneL (addV false (valL v) (valL (x.k k)).neg))

/-- `LGUMB` (R407). -/
def execLgumb (d a : BitVec 4) (s : State) : Out :=
  let key := fun (p : Nat) => get 0 s.key p
  logitMap s (.lgumb d a) d a (fun x i v =>
    let c := (x.job.pos x.die * x.job.shn + i, sdStep x.sl.desc, sdSeq x.sl.desc, sdSalt x.sl.desc)
    rneL (addV false (valL v) (dec f32 (gumbelOf (philox (key x.job.part) c 0)))))

/-- A comparison of two lanes as +1.0 or +0 (R352, R407). -/
def cmpL (c : BitVec 3) (a b : Lane) : Lane := if cmpLane 0 c.toNat a.toNat b.toNat then 0x3F800000 else 0
/-- `LCMP` of two registers (R407). -/
def execLcmp (d a b : BitVec 4) (c : BitVec 3) (s : State) : Out :=
  logitMap s (.lcmp d a b c) d a (fun x i v => cmpL c v ((x.l b).getD i 0))
/-- `LCMP` with a scalar (R407). -/
def execLcmpK (d a : BitVec 4) (k : BitVec 3) (c : BitVec 3) (s : State) : Out :=
  logitMap s (.lcmpK d a k c) d a (fun x _ v => cmpL c v (x.k k))
/-- `LSEL` (R407): a NaN selects A. -/
def execLsel (d a b c : BitVec 4) (s : State) : Out :=
  logitMap s (.lsel d a b c) d a (fun x i v => if (valL ((x.l c).getD i 0)).isZero then (x.l b).getD i 0 else v)
/-- `LMOV` (R407). -/
def execLmov (d a : BitVec 4) (s : State) : Out := logitMap s (.lmov d a) d a (fun _ _ v => v)
/-- `LMOV` of a scalar (R407). -/
def execLmovK (d : BitVec 4) (k : BitVec 3) (s : State) : Out :=
  logitReg s (.lmovK d k) (fun x => x.sl.setL d (List.replicate x.job.shn (x.k k)))
/-- `LADD` (R407). -/
def execLadd (d a b : BitVec 4) (s : State) : Out :=
  logitMap s (.ladd d a b) d a (fun x i v => rneL (addV false (valL v) (valL ((x.l b).getD i 0))))
/-- `LADD` of a scalar (R407). -/
def execLaddK (d a : BitVec 4) (k : BitVec 3) (s : State) : Out :=
  logitMap s (.laddK d a k) d a (fun x _ v => rneL (addV false (valL v) (valL (x.k k))))
/-- `LCNT` (R407). -/
def execLcnt (d : BitVec 4) (s : State) : Out :=
  logitOp s (.lcnt d) (fun s x => jbind (readCounts s x) fun s cs => (s, .ok (x.sl.setL d (cs.map (fun c => rneL (.fin false c 0))))))

/-! ### Reductions and truncations (R407) -/

/-- `LMAX` (R407). -/
def execLmax (a : BitVec 4) (k : BitVec 3) (s : State) : Out :=
  logitReg s (.lmax a k) (fun x => match x.l a with
    | [] => x.sl
    | v :: r => x.sl.setK k (laneOf (r.foldl (fun m w => maxF f32 m w.toNat) (maxF f32 v.toNat v.toNat))))

/-- `LSUM` (R407). -/
def execLsum (a : BitVec 4) (k : BitVec 3) (e : BitVec 1) (s : State) : Out :=
  logitReg s (.lsum a k e) (fun x =>
    let l := (x.l a).map valL
    x.sl.setK k (if e = 0 then rneL (sumV false l) else laneOf (lnSum l)))

/-- l − ln Σ e^l of one lane (R407). -/
def logpLane (l : List Val) (v : Val) : Lane :=
  if l.any (fun x => x.isNan || x == .inf false) then nanL
  else match maxFin l with
    | none => rneL v
    | some m =>
      if v.isInf then negInf
      else if (l.filter (fun x => !x.isInf)).length = 1 then 0
      else laneOf (roundSigned f32 0 false 0 (fun p =>
        let t := lnSumIv p m l
        ⟨v.units p - t.hi, v.units p + 1 - t.lo⟩) precisions)
/-- `LLOGP` (R407). -/
def execLlogp (d a : BitVec 4) (s : State) : Out :=
  logitReg s (.llogp d a) (fun x =>
    let l := (x.l a).map valL
    x.sl.setL d ((x.l a).map (fun v => logpLane l (valL v))))

/-- Does one value come before another in rank order, whatever their lanes (R407)? -/
def rankBefore (a b : Val) : Bool := !a.isNan && (b.isNan || ltV false b a)
/-- Insert a lane into a rank order after its equals. -/
def rankInsert (v : Nat → Val) (x : Nat) (l : List Nat) : List Nat :=
  match l with
  | [] => [x]
  | y :: r => if rankBefore (v x) (v y) then x :: y :: r else y :: rankInsert v x r
/-- The lanes in rank order (R407). -/
def rankOrder (l : List Lane) : List Nat :=
  let v := fun (i : Nat) => valL (l.getD i 0)
  (List.range l.length).foldl (fun o x => rankInsert v x o) []
/-- The first lane in rank order. -/
def rankFirst (l : List Lane) : Nat := (rankOrder l).getD 0 0
/-- Keep the named lanes; the others become −∞. -/
def keepLanes (l : List Lane) (ks : List Nat) : List Lane := l.mapIdx (fun i v => if ks.contains i then v else negInf)

/-- `LTOPK` (R407). -/
def execLtopk (d a : BitVec 4) (k : BitVec 3) (s : State) : Out :=
  logitReg s (.ltopk d a k) (fun x =>
    x.sl.setL d (if x.job.shn ≤ (x.k k).toNat then x.l a else keepLanes (x.l a) ((rankOrder (x.l a)).take (x.k k).toNat)))

/-- A product of an interval with a value from 0 to 1. -/
def ivTimes (p : Val) (i : Iv) : Iv :=
  match p with
  | .fin _ m e => if 0 ≤ e then ⟨i.lo * (m * 2 ^ e.toNat : Nat), i.hi * (m * 2 ^ e.toNat : Nat)⟩
      else ⟨i.lo * m / 2 ^ (-e).toNat, i.hi * m / 2 ^ (-e).toNat + 1⟩
  | _ => i

/-- Is the exact sum of e^x over the first m values of a descending list at least p times the whole sum (R407)? Powers of e
with different rational exponents are independent, so equality holds only between equal values; intervals decide the rest. -/
def topEnough (p : Val) (l : List Val) (m : Nat) : Bool :=
  let fin := l.filter (fun v => !v.isInf)
  let isOne := eqV p (.fin false 1 0)
  match fin with
  | [] => true
  | top :: _ =>
    if isOne then fin.length ≤ m
    else if fin.all (eqV top) then
      -- all terms are equal: m ≥ p n
      !ltV false (.fin false (Nat.min m fin.length) 0) (mulV p (.fin false fin.length 0))
    else geIv (fun q =>
      let q := q + 64
      (ivSum ((fin.take m).map (fun v => expNeg q v top)), ivTimes p (ivSum (fin.map (fun v => expNeg q v top))))) precisions

/-- `LTOPP` (R407). -/
def execLtopp (d a : BitVec 4) (k : BitVec 3) (s : State) : Out :=
  logitOp s (.ltopp d a k) (fun s x =>
    let p := valL (x.k k)
    jbind (jguard s (unitOk p) 4) fun s _ =>
      let l := x.l a
      let vs := l.map valL
      if vs.any (fun v => v.isNan || v == .inf false) || vs.all Val.isInf then (s, .ok (x.sl.setL d l))
      else
        let o := rankOrder l
        let sorted := o.map (fun i => vs.getD i .nan)
        let m := ((List.range l.length).map (· + 1)).find? (topEnough p sorted)
        (s, .ok (x.sl.setL d (keepLanes l (o.take (m.getD l.length))))))

/-- Is e^v ≥ p e^m exactly, for v ≤ m (R407)? -/
def minpKeep (p m v : Val) : Bool :=
  if p.isZero then true
  else match v with
    | .fin _ _ _ => eqV v m || geIv (fun q => (expNeg (q + 64) v m, ivTimes p ⟨2 ^ (q + 64), 2 ^ (q + 64)⟩)) precisions
    | _ => false
/-- `LMINP` (R407). -/
def execLminp (d a : BitVec 4) (k : BitVec 3) (s : State) : Out :=
  logitOp s (.lminp d a k) (fun s x =>
    let p := valL (x.k k)
    jbind (jguard s (unitOk p) 4) fun s _ =>
      let l := x.l a
      let vs := (l.map valL).filter (fun v => !v.isNan)
      let top := vs.foldl (fun m v => match m with | none => some v | some w => if ltV false w v then some v else m) none
      let r := match top with
        | none => l.map (fun _ => negInf)
        | some m => if m.isInf then l else l.map (fun v => if !(valL v).isNan && minpKeep p m (valL v) then v else negInf)
      (s, .ok (x.sl.setL d r)))

/-- `LARG` (R407). -/
def execLarg (a : BitVec 4) (k : BitVec 3) (s : State) : Out :=
  logitReg s (.larg a k) (fun x => x.sl.setK k (laneOf (rankFirst (x.l a))))

/-! ### Scalars, control and the group record (R407–R409) -/

/-- `LLDK` of a source (R407). -/
def execLldk (k : BitVec 3) (src : BitVec 4) (s : State) : Out :=
  logitOp s (.lldk k src) (fun s x =>
    match src.toNat with
    | 1 => (s, .ok (x.sl.setK k (laneOf (sdStep x.sl.desc))))
    | 2 => (s, .ok (x.sl.setK k (laneOf (sdSeq x.sl.desc))))
    | 3 => (s, .ok (x.sl.setK k (laneOf x.job.shn)))
    | 4 => (s, .ok (x.sl.setK k (laneOf (x.job.pos x.die))))
    | 5 => jbind (readHeader s x) fun s h => (s, .ok (x.sl.setK k (laneOf h.1)))
    | _ => (s, .bad 4 0))
/-- `LLDK` of a literal (R407). -/
def execLldkLit (k : BitVec 3) (src : BitVec 4) (lit : BitVec 32) (s : State) : Out :=
  logitOp s (.lldkLit k src lit) (fun s x => if src = 0 then (s, .ok (x.sl.setK k lit)) else (s, .bad 4 0))

/-- The condition of `LSKIP` on a k register (R407). -/
def skipCond (int : Bool) (c : Nat) (v : Lane) : Bool :=
  let x := valL v
  let zero := if int then v == 0 else x.isZero
  let neg := if int then v.toInt < 0 else ltV false x (.fin false 0 0)
  let nan := !int && x.isNan
  match c with
  | 0 => zero
  | 1 => !zero
  | 2 => neg
  | 3 => !neg && !nan
  | _ => true
/-- `LSKIP` (R407). -/
def execLskip (k : BitVec 3) (m : BitVec 6) (i : BitVec 1) (c : BitVec 3) (s : State) : Out :=
  logitReg s (.lskip k m i c) (fun x => if skipCond (i == 1) c.toNat (x.k k) then { x.sl with skip := m.toNat } else x.sl)

/-- The word `LEND` with every field 0. -/
def lendWord : Nat := 0x5C000000

/-- `LEMIT` (R408): the next word must be `LEND`; AUX is written, then the pair is contributed. -/
def execLemit (a b : BitVec 4) (s : State) : Out :=
  logitOp s (.lemit a b) (fun s x =>
    jbind (jguard s (!x.sl.emitted && x.sl.pc + 1 ≤ 2047) 4) fun s _ =>
      jbind (jread s x.die x.job.part (sdProg x.sl.desc + 4 * (x.sl.pc + 1)) 4) fun s w =>
        jbind (jguard s (leNat w == lendWord) 4) fun s _ =>
          let k := rankFirst (x.l a)
          let norm := lnSum ((x.l b).map valL)
          let pair := BitVec.ofNat 64 ((x.job.pos x.die * x.job.shn + k) * 2 ^ 32 + ((x.l a).getD k 0).toNat)
          jbind (s.putPair x.die x.job x.sl.seq norm ((x.l b).getD k 0).toNat pair) fun s _ => (s, .ok { x.sl with emitted := true }))

/-- `LEND` (R223, R407): a program that has not emitted contributes as a skipped sequence. -/
def execLend (s : State) : Out :=
  logitOp s .lend (fun s x =>
    if x.sl.emitted then (s, .ok { x.sl with running := false })
    else jbind (s.putPair x.die x.job x.sl.seq negInf.toNat f32.nan skipPair) fun s _ => (s, .ok { x.sl with running := false }))

/-- The group record of the sequence (R409): GRPR = 0 ends the job with PROG, a malformed record with BADSEQ (R227). -/
def readGroup (s : State) (x : LCtx) : State × JAns (List Byte) :=
  jbind (jguard s (sdGrpr x.sl.desc != 0) 4) fun s _ =>
    jbind (jread s x.die x.job.part (sdGrpr x.sl.desc) 512) fun s g =>
      jbind (jguard s (groupOk g && sflMemb (sdSfl x.sl.desc) < grN g) 2) fun s _ => (s, .ok g)

/-- `LGRP` into a k register (R409). -/
def execLgrp (k : BitVec 3) (sel : BitVec 3) (s : State) : Out :=
  logitOp s (.lgrp k sel) (fun s x =>
    jbind (readGroup s x) fun s g =>
      let m := sflMemb (sdSfl x.sl.desc)
      let set := fun (v : Lane) => (s, JAns.ok (x.sl.setK k v))
      match sel.toNat with
      | 0 => set (laneOf (grCum g m))
      | 1 => set (laneOf (grCum g (grLeader g)))
      | 2 => set (if grAlive g / 2 ^ m % 2 = 1 then 0x3F800000 else 0)
      | 3 => set (laneOf (grMargin g))
      | 4 => set (rneL (.fin false (grN g) 0))
      | _ => (s, .bad 4 0))
/-- `LGRP` that adds the member's cumulative log-probability (R409). -/
def execLgrpAddcum (d a : BitVec 4) (s : State) : Out :=
  logitOp s (.lgrpAddcum d a) (fun s x =>
    jbind (readGroup s x) fun s g =>
      (s, .ok (x.sl.setL d ((x.l a).map (fun v => rneL (addV false (valL v) (dec f32 (grCum g (sflMemb (sdSfl x.sl.desc))))))))))

/-! ### Reaching the next word -/

/-- What a running Sluice engine does next (R272, R406): it executes a word, or it passes over one, waits or fails. -/
inductive LNext where
  | moved (s : State)
  | word (s : State) (i : Instr)

/-- Is a word with LIT = 1 one that takes a literal (R272)? The others end the job with PROG before a literal is read. -/
def takesLiteral (w : Lane) : Bool := match decode .logit w (some 0) with | .unassignedOpcode _ _ _ => false | _ => true

/-- The next word of the program on an engine: after `LEMIT` the `LEND` behind it, which that word has read (R223, R408); past word 2,047 the job ends with PROG, a fetch that faults ends it with FAULT,
a skipped word is not checked, and a word with LIT carries the literal behind it. -/
def State.logitFetch (s : State) (d e : Nat) : LNext :=
  match s.job d 0 with
  | none => .moved s
  | some j =>
    let x : LCtx := ⟨d, e, j, s.sluice d e⟩
    if !x.sl.running then .moved s
    else if x.sl.emitted then .word { s with cur := ⟨4 * d + e, .logit, ⟨4 * x.sl.pc, laneOf lendWord, none⟩, false⟩ } .lend
    else if 2047 < x.sl.pc then .moved (s.logitFail x 4 0)
    else match jread s j.home j.part (sdProg x.sl.desc + 4 * x.sl.pc) 4 with
      | (_, .wait) => .moved s
      | (t, .bad c k) => .moved (t.logitFail x c k)
      | (t, .ok b) =>
        let w := laneOf (leNat b)
        let lit := w.getLsbD 0
        if 0 < x.sl.skip then .moved (t.setSluice d e { x.sl with pc := x.sl.pc + 1 + b2n lit, skip := x.sl.skip - 1 })
        else if !lit then
          .word { t with cur := ⟨4 * d + e, .logit, ⟨4 * x.sl.pc, w, none⟩, false⟩ } (decode .logit w none)
        else if !takesLiteral w then
          .word { t with cur := ⟨4 * d + e, .logit, ⟨4 * x.sl.pc, w, none⟩, false⟩ } (.unassignedOpcode .logit w none)
        else if 2047 < x.sl.pc + 1 then .moved (t.logitFail x 4 0)
        else match jread t j.home j.part (sdProg x.sl.desc + 4 * (x.sl.pc + 1)) 4 with
          | (_, .wait) => .moved s
          | (t, .bad c k) => .moved (t.logitFail x c k)
          | (t, .ok b) =>
            let l := laneOf (leNat b)
            .word { t with cur := ⟨4 * d + e, .logit, ⟨4 * x.sl.pc, w, some l⟩, false⟩ } (decode .logit w (some l))

end Sys2Proof.Machine
end

