-- ==== Sys2Proof/Machine/Sq.lean ====
section
/-! DEFINITION. The words of the SQ column (R379–R388) and the combine of scan operators (R192–R194): operator slots, Flight
instructions at their issue, the look-back chain, carries, the Pound with its descriptors, `STEP`, and spill commands. -/
namespace Sys2Proof.Machine

open Sys2Proof

/-! ### Operator images (R193) -/

/-- Byte fields of an image. -/
def imgFld (img : BitVec 1024) (lo n : Nat) : Nat := img.toNat / 2 ^ lo % 2 ^ n
def imgK (img : BitVec 1024) : Nat := imgFld img 8 2 + 1
def imgSteps (img : BitVec 1024) : Nat := imgFld img 0 5
def imgIdent (img : BitVec 1024) (k : Nat) : Nat := imgFld img (64 + 32 * k) 32
def imgStep (img : BitVec 1024) (i : Nat) : Nat := imgFld img (256 + 32 * i) 32

/-- Is an operand code valid at this K: components of x, y and z are below K (R193)? -/
def codeOk (k c : Nat) : Bool := (8 ≤ c && c < 12) || c % 4 < k

/-- Is a step word valid (R193)? -/
def stepOk (k w : Nat) : Bool :=
  let op := w / 2 ^ 28
  let f := fun (lo : Nat) => w / 2 ^ lo % 16
  op ≤ 6 && w / 2 ^ 24 % 4 == 0 && w % 256 == 0 && 8 ≤ f 20 && codeOk k (f 20) && codeOk k (f 16) &&
    ((op != 3 && op != 5 && op != 6) || w / 2 ^ 26 % 4 == 0) &&
    (if op == 6 then f 12 == 0 else codeOk k (f 12)) && (if op == 0 || op == 5 then codeOk k (f 8) else f 8 == 0)

/-- The checks of an image (R193). -/
def imageOk (img : BitVec 1024) : Bool :=
  let k := imgK img
  let n := imgSteps img
  1 ≤ n && n ≤ 16 && imgFld img 5 3 == 0 && imgFld img 10 54 == 0 && imgFld img 192 64 == 0 && imgFld img 768 256 == 0 &&
    (List.range 4).all (fun j => j < k || imgIdent img j == 0) &&
    (List.range 16).all (fun i => if i < n then stepOk k (imgStep img i) else imgStep img i == 0)

/-! ### Combine (R194) -/

/-- One step on the sixteen operands of a lane: x, y, w, z. -/
def combineStep (r : List Nat) (w : Nat) : List Nat :=
  let m := w / 2 ^ 26 % 4
  let a := r.getD (w / 2 ^ 16 % 16) 0
  let b := r.getD (w / 2 ^ 12 % 16) 0
  let c := r.getD (w / 2 ^ 8 % 16) 0
  let d := dec f32
  let rnd := fun (v : Val) => round f32 m false 0 v
  let z := match w / 2 ^ 28 with
    | 0 => rnd (addV (m == 3) (mulV (d a) (d b)) (d c))
    | 1 => rnd (mulV (d a) (d b))
    | 2 => rnd (addV (m == 3) (d a) (d b))
    | 3 => maxF f32 a b
    | 4 => lseV m (d a) (d b)
    | 5 => if c % 2 ^ 31 != 0 then a else b
    | _ => a
  r.set (w / 2 ^ 20 % 16) z

/-- The combine of one lane. -/
def combineLane (img : BitVec 1024) (x y : List Nat) : List Nat :=
  let pad := fun (l : List Nat) => (List.range 4).map (fun k => l.getD k 0)
  (((List.range (imgSteps img)).foldl (fun r i => combineStep r (imgStep img i)) (pad x ++ pad y ++ List.replicate 8 0)).drop 12).take (imgK img)

/-- The combine of two elements, lane by lane (R192, R194). -/
def combine (img : BitVec 1024) (lf rg : List Row) : List Row :=
  let lanes := (List.range 128).map (fun i => combineLane img (lf.map (fun r => lane r 32 i)) (rg.map (fun r => lane r 32 i)))
  (List.range (imgK img)).map (fun k => ofLanes 32 (lanes.map (fun l => l.getD k 0)))

/-- The identity element of an operator. -/
def identRows (img : BitVec 1024) : List Row := (List.range (imgK img)).map (fun k => ofLanes 32 (List.replicate 128 (imgIdent img k)))

/-- K rows from v(r) on, and from row `row` of a Pound slot on. -/
def Tile.vrows (t : Tile) (r k : Nat) : List Row := (List.range k).map (fun i => t.row (r + i))
def Tile.prows (t : Tile) (slot row k : Nat) : List Row := (List.range k).map (fun i => t.poundRow slot (row + i))

/-- Landings of a list of rows. -/
def Tile.rowsOut (t : Tile) (lat r : Nat) (rows : List Row) : Tile :=
  (List.range rows.length).foldl (fun t i => t.after .sq lat (.row (r + i) (rows.getD i 0))) t
def Tile.poundOut (t : Tile) (lat slot row : Nat) (rows : List Row) : Tile :=
  (List.range rows.length).foldl (fun t i => t.after .sq lat (.pound slot (row + i) (rows.getD i 0))) t

/-! ### SQ words -/

/-- An SQ word's attempt to issue; `bad` gives a trap code and subcause. -/
def sqWord (s : State) (wf : Bool) (k : MTok) (nd : Needs) (lat hold : Nat) (bad : Tile → Option Nat) (eff : Tile → Tile) : Out :=
  syncIssue s wf k.tok.dly k.stamp nd (fun s =>
    match bad (s.tile s.cur.tile) with
    | some code => ok (s.trapCur code 0)
    | none => ok (s.fire nd hold (fun t => (eff t).pushToks nd.outs lat)))

/-- The needs of an SQ word. -/
def sqNeeds (k : MTok) : Needs := syncNeeds .sq k.tok [] []

/-- The image of an operator slot, and whether the slot is valid. -/
def Tile.op (t : Tile) (o : Nat) : BitVec 1024 := get 0 t.sq.ops o
def Tile.opValid (t : Tile) (o : Nat) : Bool := t.sq.valid.getLsbD o

/-- `SOPDEF` (R381): the image is checked in the next cycle, in which a failing one is the ILLINSN trap. -/
def execSopdef (k : MTok) (op : BitVec 3) (v : BitVec 7) (s : State) : Out :=
  let nd := sqNeeds k
  syncIssue s (wellFormed (.sopdef k op v)) k.tok.dly k.stamp nd (fun s =>
    let n := s.cur.tile
    let img : BitVec 1024 := BitVec.ofNat 1024 ((s.tile n).row v.toNat).toNat
    if imageOk img then ok (s.fire nd 2 (fun t => (t.after .sq 2 (.opslot op.toNat img)).pushToks nd.outs 2))
    else ok (s.modTile n (fun t =>
      (t.land (t.cnt + 1) 0 (.trap (trapReq tILLINSN (colCode .sq) s.cur.q.addr 0))).setCol .sq { t.col .sq with busy := t.cnt + 2 })))

/-! ### Flight instructions (R195–R204, R382) -/

/-- SQ.MSTEP (R204). -/
def mstepWord (act : Bool) (phase level ws : Nat) : Word := BitVec.ofNat 64 (b2n act * 2 ^ 15 + phase * 2 ^ 12 + level * 2 ^ 8 + ws)

/-- Is a level of the tree inside one die, and the costs of R201? -/
def upCost (l k nstep : Nat) : Nat := if l ≤ 7 then 8 + 2 * k + nstep else 28 + 2 * (k - 1) + nstep
def bcastCost (l k : Nat) : Nat := if l ≤ 7 then 8 + 2 * k else 28 + 2 * (k - 1)
def sumCost (f : Nat → Nat) (ls : List Nat) : Nat := ls.foldl (fun a l => a + f l) 0
def levels (s : Nat) : List Nat := (List.range s).map (· + 1)

/-- The latency L of a form in a gang of 2^s tiles (R201). -/
def flightLat (form : FlightForm) (s k nstep : Nat) : Nat :=
  let u := sumCost (fun l => upCost l k nstep) (levels s)
  match form with
  | .scan => 4 + u + u + nstep
  | .sxsc => 4 + u + u
  | .sup => 4 + u + sumCost (fun l => bcastCost l k) (levels s)
  | .sdn => 4 + u + nstep

/-- The phase of a Flight instruction and the levels completed in it (R204), from the levels completed over all phases. -/
def flightPhase (form : FlightForm) (s lev : Nat) : Nat × Nat :=
  match form with
  | .scan => if lev < s then (1, lev) else if lev < 2 * s then (3, lev - s) else (4, 0)
  | .sxsc => if lev < s then (1, lev) else (3, lev - s)
  | .sup => if lev < s then (1, lev) else (2, lev - s)
  | .sdn => if lev < s then (3, lev) else (4, 0)

/-- How many levels a form runs. -/
def FlightForm.stages (f : FlightForm) (s : Nat) : Nat := match f with | .sdn => s | _ => 2 * s
/-- Log2 of the gang of a tile. -/
def State.gangLog2 (s : State) (n : Nat) : Nat := match s.gangOf n with | some g => g.log2 | none => 0

/-- A Flight form's attempt to issue (R197–R199, R203, R382): e(r) of a rank beyond NLEAF is the identity; the tree value and
e(r) go into the working slot at issue + 1. -/
def flightWord (s : State) (wf : Bool) (k : MTok) (form : FlightForm) (op : BitVec 3) (ws : BitVec 6) (v : BitVec 7) : Out :=
  let nd := { sqNeeds k with unit := true }
  syncIssue s wf k.tok.dly k.stamp nd (fun s =>
    let n := s.cur.tile
    let t := s.tile n
    let o := op.toNat
    let img := t.op o
    let kk := imgK img
    let leaves := wfld t.sq.cfg 0 16
    if !t.opValid o || 127 < v.toNat + kk - 1 || leaves = 0 || t.id.gsize < leaves then ok (s.trapCur tILLINSN 0)
    else if t.slotFree ws.toNat then ok (s.trapCur tADDR 0)
    else
      let rows := t.vrows v.toNat kk
      let e := if t.id.rank < leaves then rows else identRows img
      ok (s.fire nd 1 (fun t =>
        let t := match form with
          | .sdn => t
          | _ => (t.poundOut 1 ws.toNat 0 e).poundOut 1 ws.toNat 8 e
        let fin := t.cnt + flightLat form (s.gangLog2 n) kk (imgSteps img)
        let fl : Flight := { form := form, img := img, k := kk, nstep := imgSteps img, nleaf := leaves, ws := ws.toNat, v := v.toNat, issue := t.cnt, lev := 0, inbox := none, agg := none, seed := rows, miss := none, pushes := nd.outs, num := t.sq.flights, pc := s.cur.q.addr, fin := fin, last := t.cnt + 4, stages := form.stages (s.gangLog2 n), born := s.stamp, res := none, above := none }
        let (ph, lv) := flightPhase form (s.gangLog2 n) 0
        let t := t.land fin (landOrd .sq) (.flightOut fl.num)
        { t with sq := { t.sq with flight := some fl, flights := t.sq.flights + 1, mstep := mstepWord true ph lv ws.toNat } })))

/-- `SCAN` (R382). -/
def execScan (t : MTok) (op : BitVec 3) (ws : BitVec 6) (v : BitVec 7) (s : State) : Out :=
  flightWord s (wellFormed (.scan t op ws v)) t .scan op ws v
/-- `SUP` (R382). -/
def execSup (t : MTok) (op : BitVec 3) (ws : BitVec 6) (v : BitVec 7) (s : State) : Out :=
  flightWord s (wellFormed (.sup t op ws v)) t .sup op ws v
/-- `SDN` (R382). -/
def execSdn (t : MTok) (op : BitVec 3) (ws : BitVec 6) (v : BitVec 7) (s : State) : Out :=
  flightWord s (wellFormed (.sdn t op ws v)) t .sdn op ws v
/-- `SXSC` (R382). -/
def execSxsc (t : MTok) (op : BitVec 3) (ws : BitVec 6) (v : BitVec 7) (s : State) : Out :=
  flightWord s (wellFormed (.sxsc t op ws v)) t .sxsc op ws v

/-- The Flight instruction ends: its destination rows are written, but for those that later words have written since, and its tokens are pushed
(R147, R197, R203). After it the working slot of a gang of one holds d[0][0] (R382). -/
def Tile.flightEnd (t : Tile) (f : Flight) (rows : List Row) : Tile :=
  let t := (List.range rows.length).foldl (fun t i => if (f.above.getD []).contains (f.v + i) then t else t.setRow (f.v + i) (rows.getD i 0)) t
  { t with sq := { t.sq with flight := none, mstep := 0 } }.pushToks f.pushes 0
/-- The writes of a Flight instruction are due: it ends, unless its value is still late (R202). -/
def Tile.flightOut (t : Tile) (num : Nat) : Tile :=
  match t.sq.flight with
  | none => t
  | some f =>
    if f.num != num then t
    else match f.res with
      | some rows => t.flightEnd f rows
      | none => { t with sq := { t.sq with flight := some { f with above := some [] } } }
/-- A row is written while the writes of a Flight instruction are overdue. -/
def Tile.noteRow (t : Tile) (r : Nat) : Tile :=
  match t.sq.flight with
  | none => t
  | some f => { t with sq := { t.sq with flight := some { f with above := f.above.map (· ++ [r]) } } }

/-- `SLBK` (R206, R383). -/
def execSlbk (t : MTok) (op : BitVec 3) (va vb : BitVec 7) (s : State) : Out :=
  let img := (s.tile s.cur.tile).op op.toNat
  let kk := imgK img
  let lat := 5 + imgSteps img
  sqWord s (wellFormed (.slbk t op va vb)) t (sqNeeds t) lat 1
    (fun t => if !t.opValid op.toNat || 127 < va.toNat + kk - 1 || 127 < vb.toNat + kk - 1 then some tILLINSN else none)
    (fun t => t.rowsOut lat vb.toNat (combine img (t.vrows va.toNat kk) (t.vrows vb.toNat kk)))

/-! ### Carries (R207, R384) -/

/-- The ports a carry of a tile may take: any of the route mask that is up and that the bridges reach (R13, R54, R57). -/
def State.towPorts (s : State) (n : Nat) (p : Place) : List Nat := (s.outPorts p.pkg).filter (fun q => s.joined (dieOf n) (portDie q))
/-- Can a carry of a tile be delivered (R57)? -/
def State.carryGoes (s : State) (n : Nat) (p : Place) : Bool := if p.pkg = s.pkg then s.reachable n p else !(s.towPorts n p).isEmpty

/-- `SCSND`: the word holds SQ until the arrival is acknowledged; an undeliverable send is the TOWPATH trap. Between packages the carry takes any
port in the route mask (R54), a free choice. While allowance is out the column holds the word. -/
def execScsnd (t : MTok) (ch tag : BitVec 8) (rb : BitVec 3) (s : State) : Out :=
  let nd := sqNeeds t
  syncIssue s (wellFormed (.scsnd t ch tag rb)) t.tok.dly t.stamp nd (fun s =>
    let n := s.cur.tile
    let x := s.tile n
    let k := wfld x.sq.cfg 16 2 + 1
    let dst := chPlace (x.chan ch.toNat)
    match s.chanCheck n ch.toNat ⟨[1], permSend, [], 512 * k⟩ with
    | some sub => ok (s.trapCur tCHANNEL sub)
    | none =>
      if !s.carryGoes n dst then ok (s.trapCur tTOWPATH 0)
      else if !x.allowOk ch.toNat (512 * k) then ok (s.keepWord nd t.stamp)
      else
        let (_, key) := x.newKey
        let ports := s.towPorts n dst
        let port := if dst.pkg = s.pkg then none else ports[Config.pick s.free % Nat.max 1 ports.length]?
        let c : Carry := ⟨s.place n, dst, tag, x.vrows (16 * rb.toNat) k, key, ch.toNat, s.cur.q.addr, s.boundFor dst, { s.hop dst with port := port }, x.id.part⟩
        let s := s.fire nd 1 (fun t => (t.newKey.1).allowTake ch.toNat (512 * k))
        let s := s.modTile n (fun t => t.setCol .sq { t.col .sq with ackKey := some key, ackToks := nd.outs })
        ok ({ s with carries := s.carries ++ [c], free := s.free + 1 }.sent 1))

/-- Take the oldest entry of a source and tag out of the receive buffer. -/
def takeCarry (p : Place) (tag : BitVec 8) (l : List Carry) : List Carry × List Row :=
  match l with
  | [] => ([], [])
  | c :: r => if c.src = p ∧ c.tag = tag then (r, c.rows) else let (a, b) := takeCarry p tag r; (c :: a, b)

/-- `SCRCV` (R207, R384): it takes the oldest matching entry, and without a stamp waits for one. -/
def execScrcv (t : MTok) (ch tag : BitVec 8) (rb : BitVec 3) (s : State) : Out :=
  let n := s.cur.tile
  let x := s.tile n
  let check := s.chanCheck n ch.toNat ⟨[1], permRecv, [], 0⟩
  let src := chPlace (x.chan ch.toNat)
  let nd := { sqNeeds t with carry := if check.isSome then none else some (src, tag) }
  syncIssue s (wellFormed (.scrcv t ch tag rb)) t.tok.dly t.stamp nd (fun s =>
    match check with
    | some sub => ok (s.trapCur tCHANNEL sub)
    | none =>
      ok (s.fire nd 1 (fun t =>
        let (rest, rows) := takeCarry src tag t.sq.carries
        let t := { t with sq := { t.sq with carries := rest } }
        (t.rowsOut 4 (16 * rb.toNat) rows).pushToks nd.outs 4)))

/-! ### The Pound (R209–R214, R385–R388) -/

/-- A descriptor word with its HELD bit gone or its state changed. -/
def descWord (held busy : Bool) (pair st : Nat) : BitVec 16 := BitVec.ofNat 16 (b2n held * 2 ^ 15 + b2n busy * 2 ^ 14 + pair * 2 ^ 8 + st)
def slotBusy (d : BitVec 16) : Bool := d.getLsbD 14

/-- A descriptor change of R211 as it lands: 0 `PBIND` of one slot, 1 `PBIND` of a pair, 2 `PUNB`, 3 `PSHD`, 4 the commit
engine's exchange. -/
def Tile.descChange (t : Tile) (kind slot other : Nat) : Tile :=
  let d := t.desc slot
  let free := fun (t : Tile) (x : Nat) => t.setDesc x (descWord false (slotBusy (t.desc x)) 0 0)
  match kind with
  | 0 => t.setDesc slot (descWord (slotHeld d) (slotBusy d) 0 1)
  | 1 => (t.setDesc slot (descWord (slotHeld d) (slotBusy d) other 2)).setDesc other
      (descWord (slotHeld (t.desc other)) (slotBusy (t.desc other)) slot 3)
  | 2 => if slotState d = 2 then free (free t slot) (slotPair d) else free t slot
  | _ =>
    let p := slotPair d
    let flip := fun (t : Tile) (x y : Nat) =>
      t.setDesc x (descWord (slotHeld (t.desc x)) (slotBusy (t.desc x)) y (if slotState (t.desc x) = 2 then 3 else 2))
    if slotState d = 2 || slotState d = 3 then flip (flip t slot p) p slot else t

/-- An exchange of the commit engine (R215): in a cycle with a descriptor word of the program, whose change takes effect at the start of the next, it comes
behind that word's (R216, R385). -/
def Tile.exchange (t : Tile) (slot : Nat) : Tile :=
  if t.run && t.pend.any (fun p => match p.act with | .pair _ _ _ => true | _ => false) then t.land (t.cnt + 1) 3 (.pair 4 slot 0) else t.descChange 4 slot 0

/-- A descriptor word (R385). -/
def descWordIssue (s : State) (wf : Bool) (k : MTok) (kind slot other : Nat) (okState : Tile → Bool) : Out :=
  sqWord s wf k (sqNeeds k) 1 1 (fun t => if okState t then none else some tILLINSN)
    (fun t => t.land (t.cnt + 1) 2 (.pair kind slot other))

/-- `PBIND` of one slot (R211). -/
def execPbind (t : MTok) (ps : BitVec 6) (s : State) : Out :=
  descWordIssue s (wellFormed (.pbind t ps)) t 0 ps.toNat 0 (fun t => t.slotFree ps.toNat)
/-- `PBIND` of a pair (R211). -/
def execPbindPair (t : MTok) (ps ph : BitVec 6) (s : State) : Out :=
  descWordIssue s (wellFormed (.pbindPair t ps ph)) t 1 ps.toNat ph.toNat
    (fun t => t.slotFree ps.toNat && t.slotFree ph.toNat && ps != ph)
/-- `PUNB` (R211). -/
def execPunb (t : MTok) (ps : BitVec 6) (s : State) : Out :=
  descWordIssue s (wellFormed (.punb t ps)) t 2 ps.toNat 0
    (fun t => slotState (t.desc ps.toNat) == 1 || slotState (t.desc ps.toNat) == 2)
/-- `PSHD` (R211). -/
def execPshd (t : MTok) (ps : BitVec 6) (s : State) : Out :=
  descWordIssue s (wellFormed (.pshd t ps)) t 3 ps.toNat 0
    (fun t => slotState (t.desc ps.toNat) == 2 || slotState (t.desc ps.toNat) == 3)

/-- `PLD` (R386): the Pound row is read at issue + 1. -/
def execPld (t : MTok) (ps : BitVec 6) (row : BitVec 4) (v : BitVec 7) (s : State) : Out :=
  sqWord s (wellFormed (.pld t ps row v)) t (sqNeeds t) 4 1 (fun t => if t.slotFree ps.toNat then some tADDR else none)
    (fun t => t.land (t.cnt + 1) 1 (.pldRead ps.toNat row.toNat v.toNat))
/-- `PST` (R386). -/
def execPst (t : MTok) (ps : BitVec 6) (row : BitVec 4) (v : BitVec 7) (s : State) : Out :=
  sqWord s (wellFormed (.pst t ps row v)) t (sqNeeds t) 1 1 (fun t => if t.slotFree ps.toNat then some tADDR else none)
    (fun t => t.after .sq 1 (.pound ps.toNat row.toNat (t.row v.toNat)))

/-- The live and the shadow slot of the pair that a slot belongs to. -/
def Tile.livePair (t : Tile) (slot : Nat) : Nat × Nat :=
  if slotState (t.desc slot) = 2 then (slot, slotPair (t.desc slot)) else (slotPair (t.desc slot), slot)

/-- A `STEP` reads the live state and the rows at issue + 1, and puts the combine into the shadow state and the upper rows (R214, R387). -/
def Tile.stepReads (t : Tile) (img : BitVec 1024) (live shad o v : Nat) : Tile :=
  let r := combine img (t.prows live o (imgK img)) (t.vrows v (imgK img))
  (t.poundOut (4 + imgSteps img) shad o r).rowsOut (4 + imgSteps img) (64 + v) r

/-- `STEP` (R214, R387): squashed when the live slot is HELD. -/
def execStep (t : MTok) (ps : BitVec 6) (o : BitVec 4) (op : BitVec 3) (v : BitVec 6) (s : State) : Out :=
  let img := (s.tile s.cur.tile).op op.toNat
  let kk := imgK img
  let lat := 5 + imgSteps img
  sqWord s (wellFormed (.step t ps o op v)) t (sqNeeds t) lat 1
    (fun t => if !t.opValid op.toNat || slotState (t.desc ps.toNat) < 2 || 16 < o.toNat + kk || 63 < v.toNat + kk - 1 then some tILLINSN else none)
    (fun t =>
      let (live, shad) := t.livePair ps.toNat
      if slotHeld (t.desc live) then t else t.land (t.cnt + 1) 1 (.stepRead img live shad o.toNat v.toNat))

/-- The room in the queue of the state-spill engine (R388). -/
def spillDepth : Nat := 8

/-- A spill or fill word (R388): it pops its address and queues its command. -/
def spillWord (s : State) (wf : Bool) (i : Instr) (k : MTok) (ps sw sr : BitVec 6) (now : Bool) : Out :=
  let nd := { sqNeeds k with pops := [0] }
  syncIssue s wf k.tok.dly k.stamp nd (fun s =>
    let n := s.cur.tile
    let t := s.tile n
    let a := qWordOf (t.front 0)
    if a.toNat % 512 != 0 then ok (s.trapCur tILLINSN 0)
    else if t.slotFree ps.toNat then ok (s.trapCur tADDR 0)
    else if spillDepth ≤ t.en.spq.length then ok (s.keepWord nd k.stamp)
    else ok (s.fire nd 1 (fun t =>
      let (t, key) := (t.pop 0).newKey
      let c : Cmd := { key := key, instr := i, pc := s.cur.q.addr, ops := [a], await := if now then none else some (sw.toNat, 1), raise := some sr.toNat, scope := 4, rel := none, chan := none, started := false, lines := 0, performed := false, left := 0, gen := 0, buf := [], ahead := none, allow := 0, status := [], peer := none, since := s.tm.pre, next := 0, prior := none }
      let t := { t with en := { t.en with spq := t.en.spq ++ [c] }, st := { t.st with spills := upd 0 t.st.spills ps.toNat (· + 1) } }
      let d := t.desc ps.toNat
      (t.setDesc ps.toNat (descWord (slotHeld d) true (slotPair d) (slotState d))).pushToks nd.outs 1)))

/-- `PSPILL` (R388). -/
def execPspill (t : MTok) (ps sw sr : BitVec 6) (now : Bool) (s : State) : Out :=
  spillWord s (wellFormed (.pspill t ps sw sr now)) (.pspill t ps sw sr now) t ps sw sr now
/-- `PFILL` (R388). -/
def execPfill (t : MTok) (ps sw sr : BitVec 6) (now : Bool) (s : State) : Out :=
  spillWord s (wellFormed (.pfill t ps sw sr now)) (.pfill t ps sw sr now) t ps sw sr now

end Sys2Proof.Machine
end

