-- ==== Sys2Proof/Machine/Jobs.lean ====
section
/-! DEFINITION. Sluice, acceptance and commit jobs (R217–R237): how a job starts, takes its sequences and ends; the verdicts; the
commit unit with the delivery rings, counts, groups and pairs; holding, retiring and the interrupts of the rings. -/
namespace Sys2Proof.Machine

open Sys2Proof

/-! ### Starting (R132, R217, R218) -/

/-- A job before its first sequence. -/
def newJob (kind part home : Nat) (walker : Option Nat) (rec_ : List Word) : Job where
  kind := kind
  part := part
  home := home
  walker := walker
  rec_ := rec_
  gen := 0
  next := 0
  pass := 0
  retried := []
  pairs := []
  contributed := false
  drawn := none
  csRec := []
  fail := none
  ended := false
  touched := []

/-! ### The state of a walker (R134) -/

def Walker.node (w : Walker) : Nat := wfld w.stat 32 16
def Walker.state (w : Walker) : Nat := wfld w.stat 0 2
def Walker.len (w : Walker) : Nat := wfld w.ctl 32 17
/-- GW.STAT from NODE, CAUSE, SUB and STATE. -/
def walkStat (node cause sub state : Nat) : Word := BitVec.ofNat 64 (node * 2 ^ 32 + cause * 2 ^ 16 + sub * 2 ^ 8 + state)
def State.walker (s : State) (p w : Nat) : Walker := get Walker.reset (s.part p).walkers w
def State.modWalker (s : State) (p w : Nat) (f : Walker → Walker) : State :=
  s.modPart p (fun x => { x with walkers := upd Walker.reset x.walkers w f })
/-- A walk fails: causes 1 to 4 write a fault record with cause GRAPH (R134, R140). -/
def State.walkFail (s : State) (p w cause sub : Nat) : State :=
  let s := s.modWalker p w (fun x => { x with stat := walkStat x.node cause sub 3, waiting := false, stopping := false })
  if cause ≤ 4 then s.writeRecord ⟨10, w, p, (List.replicate 11 0), 0, true⟩ else s
/-- A node has ended: STOP ends the walk, a node past LEN - 1 fails it, and otherwise the walk goes on there (R134). -/
def State.walkGo (s : State) (p w next : Nat) : State :=
  let x := s.walker p w
  if x.stopping then s.walkFail p w 5 0
  else if x.len ≤ next then s.walkFail p w 2 0
  else s.modWalker p w (fun x => { x with stat := walkStat next 0 0 1 })
/-- The job that a walker waits for has ended (R132). -/
def State.walkResume (s : State) (p w : Nat) : State :=
  let x := s.walker p w
  let s := s.modWalker p w (fun x => { x with waiting := false })
  if x.waiting && x.state == 1 then s.walkGo p w (x.node + 1) else s

/-- An engine node starts a job; false while the engine of that kind is busy on a die the job needs, or its descriptor cannot be
read yet (R217). A descriptor that cannot be read ends the job, which has no status word then; one that breaks a rule
ends it with BADJOB. A Sluice draw advances the generation of every member (R394); DESIGN CHOICE (log 113): so
does one with NSEQ = 0, which does no work. -/
def State.startJob (s : State) (kind part home : Nat) (walker : Option Nat) (va : Nat) : State × Bool :=
  if (s.job home kind).isSome then (s, false)
  else match jread s home part va 64 with
    | (_, .wait) => (s, false)
    | (s, .bad _ _) => (match walker with
        | some w => s.walkResume part w
        | none => s, true)
    | (s, .ok b) =>
      let j := newJob kind part home walker ((elems 8 b).map (BitVec.ofNat 64))
      if !j.valid s then (s.modDie home (fun x => { x with jobs := x.jobs ++ [{ j with fail := some ⟨0xFFFF, 1, home, 0⟩, ended := true }] }), true)
      else if kind = 0 then
        if j.diem.any (fun d => (s.job d 0).isSome) then (s, false)
        else
          let g := get ⟨[], false, [], false, []⟩ (s.part part).groups j.grp
          let gen : BitVec 16 := get 0 g.gens (j.pos home) + 1
          let s := s.modPart part (fun p => { p with groups := put p.groups j.grp { g with gens := (List.range g.members.length).map (fun r => (r, get 0 g.gens r + 1)) } })
          (j.diem.foldl (fun s d => s.modDie d (fun x => { x with jobs := x.jobs ++ [{ j with gen := gen }] })) s, true)
      else (s.modDie home (fun x => { x with jobs := x.jobs ++ [j] }), true)

/-! ### The Sluice (R217, R223) -/

/-- `SLUICE_SEQUENCE` (R217, R223): the next sequence of a part goes to the lowest-numbered idle engine; one that is not live or is
held is skipped. -/
def State.sluiceSeq (s : State) (d : Nat) : State :=
  match s.job d 0, (s.die d).sluices.findIdx? (!·.running) with
  | some j, some e =>
    if j.fail.isSome || j.nseq ≤ j.next || j.ended then s
    else
      let i := j.next
      let r := jbind (readSeq s j i) fun s b =>
        if !sflLive (sdSfl b) || sflHeld (sdSfl b) then
          jbind (s.putPair d j i negInf.toNat f32.nan skipPair) fun s _ => (s, .ok ())
        else jbind (checkSeq s j b) fun s _ => (s.setSluice d e { Sluice.reset with running := true, seq := i, desc := b }, .ok ())
      match r with
      | (_, .wait) => s
      | (t, .bad c k) => t.jobFail d j i c k
      | (t, .ok _) => t.modJob d 0 (fun j => { j with next := i + 1 })
  | _, _ => s

/-- `SLUICE_SEQUENCE`. -/
def execSluiceSequence (s : State) : Out := ok (s.sluiceSeq s.arg.die)

/-! ### Acceptance (R229, R230) -/

/-- The fields of a verdict record (R229). -/
def vrK (b : List Byte) : Nat := recFld b 0 4
def vrMode (b : List Byte) : Nat := recFld b 4 4
def vrStep (b : List Byte) : Nat := recFld b 8 4
def vrNacc (b : List Byte) : Nat := recFld b 0xC 4
def vrVst (b : List Byte) : Nat := recFld b 0x10 4
def vrDtok (b : List Byte) (n : Nat) : Nat := recFld b (0x20 + 4 * n) 4
def vrDlq (b : List Byte) (n : Nat) : Nat := recFld b (0x40 + 4 * n) 4
def vrDlp (b : List Byte) (n : Nat) : Nat := recFld b (0x60 + 4 * n) 4
def vrTtok (b : List Byte) (n : Nat) : Nat := recFld b (0x80 + 4 * n) 4
def vrTlp (b : List Byte) (n : Nat) : Nat := recFld b (0xC0 + 4 * n) 4

/-- Is ln((r + 1/2) / 2^32) ≤ x exactly (R230, R286)? -/
def lnLe (r : Nat) (x : Val) : Bool :=
  match x with
  | .nan => false
  | .inf neg => !neg
  | .fin neg m _ =>
    if !neg || m = 0 then true
    else geIv (fun p =>
      let p := p + 64
      let u := lnQ p (2 ^ 33) (2 * r + 1)
      (⟨x.units p + u.lo, x.units p + 1 + u.hi⟩, ⟨0, 0⟩)) precisions

/-- How many drafts are accepted from position n on (R230). -/
def acceptFrom (key : Word) (v d : List Byte) (n fuel : Nat) : Nat :=
  match fuel with
  | 0 => n
  | f + 1 =>
    let yes := if vrMode v = 0 then vrDtok v n == vrTtok v n
      else lnLe (philox key (0xFFFFFF00 + n, sdStep d, sdSeq d, sdSalt d) 0) (sumV false [dec f32 (vrDlp v n), (dec f32 (vrDlq v n)).neg])
    if yes then acceptFrom key v d (n + 1) f else n

/-- `ACCEPT_SEQUENCE` (R230): the next sequence is judged, or skipped. -/
def State.acceptSeq (s : State) (d : Nat) : State :=
  match s.job d 1 with
  | none => s
  | some j =>
    if j.ended then s
    else if j.nseq ≤ j.next then s.modJob d 1 (fun j => { j with ended := true })
    else
      let i := j.next
      let r := jbind (readSeq s j i) fun s b =>
        if !sflLive (sdSfl b) || sflHeld (sdSfl b) || sdDraft b = 0 then (s, .ok ())
        else jbind (checkSeq s j b) fun s _ =>
          jbind (jread s j.home j.part (sdDraft b) 256) fun s v =>
            jbind (jguard s (vrStep v == sdStep b) 8) fun s _ =>
              jbind (jguard s (vrK v ≤ 8 && vrMode v ≤ 1) 2) fun s _ =>
                let n := acceptFrom (get 0 s.key j.part) v b 0 (vrK v)
                jbind (jwrite s j.home j.part (sdDraft b + 0xC) (leBytes 4 n)) fun s _ => jwrite s j.home j.part (sdDraft b + 0x10) (leBytes 4 (vrStep v))
      match r with
      | (_, .wait) => s
      | (t, .bad c k) => (t.jobFail d j i c k).modJob d 1 (fun j => { j with ended := true })
      | (t, .ok _) => t.modJob d 1 (fun j => { j with next := i + 1 })

/-- `ACCEPT_SEQUENCE`. -/
def execAcceptSequence (s : State) : Out := ok (s.acceptSeq s.arg.die)

/-! ### Rings (R103, R104, R235, R237) -/

/-- The fields of RCTL (R103). -/
def Ring.log2n (r : Ring) : Nat := wfld r.ctl 0 5
def Ring.en (r : Ring) : Bool := r.ctl.getLsbD 8
def Ring.vec (r : Ring) : Nat := wfld r.ctl 36 4
def Ring.ccnt (r : Ring) : Nat := wfld r.ctl 40 8
def Ring.ctime (r : Ring) : Nat := wfld r.ctl 48 16

/-- Has a ring room for e entries (R235)? -/
def Ring.room (r : Ring) (e : Nat) : Bool :=
  let used := (r.pidx + 2 ^ 32 - r.cidx) % 2 ^ 32
  r.en && used + e ≤ 2 ^ r.log2n

/-- A delivery entry without its PHASE bit. -/
structure Entry where
  seq : Nat
  tok : Nat
  logp : Nat
  step : Nat
  held : Bool
  acc : Bool
  last : Bool
  deriving DecidableEq, Repr

/-- The 16 bytes of entry k of a ring (R104). -/
def Ring.entryBytes (r : Ring) (e : Entry) (k : Nat) : List Byte :=
  leBytes 4 e.seq ++ leBytes 4 e.tok ++ leBytes 4 e.logp ++ leBytes 3 e.step ++
    leBytes 1 ((1 - k / 2 ^ r.log2n % 2) * 128 + b2n e.held * 4 + b2n e.acc * 2 + b2n e.last)

/-- A ring, and the rings of a partition with one changed. -/
def State.ring (s : State) (p j : Nat) : Ring := get Ring.reset (s.part p).rings j
def State.setRing (s : State) (p j : Nat) (r : Ring) : State := s.modPart p (fun x => { x with rings := put x.rings j r })

/-- The message of a ring (R237). -/
def State.ringMsi (s : State) (p j : Nat) : State :=
  let r := s.ring p j
  (s.setRing p j { r with pend := 0 }).signal p r.vec

/-- Write entries into a ring, then PIDX to RPIDX and the producer word, then the message when CCNT is reached (R104, R233,
R237). -/
def State.deliverEntries (s : State) (p j : Nat) (es : List Entry) : State :=
  let r := s.ring p j
  let host := (es.mapIdx (fun i e => (r.pidx + i, e))).foldl
    (fun h x => h.store (r.base.toNat + 16 * (x.1 % 2 ^ r.log2n)) (r.entryBytes x.2 x.1)) s.host
  let pidx := (r.pidx + es.length) % 2 ^ 32
  let r := { r with pidx := pidx, t1 := if r.pend = 0 then s.stamp else r.t1, pend := r.pend + es.length }
  let s := { s.setRing p j r with host := host.store r.paddr.toNat (leBytes 8 pidx) }
  if r.ccnt ≤ r.pend then s.ringMsi p j else s

/-- `COALESCE_TIMER` (R237). -/
def State.coalesce (s : State) (p j : Nat) : State :=
  let r := s.ring p j
  if r.ctime != 0 && 0 < r.pend && r.t1 + 700 * r.ctime ≤ s.stamp then s.ringMsi p j else s
def execCoalesceTimer (s : State) : Out := ok (s.coalesce s.arg.part s.arg.idx)

/-! ### Commit (R231–R236) -/

/-- A token of a result: the token, its log-probability, and whether it is an accepted draft (R232). -/
abbrev Token := Nat × Nat × Bool

/-- The normaliser of the union of the shards (R232). -/
def foldNorm (l : List Nat) : Nat :=
  match l with
  | [] => encInf f32 true
  | z :: r => r.foldl (fun z n => lnSum [dec f32 z, dec f32 n]) z

/-- The list of a verdict record (R232). -/
def verdictList (v : List Byte) : List Token :=
  let n := vrNacc v
  (List.range n).map (fun k => (vrDtok v k, vrDlp v k, true)) ++ [(vrTtok v n, vrTlp v n, false)]

/-- The token list of a sequence (R232, R236). -/
def tokenList (s : State) (j : Job) (i : Nat) (b : List Byte) : State × JAns (List Token) :=
  let sfl := sdSfl b
  let fromVerdict := fun (s : State) =>
    jbind (jread s j.home j.part (sdDraft b) 256) fun s v =>
      jbind (jguard s (vrVst v == sdStep b) 8) fun s _ => jbind (jguard s (vrNacc v ≤ 8) 2) fun s _ => (s, .ok (verdictList v))
  if sflHeld sfl then
    if sflHver sfl then fromVerdict s else (s, .ok [(sdHtok b % 2 ^ 32, sdHtok b / 2 ^ 32, false)])
  else if sdDraft b != 0 then fromVerdict s
  else
    jbind (jguard s (j.cs != 0) 2) fun s _ =>
      jbind (jread s j.home j.part (j.res + 8 * i) 8) fun s r =>
        let v := dec f32 (recFld r 0 4)
        let x := recFld r 4 4
        if v.isNan || v == .inf true then (s, .ok [(0xFFFFFFFF, encInf f32 true, false)])
        else jbind (jguard s (x < j.vocab) 2) fun s _ =>
          let at_ := fun (k : Nat) => j.aux + 8 * (j.nseq * k + i)
          let norms := j.diem.foldl (fun a d => jbind a fun s l =>
            jbind (jread s j.home j.part (at_ (j.pos d)) 4) fun s b => (s, .ok (l ++ [leNat b]))) (s, JAns.ok [])
          jbind norms fun s ns =>
            jbind (jread s j.home j.part (at_ (x / j.shn) + 4) 4) fun s c =>
              (s, .ok [(x, rne32 (sumV false [dec f32 (leNat c), (dec f32 (foldNorm ns)).neg]), false)])

/-- The entries of a list: tokens after the first END are dropped (R232). -/
def entriesOf (b : List Byte) (l : List Token) (t : Nat) : List Entry :=
  match l with
  | [] => []
  | x :: r =>
    let step := sdStep b + t
    let last := x.1 == sdEos b || x.1 == 0xFFFFFFFF || (sdMax b != 0 && step + 1 == sdMax b)
    let e : Entry := ⟨sdSeq b, x.1, x.2.1, step, t == 0 && sflHeld (sdSfl b), x.2.2, last⟩
    if last then [e] else e :: entriesOf b r (t + 1)

/-- The pair that a sequence names, when it is on a tile of this package: the tile and the slot (R221). -/
def State.pairOf (s : State) (b : List Byte) : Option (Nat × Nat) :=
  let p := sdPnd b
  if pndV p && p / 2 ^ 7 % 4096 / 4 == s.pkg then some (p / 2 ^ 7 % 4 * 128 + p % 128, p / 2 ^ 24 % 64) else none

/-- Does the pair stand (R233)? -/
def State.pairLive (s : State) (b : List Byte) : Bool :=
  match s.pairOf b with
  | none => true
  | some (n, slot) => 2 ≤ slotState ((s.tile n).desc slot)

/-- Set or clear HELD in a descriptor. -/
def heldBit (d : BitVec 16) (h : Bool) : BitVec 16 := BitVec.ofNat 16 (d.toNat % 2 ^ 15 + b2n h * 2 ^ 15)

/-- The live slot of a pair. -/
def Tile.liveSlot (t : Tile) (slot : Nat) : Nat := if slotState (t.desc slot) = 3 then slotPair (t.desc slot) else slot

/-- HELD of the pair of a sequence: set on its live slot, or cleared on both (R235, R236). -/
def State.pairHeld (s : State) (b : List Byte) (h : Bool) : State :=
  match s.pairOf b with
  | none => s
  | some (n, slot) => s.modTile n (fun t =>
      let live := t.liveSlot slot
      let t := t.setDesc live (heldBit (t.desc live) h)
      let shad := slotPair (t.desc live)
      if h then t else t.setDesc shad (heldBit (t.desc shad) false))

/-- The exchange of a committed sequence (R215, R216, R233). -/
def State.pairSwap (s : State) (b : List Byte) : State :=
  match s.pairOf b with
  | none => s
  | some (n, slot) => s.modTile n (fun t => if 2 ≤ slotState (t.desc slot) then t.exchange slot else t)

/-- A count gains one for a token, saturating, in the table of the die that holds the token's shard (R233). -/
def addCount (s : State) (j : Job) (b : List Byte) (tok : Nat) : State × JAns Unit :=
  match j.diem[tok / j.shn]? with
  | none => (s, .ok ())
  | some d =>
    if tok = 0xFFFFFFFF then (s, .ok ())
    else
      let a := s.dieRel (sdTreg b) d + 0x20000 + 2 * (tok % j.shn)
      jbind (jread s j.home j.part a 2) fun s c => jwrite s j.home j.part a (leBytes 2 (Nat.min 0xFFFF (leNat c + 1)))

/-- CUM of the member gains the log-probability of a token (R228). -/
def addCum (s : State) (j : Job) (b : List Byte) (logp : Nat) : State × JAns Unit :=
  if sdGrpr b = 0 then (s, .ok ())
  else
    let a := sdGrpr b + 0x100 + 4 * sflMemb (sdSfl b)
    jbind (jread s j.home j.part a 4) fun s c => jwrite s j.home j.part a (leBytes 4 (rne32 (sumV false [dec f32 (leNat c), dec f32 logp])))

/-- Run a list of steps in order. -/
def jall (s : State) (l : List α) (f : State → α → State × JAns Unit) : State × JAns Unit :=
  match l with
  | [] => (s, .ok ())
  | a :: r => jbind (f s a) fun s _ => jall s r f

/-- The unit of a sequence (R233, R235): it holds the sequence when its ring has no room for the whole list, and commits it
otherwise, which the answer says. A failure at any point leaves the sequence as it was: the caller drops the state. -/
def commitUnitOf (s : State) (j : Job) (i : Nat) (b : List Byte) : State × JAns Bool :=
  jbind (checkSeq s j b) fun s _ =>
    jbind (tokenList s j i b) fun s l =>
      let es := entriesOf b l 0
      let sfl := sdSfl b
      let ring := sflRing sfl
      let sd := j.seqa + 128 * i
      jbind (jguard s (s.pairLive b) 7) fun s _ =>
        if !(s.ring j.part ring).room es.length then
          if sflHeld sfl then (s.pairHeld b true, .ok false)
          else
            let one := sdDraft b == 0
            let x := l.getD 0 (0, 0, false)
            jbind (if one then jwrite s j.home j.part (sd + 0x48) (leBytes 4 x.1 ++ leBytes 4 x.2.1) else (s, .ok ())) fun s _ =>
              jbind (jwrite s j.home j.part (sd + 4) (leBytes 4 (sfl + 2 + (if !one && !sflHver sfl then 8 else 0)))) fun s _ => (s.pairHeld b true, .ok false)
        else
          let s := s.deliverEntries j.part ring es
          jbind (jall s es (fun s e => addCount s j b e.tok)) fun s _ =>
            jbind (jall s es (fun s e => addCum s j b e.logp)) fun s _ =>
              let s := if sflHeld sfl then s.pairHeld b false else s
              let s := s.pairSwap b
              let ended := es.any (·.last)
              let sfl' := sfl - b2n (sflHeld sfl) * 2 - b2n (sflHver sfl) * 8 - b2n (ended && sflLive sfl)
              jbind (jwrite s j.home j.part (sd + 0x20) (leBytes 4 (sdStep b + es.length))) fun s _ =>
                jbind (jwrite s j.home j.part (sd + 4) (leBytes 4 sfl')) fun s _ => (if ended then s.pairHeld b false else s, .ok true)

/-- The descriptors of all sequences of a job. -/
def allSeqs (s : State) (j : Job) : State × JAns (List (List Byte)) :=
  (List.range j.nseq).foldl (fun a i => jbind a fun s l => jbind (readSeq s j i) fun s b => (s, .ok (l ++ [b]))) (s, JAns.ok [])

/-- The alive member with the greatest CUM, the lower number among equals, a NaN lowest (R228). -/
def leaderOf (g : List Byte) : Option Nat :=
  let v := fun (m : Nat) => dec f32 (grCum g m)
  ((List.range (grN g)).filter (fun m => grAlive g / 2 ^ m % 2 == 1)).foldl
    (fun b m => match b with | none => some m | some k => if rankBefore (v m) (v k) then some m else b) none

/-- Retire one member of a group (R228), if its sequence is in the job, not held, and its ring has room: its ALIVE bit and LIVE are cleared. A member
without a sequence in the job has no ring, and stays (log 37). DESIGN CHOICE (log 115): where two sequences name one member, the one of lowest index gives
the ring, LIVE and STEP. -/
def retireMember (s : State) (j : Job) (gva : Nat) (seqs : List (List Byte)) (m : Nat) : State × JAns Unit :=
  match seqs.findIdx? (fun b => sdGrpr b == gva && sflMemb (sdSfl b) == m) with
  | none => (s, .ok ())
  | some i =>
    let b := seqs.getD i []
    let sfl := sdSfl b
    if sflHeld sfl || !(s.ring j.part (sflRing sfl)).room 1 then (s, .ok ())
    else jbind (jread s j.home j.part gva 512) fun s g =>
      let e : Entry := ⟨sdSeq b, 0xFFFFFFFF, grCum g m, sdStep b, false, false, true⟩
      let s := s.deliverEntries j.part (sflRing sfl) [e]
      jbind (jwrite s j.home j.part (gva + 8) (leBytes 8 (grAlive g - grAlive g / 2 ^ m % 2 * 2 ^ m))) fun s _ =>
        jwrite s j.home j.part (j.seqa + 128 * i + 4) (leBytes 4 (sfl - b2n (sflLive sfl)))

/-- The pruning of one group (R228): the leader is written, then members behind it by more than MARGIN are retired. -/
def pruneGroup (s : State) (j : Job) (gva : Nat) : State × JAns Unit :=
  jbind (jread s j.home j.part gva 512) fun s g =>
    match leaderOf g with
    | none => (s, .ok ())
    | some k =>
      jbind (jwrite s j.home j.part (gva + 0x10) (leBytes 4 k)) fun s _ =>
        jbind (allSeqs s j) fun s seqs =>
          let lim := dec f32 (rne32 (sumV false [dec f32 (grCum g k), (dec f32 (grMargin g)).neg]))
          let out := (List.range (grN g)).filter (fun m => m != k && grAlive g / 2 ^ m % 2 == 1 && ltV false (dec f32 (grCum g m)) lim)
          jall s out (fun s m => retireMember s j gva seqs m)

/-- The least element of a list of addresses above a bound. -/
def leastFrom (l : List Nat) : Option Nat := l.foldl (fun m x => match m with | none => some x | some y => some (Nat.min x y)) none

/-- Without a draw (CS = 0) the first sequence that needs one fails the job with BADSEQ, before any sequence is worked on (R231): the answer and the
index it is about. -/
def needDraw (s : State) (j : Job) (l : List Nat) : Nat × State × JAns Unit :=
  match l with
  | [] => (0xFFFF, s, .ok ())
  | i :: r => match readSeq s j i with
    | (s, .wait) => (i, s, .wait)
    | (s, .bad c k) => (i, s, .bad c k)
    | (s, .ok b) => if sdDraft b == 0 && sflLive (sdSfl b) && !sflHeld (sdSfl b) then (i, s, .bad 2 0) else needDraw s j r

/-- `COMMIT_UNIT` (R231, R233, R234): the next unit of a commit job. -/
def State.commitMove (s : State) (d : Nat) : State :=
  match s.job d 2 with
  | none => s
  | some j =>
    let i := j.next
    let stop := fun (s : State) (f : JFail) => s.modJob d 2 (fun j => { j.setFail f with ended := true })
    let goOn := fun (s : State) (f : Job → Job) => s.modJob d 2 f
    let finish := fun (r : State × JAns Unit) (f : Job → Job) (at_ : Nat) => match r with
      | (_, .wait) => s
      | (_, .bad c k) => stop s ⟨at_, c, d, k⟩
      | (t, .ok _) => goOn t f
    -- a group is touched when a unit updates it
    let unit := fun (t : State) (b : List Byte) (f : Job → Job) => match commitUnitOf t j i b with
      | (_, .wait) => s
      | (_, .bad c k) => stop s ⟨i, c, d, k⟩
      | (t, .ok y) => goOn t (fun j => { f j with next := i + 1, touched := if y && sdGrpr b != 0 then j.touched ++ [sdGrpr b] else j.touched })
    if j.ended then s
    else match j.pass with
      | 0 =>
        if j.nseq = 0 then goOn s (fun j => { j with ended := true })
        else if j.cs = 0 then finish (needDraw s j (List.range j.nseq)).2 (fun j => { j with pass := 1 }) (needDraw s j (List.range j.nseq)).1
        else finish (jbind (jread s j.home j.part j.cs 8) fun s b => jguard s (leNat b / 2 ^ 62 == 1) 6) (fun j => { j with pass := 1 }) 0xFFFF
      | 1 =>
        if j.nseq ≤ i then goOn s (fun j => { j with pass := 2, next := 0 })
        else match readSeq s j i with
          | (_, .wait) => s
          | (t, .bad c k) => stop t ⟨i, c, d, k⟩
          | (t, .ok b) =>
            if sflHeld (sdSfl b) then
              unit t b (fun j => { j with retried := j.retried ++ [i] })
            else goOn t (fun j => { j with next := i + 1 })
      | 2 =>
        if j.nseq ≤ i then goOn s (fun j => { j with pass := 3, next := 0 })
        else match readSeq s j i with
          | (_, .wait) => s
          | (t, .bad c k) => stop t ⟨i, c, d, k⟩
          | (t, .ok b) =>
            if sflLive (sdSfl b) && !sflHeld (sdSfl b) && !j.retried.contains i then
              unit t b id
            else goOn t (fun j => { j with next := i + 1 })
      | 3 => match leastFrom j.touched with
        | none => goOn s (fun j => { j with pass := 4 })
        | some g => finish (pruneGroup s j g) (fun j => { j with touched := j.touched.filter (· != g) }) 0xFFFF
      | _ => finish (jbind (allSeqs s j) fun s l =>
          if l.any (fun b => sflLive (sdSfl b)) then (s, .ok ()) else jwrite s j.home j.part j.ae (leBytes 8 1)) (fun j => { j with ended := true }) 0xFFFF
def execCommitUnit (s : State) : Out := ok (s.commitMove s.arg.die)

/-! ### The end of a job (R219) -/

/-- Has the part of a job on a die come to its end? -/
def State.partEnded (s : State) (d : Nat) (j : Job) : Bool :=
  if j.kind != 0 then j.ended
  else j.ended || j.nseq == 0 || (!(s.die d).sluices.any (·.running) && j.fail.isSome) || (j.contributed && j.drawn.isSome)

/-- The sequences fully processed when a commit job has failed (R219). DESIGN CHOICE (log 114): R219 does not say whether an ended sequence that pass 1
has gone past counts; in pass 1 only those that it has retried do. -/
def commitDone (j : Job) : Nat :=
  match j.pass with
  | 0 => 0
  | 1 => j.retried.length
  | 2 => j.next + (j.retried.filter (fun k => j.next < k)).length
  | _ => j.nseq

/-- The status word of a job (R219). -/
def statWord (j : Job) (fails : List JFail) : Nat :=
  let first := fails.foldl (fun m f => match m with
    | none => some f
    | some g => if f.seq < g.seq || (f.seq == g.seq && f.die < g.die) then some f else some g) none
  match first with
  | some f =>
    let done := if f.cause = 1 then 0 else if j.kind = 2 then commitDone j else if f.seq = 0xFFFF then j.nseq else f.seq
    2 * 2 ^ 62 + f.cause * 2 ^ 56 + f.die * 2 ^ 48 + (if f.cause = 3 then f.sub * 2 ^ 43 else 0) + f.seq * 2 ^ 16 + done % 2 ^ 16
  | none =>
    if j.drawn = some false then 2 * 2 ^ 62 + 5 * 2 ^ 56 + j.home * 2 ^ 48 + 0xFFFF * 2 ^ 16 + j.nseq
    else 2 ^ 62 + 0xFFFF * 2 ^ 16 + j.nseq

/-- The job of a kind leaves every die it ran on, its Sluice engines stop, and the walker that waits goes on. -/
def State.dropJob (s : State) (j : Job) : State :=
  let s := (List.range 4).foldl (fun s d =>
    let mine := (s.die d).jobs.any (fun x => x.kind == j.kind && x.home == j.home)
    s.modDie d (fun x => { x with jobs := x.jobs.filter (fun x => !(x.kind == j.kind && x.home == j.home)),
                                  sluices := if mine && j.kind == 0 then x.sluices.map (fun e => { e with running := false }) else x.sluices })) s
  match j.walker with
  | none => s
  | some w => s.walkResume j.part w

/-- `JOB_END` (R219): when every part has ended, the record of a failed draw and then the status word are written, the status word even where the
record cannot be, and the walker goes on. -/
def State.jobEnd (s : State) (d kind : Nat) : State :=
  match s.job d kind with
  | none => s
  | some j =>
    let parts := (List.range 4).filterMap (fun e => match s.job e kind with
      | some x => if x.home == d then some (e, x) else none
      | none => none)
    if j.home != d || !parts.all (fun p => s.partEnded p.1 p.2) then s
    else
      let word := statWord j (parts.filterMap (fun p => p.2.fail))
      let rec_ := if j.csRec.isEmpty || j.cs = 0 then (s, .ok ()) else
        jbind (jwrite s j.home j.part (j.cs + 8) (j.csRec.drop 8)) fun s _ => jwrite s j.home j.part j.cs (j.csRec.take 8)
      let stat := fun (s : State) => match (if j.stat % 8 != 0 then (s, .ok ()) else jwrite s j.home j.part j.stat (leBytes 8 word)) with
        | (_, .wait) => none
        | (s, _) => some (s.dropJob j)
      match rec_ with
      | (_, .wait) => s
      | (t, _) => (stat t).getD s
def execJobEnd (s : State) : Out := ok (s.jobEnd s.arg.die s.arg.idx)

/-- The part of a job on a die stops at its entry boundary, with the cause RESET at the sequence it had come to (R109, R219); its
walker no longer waits for it, and `JOB_END` writes the status word. A commit that has done its last sequence stops at none. A draw that is not
done fails with REMOTEFAULT (R223). -/
def State.stopJob (s : State) (d : Nat) (j : Job) : State :=
  let at_ := if j.kind = 0 then ((s.die d).sluices.filter (·.running)).foldl (fun m e => Nat.min m e.seq) j.next else j.next
  let f : JFail := ⟨if j.nseq ≤ at_ || (j.kind = 2 && 3 ≤ j.pass) then 0xFFFF else at_, 9, d, 0⟩
  (if j.kind = 0 then s.drawFail j.part j.grp j.gen 5 else s).modDie d (fun x => { x with
    jobs := x.jobs.map (fun i => if i.kind = j.kind then { i with fail := some (i.fail.getD f), ended := true, walker := none } else i),
    sluices := if j.kind = 0 then x.sluices.map (fun e => { e with running := false }) else x.sluices })

end Sys2Proof.Machine
end

