-- ==== Sys2Proof/Machine/Mx.lean ====
section
/-! DEFINITION. The words of the MX column (R366–R378): array steps over the B latch with masks, scales and causal factors,
`MTILE`, the selection words, and the accumulator moves. -/
namespace Sys2Proof.Machine

open Sys2Proof

/-! ### Elements -/

/-- The format of an MX element type (R264), if it is a float type. -/
def mxFmt (et : Nat) : Option Fmt :=
  match et with
  | 0 => some e4m3 | 1 => some e5m2 | 4 => some e2m1 | 5 => some bf16 | 6 => some f16
  | _ => none

/-- The width of an MX element. -/
def mxWidth (et : Nat) : Nat := if et = 4 then 4 else if et < 5 then 8 else 16

/-- The kept elements of one K-row of a column (R369). -/
def kept (et : Nat) : Nat := 3072 / mxWidth et

/-- The K-row of the latch as one number, and the bits of a column (R328). -/
def latchPlane (m : SMap Row) : Nat := packLanes 4096 ((List.range 96).map (fun k => (get 0 m k).toNat))
def colBits (plane c : Nat) : Nat := plane / 2 ^ (3072 * c) % 2 ^ 3072

/-- Element j of packed bits. -/
def elem (bits w j : Nat) : Nat := bits / 2 ^ (w * j) % 2 ^ w

/-- Byte b of the scale memory. -/
def Tile.scaleByte (t : Tile) (b : Nat) : Nat := lane (t.scaleRow (b / 512 % 16)) 8 (b % 512)

/-- The value of an element: exact; an integer type gives an integer. -/
def mxVal (et v : Nat) : Val :=
  match mxFmt et with
  | some f => dec f v
  | none => ofInt (intOf (et == 2) 8 v) 0

/-- The N of a sparsity code (R369). -/
def spnN (spn : Nat) : Nat := 8 * spn

/-- The bytes of the A span (R369). -/
def spanOf (form : MxForm) (spn : Nat) : Nat :=
  match form with
  | .sparse => 12288 / Nat.max 1 (spnN spn)
  | _ => 384

/-- The mask of group g of column c (R374). -/
def Tile.maskWord (t : Tile) (c g : Nat) : Nat := lane (get 0 t.mx.mask ((192 * c + 4 * g) / 512)) 32 ((192 * c + 4 * g) % 512 / 4)

/-- The groups of a column that a sparse step uses (R370). -/
def groupsOf (spn et : Nat) : Nat := kept et / Nat.max 1 (spnN spn)

/-- The dense positions that the masks of a column keep, in ascending order (R291, R374). -/
def Tile.keptPos (t : Tile) (c groups : Nat) : List Nat :=
  (List.range groups).flatMap (fun g =>
    let m := t.maskWord c g
    (List.range 32).filterMap (fun j => if m / 2 ^ j % 2 = 1 then some (32 * g + j) else none))

/-- Does every mask that a sparse step uses keep exactly N elements (R370)? -/
def Tile.masksOk (t : Tile) (et : Nat) : Bool :=
  (List.range 128).all (fun c => (List.range (groupsOf t.mx.spn et)).all (fun g =>
    (List.range 32).countP (fun j => t.maskWord c g / 2 ^ j % 2 == 1) == spnN t.mx.spn))

/-! ### One array step -/

/-- The row index of a step and whether a column is masked (R369, R376). -/
def Tile.rowIndex (t : Tile) (acc : Nat) : Nat := (acc + 128 - t.mx.rbase) % 128
def Tile.live (t : Tile) (acc : Nat) : Nat := if t.mx.mode = 0 then 128 else t.rowIndex acc + 1

/-- The product of one kept element with its scales and factor (R288, R289, R369). -/
def mxProduct (et a b : Nat) (sa sb : Nat) (f : Option Val) : Val :=
  if sa = 255 || sb = 255 then .nan
  else
    let p := mulV (mxVal et a) (mxVal et b)
    let p := match p with | .fin s m e => Val.fin s m (e + ((sa : Int) + sb - 254)) | p => p
    match f with
    | some x => mulV p x
    | none => p

/-- The dot product of one column, rounded once, or exact for an integer type (R288–R290, R369). `a` holds the A span. -/
def Tile.dotCol (t : Tile) (form : MxForm) (et acc a plane c : Nat) : Nat :=
  let w := mxWidth et
  let b := colBits plane c
  let pos := match form with | .sparse => t.keptPos c (groupsOf t.mx.spn et) | _ => List.range (kept et)
  let f := if t.mx.mode = 2 then
      some (mulV (dec f32 (lane (t.scaleRow t.mx.rrow) 32 (t.rowIndex acc))) (dec f32 (lane (t.scaleRow t.mx.qrow) 32 c)))
    else none
  let ps := (List.range (kept et)).map (fun i =>
    let j := pos.getD i 0
    let sa := match form with | .scaled => t.scaleByte ((4 * t.mx.aptr + j / 32) % 8192) | _ => 127
    let sb := match form with | .scaled => t.scaleByte (4096 * t.mx.breg + 32 * c + j / 32) | _ => 127
    mxProduct et (elem a w j) (elem b w i) sa sb f)
  if (mxFmt et).isSome then rne32 (sumV false ps) else wrapInt 32 (ps.foldl (fun s p => s + p.scaled 0) 0)

/-- An array step reads its A span at issue + 1, before what lands in that count (R186, R369). -/
def Tile.arrayRead (t : Tile) (form : MxForm) (et acc x : Nat) (ovw : Bool) : Tile := t.land (t.cnt + 1) 1 (.arrRead form et acc x ovw)

/-- The read, and the landing of the step at issue + 9 (R369): columns from `live` on are masked. -/
def Tile.arrayStep (t : Tile) (form : MxForm) (et acc x : Nat) (ovw : Bool) : Tile :=
  let a := leNat (t.st.spad.bytes x (spanOf form t.mx.spn))
  let plane := latchPlane t.mx.latch
  let n := t.live acc
  let d := ofLanes 32 ((List.range 128).map (fun c => if c < n then t.dotCol form et acc a plane c else 0))
  t.after .mx 8 (if ovw then .row acc d else if (mxFmt et).isSome then .accF acc n d else .accI acc n d)

/-- What an array word needs at issue. -/
def mxNeeds (k : MTok) (arrays : Bool) : Needs := { syncNeeds .mx k.tok [] [] with arrays := arrays }

/-- A span of the scratchpad that an MX word addresses (R367). -/
def spanOk (x n : Nat) : Bool := x % 32 == 0 && x + n ≤ 0x200000

/-- An MX word's attempt to issue: `bad` gives a trap, otherwise `eff` is its effect, with the last write cycle `lat` and the
cycles `hold` before the next MX word. -/
def mxWord (s : State) (wf : Bool) (k : MTok) (arrays : Bool) (lat hold : Nat) (bad : Tile → Option Nat) (eff : Tile → Tile) : Out :=
  let nd := mxNeeds k arrays
  syncIssue s wf k.tok.dly k.stamp nd (fun s =>
    match bad (s.tile s.cur.tile) with
    | some code => ok (s.trapCur code 0)
    | none => ok (s.fire nd hold (fun t => (eff t).pushToks nd.outs lat)))

/-- The traps of an array form (R367, R370). -/
def arrayBad (form : MxForm) (et p : Nat) (t : Tile) : Option Nat :=
  let spn := t.mx.spn
  if !t.patOk p then some tILLINSN
  else if (match form with | .sparse => spn == 0 | _ => spn != 0) then some tILLINSN
  else if t.mx.mode = 2 && (mxFmt et).isNone then some tILLINSN
  else if !spanOk (t.patAddr p (t.areg (8 + p))).toNat (spanOf form spn) then some tADDR
  else if form = .sparse && !t.masksOk et then some tILLINSN
  else none

/-- An array form (R367–R369). Its step of the a register stands below those of LD, ST and `MOVA` in the same cycle. -/
def arrayWord (s : State) (wf : Bool) (form : MxForm) (k : MTok) (acc : BitVec 7) (p : BitVec 3) (et : BitVec 3) (ovw : Bool) : Out :=
  mxWord s wf k true 9 1 (arrayBad form et.toNat p.toNat) (fun t =>
    let x := (t.patAddr p.toNat (t.areg (8 + p.toNat))).toNat
    let t' := (t.arrayRead form et.toNat acc.toNat x ovw).land (t.cnt + 1) 3 (.areg (8 + p.toNat) (t.areg (8 + p.toNat) + 1))
    match form with
    | .scaled => t'.after .mx 1 (.aptr ((t.mx.aptr + kept et.toNat / 128) % 2048))
    | _ => t')

/-- `MMA` (R369). -/
def execMma (t : MTok) (acc : BitVec 7) (p et : BitVec 3) (ovw : Bool) (s : State) : Out :=
  arrayWord s (wellFormed (.mma t acc p et ovw)) .dense t acc p et ovw
/-- `MMAS` (R369). -/
def execMmas (t : MTok) (acc : BitVec 7) (p et : BitVec 3) (ovw : Bool) (s : State) : Out :=
  arrayWord s (wellFormed (.mmas t acc p et ovw)) .sparse t acc p et ovw
/-- `MMAX` (R369). -/
def execMmax (t : MTok) (acc : BitVec 7) (p et : BitVec 3) (ovw : Bool) (s : State) : Out :=
  arrayWord s (wellFormed (.mmax t acc p et ovw)) .scaled t acc p et ovw

/-! ### MTILE (R371, R372) -/

/-- The shape of an `MTILE`: M and KR. -/
def Tile.mtShape (t : Tile) (p : Nat) : Nat × Nat := (t.bound p 0, t.bound p 1)

/-- The traps of `MTILE` (R367, R371). -/
def mtileBad (acc p : Nat) (t : Tile) : Option Nat :=
  let (m, kr) := t.mtShape p
  if !t.patOk p || t.mx.spn != 0 || 2 ≤ t.mx.mode || 128 < m || 16 < kr || t.bound p 2 != 1 || t.bound p 3 != 1 || 127 < acc + m - 1 then
    some tILLINSN
  else if !(t.patAddrs p (8 + p) (kr * m)).all (fun x => spanOk x 384) then some tADDR
  else none

/-- The selects and row steps of an `MTILE`, each as a landing in its cycle; the select of group 0 takes place in the issue cycle itself. -/
def Tile.mtSteps (t : Tile) (acc et p : Nat) (ovw : Bool) : Tile :=
  let (m, kr) := t.mtShape p
  let h := Nat.max m 4
  let xs := t.patAddrs p (8 + p) (kr * m)
  (List.range kr).foldl (fun t k =>
    (List.range m).foldl (fun t i =>
      t.land (t.cnt + 4 + k * h + i) 200 (.mtStep k (kr * m - (k * m + i + 1)) (i + 1 == m) (acc + i) (xs.getD (k * m + i) 0) et (ovw && k == 0)))
      (if k = 0 then t else t.land (t.cnt + k * h) 200 (.mtSel k))) t

/-- The 96 rows of a K-row of the B-operand slice (R328). -/
def Tile.kRow (t : Tile) (k : Nat) : SMap Row :=
  (List.range 96).filterMap (fun i => let r := get 0 t.st.bslice (96 * k + i); if r = 0 then none else some (i, r))

/-- A select of a K-row: it is read in the next cycle and usable 4 counts later (R368, R373). -/
def Tile.select (t : Tile) (k spn : Nat) : Tile := t.after .mx 4 (.latch k spn (t.kRow k))

/-- `MTILE` (R371). -/
def execMtile (t : MTok) (acc : BitVec 7) (p et : BitVec 3) (ovw : Bool) (s : State) : Out :=
  let x := s.tile s.cur.tile
  let (m, kr) := x.mtShape p.toNat
  let h := Nat.max m 4
  mxWord s (wellFormed (.mtile t acc p et ovw)) t true (12 + (kr - 1) * h + m) (4 + (kr - 1) * h + m) (mtileBad acc.toNat p.toNat) (fun t =>
    let u := (t.mtSteps acc.toNat et.toNat p.toNat ovw).land (t.cnt + 1) 3
      (.areg (8 + p.toNat) (t.areg (8 + p.toNat) + BitVec.ofNat 64 (kr * m)))
    let u := { u with mx := { u.mx with group := some 0, rows := kr * m } }
    (u.select 0 0).land (t.cnt + 4 + (kr - 1) * h + m) 201 .mtEnd)

/-! ### Selection, masks, scales, gating (R373–R377) -/

/-- `MBSEL` (R373). -/
def execMbsel (t : MTok) (spn : BitVec 2) (ksel : BitVec 4) (s : State) : Out :=
  mxWord s (wellFormed (.mbsel t spn ksel)) t true 4 1 (fun _ => none) (fun t => t.select ksel.toNat spn.toNat)

/-- The snapshot of a pattern and the element number from which the masks are read (R366): keys 0–8 and 9. -/
def Tile.patternSnapshot (t : Tile) (p : Nat) : SMap Word :=
  (List.range 9).map (fun f => (f, t.pField p f)) ++ [(9, t.areg (8 + p))]

/-- `MSPX` (R374): row k is read at issue + 1 + k and lands at issue + 4 + k. -/
def execMspx (t : MTok) (pr : BitVec 3) (s : State) : Out :=
  let p := pr.toNat
  mxWord s (wellFormed (.mspx t pr)) t false 51 48
    (fun t => if !t.patOk p then some tILLINSN else if !(t.patAddrs p (8 + p) 48).all (fun x => spanOk x 512) then some tADDR else none)
    (fun t =>
      let xs := t.patAddrs p (8 + p) 48
      let u := (List.range 48).foldl (fun u k => u.land (t.cnt + 1 + k) 1 (.mspxRead k (xs.getD k 0))) t
      let u := { u with mx := { u.mx with msrc := t.patternSnapshot p } }
      u.land (t.cnt + 1) 3 (.areg (8 + p) (t.areg (8 + p) + 48)))

/-- `MSCL` (R375). -/
def execMscl (t : MTok) (b : BitVec 1) (a : BitVec 11) (s : State) : Out :=
  mxWord s (wellFormed (.mscl t b a)) t false 1 1 (fun _ => none) (fun t => t.after .mx 1 (.mscl b.toNat a.toNat))

/-- `MMSK` (R376). -/
def execMmsk (t : MTok) (m : BitVec 2) (b : BitVec 7) (r q : BitVec 4) (s : State) : Out :=
  mxWord s (wellFormed (.mmsk t m b r q)) t false 1 1 (fun _ => none) (fun t => t.after .mx 1 (.mmsk m.toNat b.toNat r.toNat q.toNat))

/-- `MWAKE` (R377): the idle counts restart at issue, and the gated sub-arrays are ungated at issue + 24. -/
def execMwake (t : MTok) (m : BitVec 4) (s : State) : Out :=
  mxWord s (wellFormed (.mwake t m)) t false 24 1 (fun _ => none) (fun t =>
    let idle := (List.range 4).foldl (fun i k => if m.getLsbD k then put i k t.cnt else i) t.mx.idle
    ({ t with mx := { t.mx with idle := idle } }).land (t.cnt + mxWake) 0 (.ungate m))

/-! ### Accumulator moves (R378) -/

/-- `MACLR` (R378). -/
def execMaclr (t : MTok) (d : BitVec 7) (n : BitVec 5) (s : State) : Out :=
  mxWord s (wellFormed (.maclr t d n)) t false 3 1 (fun _ => none) (fun t =>
    (List.range (n.toNat + 1)).foldl (fun t j => t.after .mx 3 (.row (d.toNat + j) 0)) t)

/-- `MACMV` (R378). -/
def execMacmv (t : MTok) (d sr : BitVec 7) (n : BitVec 5) (s : State) : Out :=
  mxWord s (wellFormed (.macmv t d sr n)) t false 3 1 (fun _ => none) (fun t =>
    (List.range (n.toNat + 1)).foldl (fun u j => u.after .mx 3 (.row (d.toNat + j) (t.row (sr.toNat + j)))) t)

/-- `MTRN` (R378): the transpose of a 32 × 32 block of lanes. -/
def execMtrn (t : MTok) (d sr : BitVec 7) (g : BitVec 2) (s : State) : Out :=
  mxWord s (wellFormed (.mtrn t d sr g)) t false 6 1 (fun _ => none) (fun t =>
    (List.range 32).foldl (fun u i =>
      u.after .mx 6 (.laneG (d.toNat + i) g.toNat (BitVec.ofNat 1024 (packLanes 32
        ((List.range 32).map (fun j => lane (t.row (sr.toNat + j)) 32 (32 * g.toNat + i))))))) t)

end Sys2Proof.Machine
end

