-- ==== Sys2Proof/Machine/Ld.lean ====
section
/-! DEFINITION. The words of the LD column (R321–R330): scratchpad rows and pieces into rows, queues, scale rows, Pound rows and
the B-operand slice, and loads from virtual memory into queues. -/
namespace Sys2Proof.Machine

open Sys2Proof

/-- The update of an address register by `c` elements, which lands at issue + 1 (R322). -/
def Tile.stepAreg (t : Tile) (c : Col) (a n : Nat) : Tile := t.after c 1 (.areg a (t.areg a + BitVec.ofNat 64 n))

/-- The needs of an LD word that pushes queue entries. -/
def ldNeeds (dly : BitVec 3) (popR pushR : Bool) (pushes : List Nat) : Needs := syncNeeds .ld (ldTok dly popR pushR) [] pushes

/-- What a local form of LD does when it issues (R321–R325): `c` addresses, `bad` those that are the ADDR trap, `eff` the
landings, `lat` the last write cycle, `hold` the cycles before the next LD word. -/
def ldLocalFire (s : State) (k : Needs) (a p c lat hold : Nat) (bad : Tile → List Nat → Bool) (eff : Tile → List Nat → Tile) : Out :=
  let t := s.tile s.cur.tile
  if !t.patOk p then ok (s.trapCur tILLINSN 0)
  else
    let xs := t.patAddrs p a c
    if bad t xs then ok (s.trapCur tADDR 0)
    else ok (s.fire k hold (fun t => ((eff t xs).stepAreg .ld a c).pushToks k.outs lat))

/-- A local form of LD with MOD and RN. -/
def ldLocal (s : State) (wf : Bool) (o : LdOp) (pushes : List Nat) (c : Nat) (bad : Tile → List Nat → Bool) (eff : Tile → List Nat → Tile) : Out :=
  let k := ldNeeds o.dly o.popR o.pushR pushes
  syncIssue s wf o.dly none k (fun s => ldLocalFire s k o.a.toNat o.p.toNat c 4 1 bad eff)

/-- Is the one row address illegal (R323)? -/
def badRow (_ : Tile) (xs : List Nat) : Bool := !xs.all rowAddrOk

/-- The first of a list of addresses. -/
def first (xs : List Nat) : Nat := xs.headD 0

/-- The row of sixteen pieces (R327). -/
def gather (t : Tile) (xs : List Nat) : Row := bytesRow (xs.flatMap (fun x => t.st.spad.bytes x 32))

/-- Where a row register or a queue takes a row under a quarter mask (R324). -/
def rowDst (rn : BitVec 8) (keep : BitVec 4) : LdDst :=
  match qName rn with
  | some q => .queue q keep
  | none => .row rn.toNat keep

/-- What has been read lands in its destination; a queue receives zeros in the masked quarters (R324). -/
def LdDst.act (d : LdDst) (v : Row) : Act :=
  match d with
  | .row r keep => .rowKeep r v keep
  | .queue q keep => .qpush q (keepQuarters keep 0 v)
  | .scale r keep => .scale r v keep
  | .pound slot k => .pound slot k v

/-- A local form of LD reads the scratchpad at issue + 1, before what lands in that count, and writes at issue + 4 (R186, R325). -/
def Tile.readInto (t : Tile) (d : LdDst) (xs : List Nat) : Tile := t.land (t.cnt + 1) 1 (.ldRead d xs)

/-- The read: one row, or sixteen pieces. -/
def Tile.ldReads (t : Tile) (d : LdDst) (xs : List Nat) : Tile :=
  t.after .ld 3 (d.act (match xs with | [x] => t.spadRow x | _ => gather t xs))

/-- `LDV` (R327). -/
def execLdv (o : LdOp) (s : State) : Out :=
  ldLocal s (wellFormed (.ldv o)) o (srcPops [o.rn]) 1 badRow (fun t xs => t.readInto (rowDst o.rn o.m) xs)

/-- `LDT` (R327). -/
def execLdt (o : LdNOp) (s : State) : Out :=
  let k := ldNeeds o.dly o.popR o.pushR (srcPops [o.rn])
  syncIssue s (wellFormed (.ldt o)) o.dly none k (fun s =>
    ldLocalFire s k o.a.toNat o.p.toNat 16 4 1 (fun _ xs => !piecesOk xs) (fun t xs => t.readInto (rowDst o.rn 0) xs))

/-- `LDSC` (R327). -/
def execLdsc (o : LdOp) (s : State) : Out :=
  ldLocal s (wellFormed (.ldsc o)) o [] 1 badRow (fun t xs => t.readInto (.scale o.rn.toNat o.m) xs)

/-- `LDP` (R327, R329): a FREE slot is the ADDR trap. -/
def execLdp (o : LdOp) (s : State) : Out :=
  ldLocal s (wellFormed (.ldp o)) o [] 1 (fun t xs => t.slotFree o.rn.toNat || badRow t xs)
    (fun t xs => t.readInto (.pound o.rn.toNat o.m.toNat) xs)

/-- `LDB` (R325, R328): scratchpad chunk k is read at issue + 1 + k and lands in the slice at issue + 4 + k. -/
def execLdb (o : LdNOp) (s : State) : Out :=
  let k := ldNeeds o.dly o.popR o.pushR []
  syncIssue s (wellFormed (.ldb o)) o.dly none k (fun s =>
    ldLocalFire s k o.a.toNat o.p.toNat 96 99 96 badRow (fun t xs =>
      (List.range 96).foldl (fun t j => t.land (t.cnt + 1 + j) 1 (.ldbRead o.rn.toNat j (xs.getD j 0))) t))

/-! ### Loads from memory -/

/-- The gang count at which the data of an LD memory form enters its queue: issue + 4 on a hit of the tile data cache; a miss
returns later, at a time the architecture leaves open; never before the pushes of earlier LD words (R325, R437). -/
def Tile.ldDue (t : Tile) (hit : Bool) (extra : Nat) : Nat :=
  t.pend.foldl (fun m p => if p.ord == landOrd .ld || p.ord == 1 then (match p.push with | some (_, d) => Nat.max m d | none => m) else m)
    (t.cnt + 4 + (if hit then 0 else extra))

/-- The deferred point of an uncorrectable error (R163, R326): the load pushes nothing, and its trap waits for CT. -/
def deferred (c : Col) (pc : Nat) : TrapReq := trapReq tUNCORR (colCode c) pc 0

/-- What a load pushes: an entry, which comes through a port when another package owns its address (R50). -/
def State.pushOf (s : State) (va q : Nat) (r : Row) : Act :=
  match s.localDie va with
  | some _ => .qpush q r
  | none => match s.portFor (vaPlace va) with
    | some p => .farPush p q r s.cur.q.addr (BitVec.ofNat 64 va)
    | none => .qpush q r

/-- A memory form of LD (R323, R325–R327): `size` bytes, naturally aligned; `rows` the entries it pushes. Data of another package are on their way until
they are pushed (R50). DESIGN CHOICE (log 103): XFLT.VA holds the address of the access, whichever of its lines fails. -/
def ldMem (s : State) (wf : Bool) (o : LdOp) (pushes : List Nat) (size : Nat) (rows : List Byte → List Row) : Out :=
  let k := ldNeeds o.dly o.popR o.pushR pushes
  syncIssue s wf o.dly none k (fun s =>
    let n := s.cur.tile
    let t := s.tile n
    if !t.patOk o.p.toNat then ok (s.trapCur tILLINSN 0)
    else
      let x := (t.patAddr o.p.toNat (t.areg o.a.toNat)).toNat
      if x % size != 0 then ok (s.trapCur tILLINSN 0)
      else
        let s' := if o.m = 0 then s else s.acquireCache n o.m 4
        if o.m != 0 && s'.cacheHeld n o.m 4 then ok s' else
        match s'.tileRead n x size (o.m != 0) with
        | (_, .wait) => ok s
        | (s', .fault f) =>
          if f.sub = 14 then
            ok (s'.fire k 1 (fun t =>
              let d := t.ldDue false 0
              let t := (k.pushes.foldl Tile.unreserve t).land d 0 (.trap (deferred .ld s.cur.q.addr))
              (t.stepAreg .ld o.a.toNat 1).pushToks k.outs (d - t.cnt)))
          else ok (s'.trapXlat n (colCode .ld) s.cur.q.addr x 0 f false)
        | (s', .ok (bs, hit)) =>
          let (s', e) := s'.fresh
          ok (s'.fire k 1 (fun t =>
            let d := t.ldDue hit e
            let t := (rows bs).foldl (fun t r => t.land d (landOrd .ld) (s'.pushOf x (o.rn.toNat - 128) r)) t
            (t.stepAreg .ld o.a.toNat 1).pushToks k.outs (d - t.cnt))))

/-- `LDQ` (R327). -/
def execLdq (o : LdOp) (s : State) : Out :=
  ldMem s (wellFormed (.ldq o)) o (srcPops [o.rn]) 8 (fun bs => [bytesRow bs])
/-- `LDG` (R327). -/
def execLdg (o : LdOp) (s : State) : Out :=
  ldMem s (wellFormed (.ldg o)) o (srcPops [o.rn]) 512 (fun bs => [bytesRow bs])
/-- `LDX` (R327): eight words, the lowest address first. -/
def execLdx (o : LdOp) (s : State) : Out :=
  ldMem s (wellFormed (.ldx o)) o ((srcPops [o.rn]).flatMap (List.replicate 8)) 64
    (fun bs => (List.range 8).map (fun i => bytesRow ((bs.drop (8 * i)).take 8)))
/-- `LDBC` (R327): a row of sixteen copies. -/
def execLdbc (o : LdOp) (s : State) : Out :=
  ldMem s (wellFormed (.ldbc o)) o (srcPops [o.rn]) 32 (fun bs => [bytesRow ((List.replicate 16 bs).flatten)])

/-- `LPF` (R330): a prefetch that would fault is dropped. -/
def execLpf (o : LdPOp) (s : State) : Out :=
  let k := ldNeeds o.dly o.popR o.pushR []
  syncIssue s (wellFormed (.lpf o)) o.dly none k (fun s =>
    let n := s.cur.tile
    let t := s.tile n
    if !t.patOk o.p.toNat then ok (s.trapCur tILLINSN 0)
    else
      let x := (t.patAddr o.p.toNat (t.areg o.a.toNat)).toNat / 128 * 128
      let done := fun (s : State) => ok (s.fire k 1 (fun t => (t.stepAreg .ld o.a.toNat 1).pushToks k.outs 1))
      match s.tileRead n x 128 false with
      | (_, .wait) => ok s
      | (_, .fault _) => done s
      | (t, .ok _) => done t)

end Sys2Proof.Machine
end

