-- ==== Sys2Proof/Machine/St.lean ====
section
/-! DEFINITION. The words of the ST column (R321–R326, R331, R332): rows, queue entries and Pound rows into the scratchpad, and
stores to virtual memory. -/
namespace Sys2Proof.Machine

open Sys2Proof

/-- A local form of ST: `c` addresses; `src` pops and reads the source row at issue; `eff` lands it (R323–R325). -/
def stLocal (s : State) (wf : Bool) (tok : Tok) (a p : Nat) (pops : List Nat) (c lat : Nat) (bad : Tile → List Nat → Bool)
    (src : Tile → Tile × Row) (eff : Tile → List Nat → Row → Tile) : Out :=
  let k := syncNeeds .st tok pops []
  syncIssue s wf tok.dly none k (fun s =>
    let t := s.tile s.cur.tile
    if !t.patOk p then ok (s.trapCur tILLINSN 0)
    else
      let xs := t.patAddrs p a c
      if bad t xs then ok (s.trapCur tADDR 0)
      else ok (s.fire k 1 (fun t =>
        let (t, r) := src t
        ((eff t xs r).stepAreg .st a c).pushToks k.outs lat)))

/-- The landing of a row in the scratchpad under a quarter mask. -/
def Tile.spadOut (t : Tile) (lat x : Nat) (keep : BitVec 4) (r : Row) : Tile := t.after .st lat (.spad x r keep)

/-- `STV` (R331). -/
def execStv (o : StOp) (s : State) : Out :=
  stLocal s (wellFormed (.stv o)) o.tok o.a.toNat o.p.toNat (srcPops [o.rn]) 1 1 badRow (·.physSrc o.rn)
    (fun t xs r => t.spadOut 1 (first xs) o.m r)

/-- `STT` (R331). -/
def execStt (o : StNOp) (s : State) : Out :=
  stLocal s (wellFormed (.stt o)) o.tok o.a.toNat o.p.toNat (srcPops [o.rn]) 16 1 (fun _ xs => !piecesOk xs) (·.physSrc o.rn)
    (fun t xs r => (List.range 16).foldl (fun t k => t.after .st 1 (.piece (xs.getD k 0) (BitVec.ofNat 256 (lane r 256 k)))) t)

/-- `STP` (R329, R331): the Pound row is read at issue + 1, in which cycle it takes the spill engine's Pound port. -/
def execStp (o : StOp) (s : State) : Out :=
  stLocal s (wellFormed (.stp o)) o.tok o.a.toNat o.p.toNat [] 1 2 (fun t xs => t.slotFree o.rn.toNat || badRow t xs)
    (fun t => (t, 0)) (fun t xs _ => t.land (t.cnt + 1) 1 (.stpRead o.rn.toNat o.m.toNat (first xs)))

/-- `STC` (R331): every 8-byte word of the row is the popped word. -/
def execStc (o : StOp) (s : State) : Out :=
  stLocal s (wellFormed (.stc o)) o.tok o.a.toNat o.p.toNat (srcPops [o.rn]) 1 1 badRow (·.physSrc o.rn)
    (fun t xs r => t.spadOut 1 (first xs) o.m (ofLanes 64 (List.replicate 64 (qWordOf r).toNat)))

/-- `STZ` (R331). -/
def execStz (o : StZOp) (s : State) : Out :=
  stLocal s (wellFormed (.stz o)) o.tok o.a.toNat o.p.toNat [] 1 1 badRow (fun t => (t, 0))
    (fun t xs r => t.spadOut 1 (first xs) o.m r)

/-! ### Stores to memory -/

/-- A memory form of ST (R323, R325, R326, R331): `size` bytes, naturally aligned; `src` pops the source at issue and gives
the bytes to store, absent where they stay unchanged. A release, and a store to a page with ATTR = 2, goes to the coherence
point after its prior set; any other enters the tile data cache at issue + 1. -/
def stMem (s : State) (wf : Bool) (o : StOp) (pops : List Nat) (size : Nat) (src : Tile → Tile × List (Option Byte)) : Out :=
  let k := syncNeeds .st o.tok pops []
  syncIssue s wf o.tok.dly none k (fun s =>
    let n := s.cur.tile
    let t := s.tile n
    if !t.patOk o.p.toNat then ok (s.trapCur tILLINSN 0)
    else
      let x := (t.patAddr o.p.toNat (t.areg o.a.toNat)).toNat
      if x % size != 0 then ok (s.trapCur tILLINSN 0)
      else match s.storeCheck n x size (o.m != 0) (covers x (src t).2) with
        | (_, .wait) => ok s
        | (s', .fault f) => ok (s'.trapXlat n (colCode .st) s.cur.q.addr x 1 f false)
        | (s', .ok (.cached r w via)) =>
          ok (s'.fire k 1 (fun t =>
            let (t, bs) := src t
            ((t.after .st 1 (.cacheWrite x bs r w via)).stepAreg .st o.a.toNat 1).pushToks k.outs 1))
        | (s', .ok (.direct pa attr)) =>
          ok (s'.fire k 1 (fun t =>
            let prior := t.priorKeys s'.tm.pre o.m
            let (t, bs) := src t
            let (t, key) := t.newKey
            (t.after .st 1 (.coStore x pa attr bs o.m k.outs key prior)).stepAreg .st o.a.toNat 1)))

/-- All the bytes of a row, or of its low `n`. -/
def allBytes (n : Nat) (r : Row) : List (Option Byte) := (leBytes n r.toNat).map some

/-- `STQ` (R331). -/
def execStq (o : StOp) (s : State) : Out :=
  stMem s (wellFormed (.stq o)) o (srcPops [o.rn]) 8 (fun t => let (t, r) := t.physSrc o.rn; (t, allBytes 8 r))
/-- `SCT` (R331). -/
def execSct (o : StOp) (s : State) : Out :=
  stMem s (wellFormed (.sct o)) o (srcPops [o.rn]) 512 (fun t => let (t, r) := t.physSrc o.rn; (t, allBytes 512 r))

/-- The bytes of a row whose mask byte has bit 7 set (R332). -/
def maskedBytes (data mask : Row) : List (Option Byte) :=
  (List.range 512).map (fun j => if mask.getLsbD (8 * j + 7) then some (BitVec.ofNat 8 (lane data 8 j)) else none)

/-- `STM` (R332): data in vRN and mask in v(RN + 1), or two entries of a queue. -/
def execStm (o : StOp) (s : State) : Out :=
  stMem s (wellFormed (.stm o)) o (srcPops [o.rn, o.rn]) 512 (fun t =>
    match qName o.rn with
    | some _ =>
      let (t, d) := t.physSrc o.rn
      let (t, m) := t.physSrc o.rn
      (t, maskedBytes d m)
    | none => (t, maskedBytes (t.row o.rn.toNat) (t.row (o.rn.toNat + 1))))

end Sys2Proof.Machine
end

