-- ==== Sys2Proof/Machine/Land.lean ====
section
/-! DEFINITION. Landing (R146, R147): what the writes of issued instructions do to their tile in the gang count in which they are
due, in the order of R147. -/
namespace Sys2Proof.Machine

open Sys2Proof

/-- Change the parts of a tile. -/
def Tile.modMx (t : Tile) (f : Mx → Mx) : Tile := { t with mx := f t.mx }
def Tile.modSq (t : Tile) (f : Sq → Sq) : Tile := { t with sq := f t.sq }
def Tile.modSt (t : Tile) (f : Stores → Stores) : Tile := { t with st := f t.st }
def Tile.modCt (t : Tile) (f : Ct → Ct) : Tile := { t with ct := f t.ct }
def Tile.modQs (t : Tile) (f : Queues → Queues) : Tile := { t with qs := f t.qs }
def Tile.modFe (t : Tile) (f : Fetch → Fetch) : Tile := { t with fe := f t.fe }
def Tile.modEn (t : Tile) (f : Engines → Engines) : Tile := { t with en := f t.en }
def Tile.modId (t : Tile) (f : Ident → Ident) : Tile := { t with id := f t.id }
def Tile.modWa (t : Tile) (f : Watch → Watch) : Tile := { t with wa := f t.wa }

/-- The first n lanes of a row accumulate: F32 sums rounded once, or sums modulo 2^32 (R288–R290). -/
def accLanes (flt : Bool) (n : Nat) (old d : Row) : Row :=
  ofLanes 32 ((List.range 128).map (fun c =>
    if n ≤ c then lane old 32 c
    else if flt then rne32 (addV false (dec f32 (lane old 32 c)) (dec f32 (lane d 32 c)))
    else (lane old 32 c + lane d 32 c) % 2 ^ 32))

/-- VX.AMAX takes one update (R292, R364). -/
def amaxMerge (w : Word) (v : Lane) (nan inf : Bool) : Word :=
  BitVec.ofNat 64 (maxF f32 (wfld w 0 32) v.toNat + b2n (w.getLsbD 32 || nan) * 2 ^ 32 + b2n (w.getLsbD 33 || inf) * 2 ^ 33)

/-- The advance of the rotating window (R158). -/
def winAdvance (w : Word) : Word :=
  let rs := wfld w 8 8
  if rs = 0 then w else wset w 16 7 ((wfld w 16 7 + rs - 1) % rs)

/-- Lanes 32g to 32g + 31 of a row change (R378). -/
def setGroup (old : Row) (g : Nat) (v : BitVec 1024) : Row :=
  ofLanes 1024 ((List.range 4).map (fun k => if k = g then v.toNat else lane old 1024 k))

/-- A row step of an `MTILE` has issued: the macro-op step follows it, and the last row step of group k ends that group (R366, R372). -/
def Tile.mtMoves (t : Tile) (k left : Nat) (edge : Bool) : Tile :=
  t.modMx (fun m => { m with group := if edge then some (k + 1) else m.group, rows := left, edge := if edge then t.cnt else m.edge })

/-- The landings that change only their tile. One that keeps part of a row, or adds to it, takes the row as it was before this count: the
writes of other columns that land with it are lost (R147). -/
def Tile.landed (t : Tile) (a : Act) : Tile :=
  match a with
  | .row r v => (t.setRow r v).noteRow r
  | .rowKeep r v keep => (t.setRow r (keepQuarters keep (get 0 t.before_.v r) v)).noteRow r
  | .laneG r g v => (t.setRow r (setGroup (get 0 t.before_.v r) g v)).noteRow r
  | .accF r n d => (t.setRow r (accLanes true n (get 0 t.before_.v r) d)).noteRow r
  | .accI r n d => (t.setRow r (accLanes false n (get 0 t.before_.v r) d)).noteRow r
  | .qpush q v => t.push q v
  | .token f => t.modQs (fun q => { q with tok := upd 0 q.tok f (· + 1), tokRoom := upd 0 q.tokRoom f (· - 1) })
  | .areg r v => t.modCt (fun c => { c with areg := put c.areg r v })
  | .preg r v => t.modCt (fun c => { c with preg := put c.preg r v })
  | .sys n v => t.sysWrite n v
  | .spad x v keep => t.setSpad (t.st.spad.store x (rowBytes (keepQuarters keep (t.spadRow x) v)))
  | .piece x v => t.setSpad (t.st.spad.store x (leBytes 32 v.toNat))
  | .pound slot row v => t.setPound slot row v
  | .scale r v keep => t.setScale r (keepQuarters keep (get 0 t.before_.scale r) v)
  | .ldRead d xs => t.ldReads d xs
  | .stpRead slot row x => t.spadOut 1 x 0 (t.poundRow slot row)
  | .arrRead form et acc x ovw => t.arrayStep form et acc x ovw
  | .pldRead slot row v => t.after .sq 3 (.row v (t.poundRow slot row))
  | .stepRead img live shad o v => t.stepReads img live shad o v
  | .ldbRead krow k x => t.after .ld 3 (.bslice krow k (t.spadRow x))
  | .bslice krow k v => t.modSt (fun s => { s with bslice := put s.bslice (96 * krow + k) v })
  | .latch krow spn data => t.modMx (fun m => { m with ksel := krow, spn := spn, latch := data })
  | .mspxRead k x => t.after .mx 3 (.maskRow k (t.spadRow x))
  | .maskRow k v => t.modMx (fun m => { m with mask := put m.mask k v })
  | .mscl b a => t.modMx (fun m => { m with breg := b, aptr := a })
  | .aptr n => t.modMx (fun m => { m with aptr := n })
  | .mmsk mode rb r q => t.modMx (fun m => { m with mode := mode, rbase := rb, rrow := r, qrow := q })
  | .ungate g => t.modMx (fun m => { m with gated := m.gated &&& ~~~g })
  | .opslot o img => t.modSq (fun q => { q with ops := put q.ops o img, valid := q.valid ||| BitVec.ofNat 8 (2 ^ o) })
  | .pair kind slot other => t.descChange kind slot other
  | .amax v nan inf => t.modSq (fun q => { q with amax := amaxMerge q.amax v nan inf })
  | .wbAdvance => t.modSq (fun q => { q with win := winAdvance q.win })
  | .mtSel k => t.select k 0
  | .mtStep k left edge acc x et ovw => (t.useArrays.arrayRead .dense et acc x ovw).mtMoves k left edge
  | .mtEnd => t.modMx (fun m => { m with group := none, rows := 0 })
  | .trap r => t.request r
  | .farPush _ q v _ _ => t.push q v
  | .cacheWrite va bytes r w via => t.cachePut va bytes r w via
  | .raise n v => t.raise n v.toNat false
  | .coStore _ _ _ _ _ _ _ _ => t
  | .flightOut num => t.flightOut num
  | .nothing => t

/-- A store waits behind the others that wait. -/
def State.storeBack (s : State) (n : Nat) (a : Act) : State := s.modTile n (fun t => t.land 0 49 a)
/-- A store of a tile waits that came before. -/
def Tile.storeAhead (t : Tile) : Bool := t.pend.any (fun p => p.ord == 49)

/-- A store to the coherence point (R171, R176): a release performs only after its prior set, and after earlier stores that
still wait; its tokens then follow. What the cache holds of its bytes leaves the cache first (R174), and so does every dirty byte before a release
(R176); while a slice holds one of them, or the store, it waits (R87, R90). A way that has gone since the check is the fault NODIE (R13, R50). -/
def State.landStore (s : State) (n va pa attr : Nat) (bytes : List (Option Byte)) (mask : BitVec 4) (toks : List Nat) (key : Nat)
    (prior : List Nat) : State :=
  let t := s.tile n
  let a := Act.coStore va pa attr bytes mask toks key prior
  let len := bytes.length
  if !t.priorDone prior || t.storeAhead || (match s.localDie va with | some d => (linesOf va len).any (fun x => (s.die d).heldIndex (vaOff x)) | none => false) then s.storeBack n a
  else if s.cutOff (dieOf n) va then
    if !t.run then s else
    (s.nameRoute n va ⟨2, 0⟩).modTile n (fun t => t.request ⟨tTRANSLATION, colCode .st, t.pc .st, 2, false, BitVec.ofNat 64 va,
      xfltInfo va t.id.part (colCode .st) 1 ⟨2, 0⟩⟩)
  else
    let s := (if mask = 0 then s else s.releaseCache n mask 4).flushRange n va len
    if (mask != 0 && s.backHeld n (fun _ => true)) || s.backHeld n (fun x => (sectorsOf va len).contains x) then s.storeBack n a
    else ((s.mend va pa bytes).writeAt t.id.part va pa attr bytes).modTile n (·.pushToks toks 0)

/-- One landing. -/
def State.landAct (s : State) (n : Nat) (a : Act) : State :=
  match a with
  | .coStore va pa attr bytes mask toks key prior => s.landStore n va pa attr bytes mask toks key prior
  | .cacheWrite va bytes r w via =>
    if (s.tile n).storeAhead || s.roomWaits n va bytes.length then s.storeBack n a else s.cacheStore n va bytes r w via
  | a => s.modTile n (·.landed a)

/-- A landing of the handler's among those of the present count, in the order of R147 and R363: behind what waited from earlier counts. -/
def withLanding (cnt : Nat) (l : List Pend) (p : Pend) : List Pend :=
  l.filter (fun q => decide (q.due < cnt || q.ord ≤ p.ord)) ++ [p] ++ l.filter (fun q => !decide (q.due < cnt || q.ord ≤ p.ord))
/-- What lands in a tile now. While the gang stands at a count, what lands in that count waits for its resumption (R155); the words of the handler
land by the cycles of CT. -/
def Tile.landsNow (t : Tile) (stands : Bool) (p : Pend) : Bool := decide (p.due < t.cnt) || (p.due == t.cnt && (!stands || p.act.toMemory))
def Tile.dueNow (t : Tile) (stands : Bool) : List Pend :=
  (t.ct.lands.filter (fun p => decide (p.due ≤ t.ct.clk))).foldl (withLanding t.cnt) (t.pend.filter (t.landsNow stands))
/-- What remains to land. -/
def Tile.landed_ (t : Tile) (stands : Bool) : Tile :=
  { t with pend := t.pend.filter (fun p => !t.landsNow stands p), ct := { t.ct with lands := t.ct.lands.filter (fun p => decide (t.ct.clk < p.due)) }, old := some t.before_ }
/-- All landings of a tile that are due at its gang count (R146, R147). -/
def State.landTile (s : State) (n : Nat) (stands : Bool) : State :=
  let due := (s.tile n).dueNow stands
  if due.isEmpty then s else due.foldl (fun s p => s.landAct n p.act) (s.modTile n (·.landed_ stands))

end Sys2Proof.Machine
end

