-- ==== Sys2Proof/Machine/Power.lean ====
section
/-! DEFINITION. Package reset and the thermal trip (R28, R112, R167), the Weir (R29–R36), time (R37–R41), telemetry (R42, R43) and
the gating of matrix sub-arrays (R44). -/
namespace Sys2Proof.Machine

open Sys2Proof

/-- Change the Weir, the time registers and telemetry. -/
def State.modPw (s : State) (f : Power → Power) : State := { s with pw := f s.pw }
def State.modTm (s : State) (f : Time → Time) : State := { s with tm := f s.tm }
def State.modTe (s : State) (f : Tele → Tele) : State := { s with te := f s.te }

/-- A free value and the advance of its counter. -/
def State.freshBits (s : State) : State × Word := ({ s with free := s.free + 1 }, Config.bits s.free)

/-! ### Reset -/

/-- SPAD.HEALTH after the power-on bank test: the bank that fails is marked (R22, R167). -/
def bankTest (bank : Nat) : Word := if bank < 18 then wset (wset 0 31 1 1) 24 5 bank else 0x1F000000


/-- Package reset (R19, R113, R167): every register and every tile returns to its reset state and the stamp counter stops. What
lies outside the package stays: host memory, what other packages hold, which second tier is attached, failed bridges and the
messages already sent. The outcome of the tests at boot is the outside world's: bit t of `fails` says that tile t fails the self-test,
and byte 64 + t names the scratchpad bank that fails there, if below 18; the bytes from 576 on are the pager image that Redric has
verified, and with none the image stays. -/
def State.packageReset (s : State) (fails : List Byte) (boot : Word) : State :=
  let tiles := (List.range 512).filterMap (fun n =>
    let bank := (fails.getD (64 + n) 0x1F).toNat
    let boot := (fails.getD (n / 8) 0).getLsbD (n % 8)
    if boot || decide (bank < 18) then
      some (n, { Tile.reset with wa := { Watch.reset with bootFail := boot },
                                 st := { Stores.reset with health := bankTest bank } })
    else none)
  { State.reset with
    pkg := s.pkg, tiles := tiles, bridges := s.bridges, cxlUp := s.cxlUp, cxlSize := s.cxlSize, far := s.far, host := s.host,
    msi := s.msi, notices := s.notices, inputs := s.inputs, arg := s.arg, cur := s.cur, free := s.free, boot := boot,
    pager := if fails.length ≤ 576 then s.pager else Memory.store [] 0 ((fails.drop 576).take 0x2000),
    pw := { Power.reset with held := s.pw.held }, agenda := if wfld boot 0 3 == 4 then [] else State.reset.agenda }

/-- PF.BOOTSTAT as the boot of R113 leaves it, from what it reports: an image that failed and why, which is stage 4, or no failure, which is
stage 2 until a partition is created. The values that do not occur do not (R117). -/
def bootWord (v : Word) : Word :=
  let img := wfld v 16 8
  let why := wfld v 8 8
  if img = 0 || 3 < img || why = 0 || 4 < why then 2 else BitVec.ofNat 64 (img * 2 ^ 16 + why * 2 ^ 8 + 4)

/-- `PACKAGE_RESET` (R167); the event carries what the boot of R113 reports. -/
def execPackageReset (s : State) : Out := ok (s.packageReset s.arg.bytes (bootWord s.arg.val))
/-- `SECURITY_CORE_ERROR` (R112). -/
def execSecurityCoreError (s : State) : Out := ok (s.packageReset s.arg.bytes (bootWord s.arg.val))
/-- `THERMAL_TRIP` (R28): package reset is asserted and held. -/
def execThermalTrip (s : State) : Out :=
  ok { (s.packageReset s.arg.bytes 0).modPw (fun p => { p with held := true }) with agenda := [] }
/-- `THERMAL_RELEASE` (R28): the reset ends, and the boot of R113 follows it as after every package reset. -/
def execThermalRelease (s : State) : Out := ok ((s.packageReset s.arg.bytes (bootWord s.arg.val)).modPw (fun p => { p with held := false }))

/-! ### The Weir -/

/-- The limit of a window in units of 0.1 mW, in which one unit of slope moves it by one (R29, R31). -/
def nextLimit (p : Power) (d : Nat) : Nat :=
  if p.en && !p.fresh then Nat.min (Nat.max d (p.lim - p.dn.toNat)) (p.lim + p.up.toNat) else d

/-- Does a gang occupy a die (R34)? -/
def Gang.spans (g : Gang) (d : Nat) : Bool := g.base / 128 ≤ d && d ≤ (g.base + 2 ^ g.log2 - 1) / 128

/-- Insert a gang in the order of the lowest tile. -/
def insertGang (g : Gang) (l : List Gang) : List Gang :=
  match l with
  | [] => [g]
  | x :: r => if g.base ≤ x.base then g :: x :: r else x :: insertGang g r

/-- The running gangs that occupy a die, in ascending order of their lowest tile (R34). -/
def State.gangsOn (s : State) (d : Nat) : List Gang :=
  (s.gangs.filter (fun g => (match g.phase with | .running => true | _ => false) && g.spans d)).foldr insertGang []

/-- One more hold of 64 c for a gang, through the mechanism of the stall wire (R33): it follows the one in force. It freezes the gang from one
freeze distance after its start to one after its end. -/
def State.holdGang (s : State) (g : Gang) : State :=
  (s.raiseWire g.base).modGang g.base (fun x =>
    let e := Nat.max s.stamp (x.hold.getD 0) + 64
    let k := freezeDist g
    { x with hold := some e, heldFrom := if x.heldTo < s.stamp + k then s.stamp + k else x.heldFrom, heldTo := e + k })

/-- The next gang of a round robin after a base. -/
def roundRobin (gs : List Gang) (ptr : Nat) : Option Gang :=
  match gs.find? (fun g => ptr ≤ g.base) with
  | some g => some g
  | none => gs.head?

/-- Grant the holds that a die still needs, round robin; each counts against every die that its gang occupies (R34). -/
def State.grantHolds (s : State) (d : Nat) (need : List Nat) (fuel : Nat) : State × List Nat :=
  match fuel with
  | 0 => (s, need)
  | k + 1 =>
    if need.getD d 0 = 0 then (s, need)
    else match roundRobin (s.gangsOn d) (s.die d).holdPtr with
      | none => (s, need)
      | some g => ((s.holdGang g).modDie d (fun x => { x with holdPtr := g.base + 1 })).grantHolds d
          (need.zipIdx.map (fun e => if g.spans e.2 then e.1 - 1 else e.1)) k

/-- One window of the Weir (R29, R35, R36), of the demand d, the capacities c1 and c3 of the two steps of ballast and the filler's power df: one
with downward excess absorbs in the order of R35. FILL is raised in a downward excess, and falls once step 1 alone could absorb
L - (D - Dfill), whatever D itself is by then. -/
def Power.window (p : Power) (d c1 c3 df : Nat) : Power :=
  let l := nextLimit p d
  let step1 := if p.balEn then c1 else 0
  let step3 := if p.balEn then c3 else 0
  let excess := decide (d < l) && decide (step1 + step3 < l - d)
  let mode : BitVec 2 := if l < d then 1 else if d = l then 0 else if excess then 3 else 2
  { p with
    demand := d, lim := (if excess then d + step1 + step3 else l), fresh := false, mode := mode, seen := p.seen ||| BitVec.ofNat 4 (2 ^ mode.toNat),
    fill := p.fillEn && (decide (d < l) || p.fill) && decide (step1 < l - (d - Nat.min d df)),
    ballast := if d < l then Nat.min (l - d) (step1 + step3) else 0,
    dnExc := if excess && p.dnExc != 0xFFFF then p.dnExc + 1 else p.dnExc }

/-- `WEIR_WINDOW` (R29, R33–R36): D, the ballast capacities and the filler's power are estimates, free values; a window with upward excess
grants on each die as many holds as its excess requires, a free number. Ballast itself changes no state. -/
def State.weirWindow (s : State) : State :=
  let v := fun (k : Nat) => (Config.bits (s.free + k)).toNat
  let d := v 0 % (65536 * 10000)
  let t := { s with free := s.free + 8, pw := s.pw.window d (v 1) (v 2) (v 3) }
  if nextLimit s.pw d < d then
    let need := (List.range 4).map (fun k => v (4 + k))
    ((List.range 4).foldl (fun (x : State × List Nat) k => x.1.grantHolds k x.2 (x.2.getD k 0)) (t, need)).1
  else t

/-- A millisecond begins: what a sample counts over it starts anew. The window that starts with it is none of the last (R42). -/
def Power.newMs (p : Power) : Power := { p with seen := 0, seenMs := p.seen }
/-- `WEIR_WINDOW`: one at each stamp that is a multiple of 700. DESIGN CHOICE (log 76): R29 does not align the windows; they start at stamp 0
and none runs before the epoch. -/
def execWeirWindow (s : State) : Out := ok (if s.tm.run && s.stamp % 700 = 0 then (if s.stamp % 700000 = 0 then s.modPw Power.newMs else s).weirWindow else s)

/-- `THROTTLE_HOLD_END` (R33): the hold of the gang on a block expires. -/
def execThrottleHoldEnd (s : State) : Out :=
  match s.gangOf s.arg.idx with
  | some g => match g.hold with
    | some e => if e ≤ s.stamp then ok ((s.modGang g.base (fun x => { x with hold := none })).lowerWire g.base) else ok s
    | none => ok s
  | none => ok s

/-- `WEIR_SLOPE_WRITE` (R32). -/
def execWeirSlopeWrite (s : State) : Out :=
  let up := wfld s.arg.val 16 14
  let dn := wfld s.arg.val 0 14
  if up = 0 || 10000 < up || dn = 0 || 10000 < dn then ok (s.modPw (fun p => { p with badw := true }))
  else ok (s.modPw (fun p => { p with up := BitVec.ofNat 14 up, dn := BitVec.ofNat 14 dn }))

/-! ### Time -/

/-- The greatest magnitude of TIME.FREQ.ADJ (R40). -/
def freqMax : Int := 109951162

/-- `TIME_FREQ_WRITE` (R41). -/
def execTimeFreqWrite (s : State) : Out :=
  let v : BitVec 32 := s.arg.val.setWidth 32
  if v.toInt < -freqMax || freqMax < v.toInt then ok (s.modTm (fun t => { t with badw := true }))
  else ok (s.modTm (fun t => { t with freq := v }))

/-- `TIME_FREQ_APPLY` (R37): at a multiple of 1,024 of the counter that runs. -/
def execTimeFreqApply (s : State) : Out :=
  if (if s.tm.run then s.stamp else s.tm.pre) % 1024 = 0 then ok (s.modTm (fun t => { t with applied := t.freq })) else ok s

/-- `TIME_START_WRITE` (R40, R41, R435). -/
def execTimeStartWrite (s : State) : Out :=
  if s.tm.arm && s.arg.val.toNat ≤ s.tm.pre then ok (s.modTm (fun t => { t with badw := true, arm := false }))
  else if s.tm.run then ok (if s.arg.val = s.tm.start then s else s.modTm (fun t => { t with badw := true }))
  else ok (s.modTm (fun t => { t with start := s.arg.val }))

/-- `EPOCH_START` (R38). -/
def execEpochStart (s : State) : Out :=
  if s.tm.arm && !s.tm.run && s.tm.pre = s.tm.start.toNat then ok { s.modTm (fun t => { t with run := true, arm := false }) with stamp := 0 }
  else ok s

/-- `PPS_EDGE` (R39). -/
def execPpsEdge (s : State) : Out := ok (s.modTm (fun t => { t with ppsStamp := s.stamp, ppsPre := t.pre }))

/-- `EVENT_MESSAGE` (R39). -/
def execEventMessage (s : State) : Out := ok (s.modTm (fun t => { t with events := t.events ++ [if t.run then s.stamp else t.pre] }))

/-! ### Telemetry -/

/-- A sensor reading or an estimate: a free value. -/
def sensors (s : State) (n : Nat) : State × List Nat :=
  ({ s with free := s.free + n }, (List.range n).map (fun i => (Config.bits (s.free + i)).toNat % 2 ^ 32))

/-- The bytes of a sample (R42): the readings are free values. FLAGS bit 4 stands for a TEMP reading of 105 °C or more. HOLD is the share of the
held cycles among the gang-tile cycles since the last sample (log 77: truncated, and 0 when no gang ran). -/
def sampleBytes (s : State) (r : List Nat) : List Byte :=
  let sec := s.tm.epoch.toNat + s.stamp / 700000000
  let temps := r.getD 7 0 + r.getD 8 0 * 2 ^ 32
  let hot := (List.range 4).any (fun i => decide (1680 ≤ (BitVec.ofNat 16 (temps / 2 ^ (16 * i))).toInt))
  let flags := b2n s.tm.lock + b2n (s.pw.seenMs.getLsbD 1) * 2 + b2n (s.pw.seenMs.getLsbD 2) * 4 + b2n (s.pw.seenMs.getLsbD 3) * 8 + b2n hot * 16
  let hold := s.pw.heldCyc * 65536 / s.pw.gangCyc
  leBytes 8 s.stamp ++ leBytes 6 sec ++ leBytes 2 s.te.count ++ leBytes 4 (s.stamp % 700000000 * 10 / 7) ++ leBytes 4 flags ++
    leBytes 4 (r.getD 1 0) ++ leBytes 4 (s.pw.lim / 10) ++ leBytes 4 (r.getD 2 0) ++ leBytes 4 (r.getD 3 0) ++ leBytes 4 (r.getD 4 0) ++
    leBytes 4 (r.getD 5 0) ++ leBytes 4 (s.pw.ballast / 10) ++ leBytes 4 hold ++ leBytes 8 temps

/-- The cycle counts of a sample start anew. -/
def Power.sampled (p : Power) : Power := { p with gangCyc := 0, heldCyc := 0 }

/-- Does a ring lie in Wharf's own part of D0's DRAM (R43, R111): in no frame of Redric's region, and in none that a partition owns (log 87)? -/
def State.wharfRing (s : State) (pa log2n : Nat) : Bool :=
  (framesOf pa (log2n + 6)).all (fun a => isDram a && !((s.die 0).own a).getLsbD 7 && !((s.die 0).own a).getLsbD 5)

/-- `TELEMETRY_SAMPLE` (R42): at each multiple of 700,000 while EN is 1. A record beyond the first 2^n overwrites the oldest. -/
def execTelemetrySample (s : State) : Out :=
  if s.tm.run && s.stamp % 700000 = 0 then
    if s.te.en then
      let (s, r) := sensors s 9
      let n := 2 ^ s.te.log2n
      let a := s.te.base.toNat + 64 * (s.te.widx.toNat % n)
      let lost := if s.te.count < n || s.te.lost = 0xFFFFFFFF then s.te.lost else s.te.lost + 1
      ok ({ s with mem := if s.wharfRing s.te.base.toNat s.te.log2n then s.mem.store (paKey 0 a) (sampleBytes s r) else s.mem }.modTe (fun t => { t with widx := t.widx + 1, count := t.count + 1, lost := lost })
        |>.modPw Power.sampled)
    else ok (s.modPw Power.sampled)
  else ok s

/-- `TELE_WRITE` (R43): register 0 is TELE.BASE, 1 TELE.CTL; the others are read-only. A base outside Wharf's own memory is ignored (R111; log 87). -/
def execTeleWrite (s : State) : Out :=
  let v := s.arg.val
  let t := s.te
  let bad := ok (s.modTe (fun t => { t with badw := true }))
  match s.arg.idx with
  | 0 =>
    let pa := wfld v 6 37 * 64
    if (t.en && BitVec.ofNat 64 pa != t.base) || pa % 2 ^ (t.log2n + 6) != 0 then bad
    else if !s.wharfRing pa t.log2n then ok s
    else ok (s.modTe (fun t => { t with base := BitVec.ofNat 64 pa }))
  | 1 =>
    let n := wfld v 0 5
    if n < 6 || 16 < n || (t.en && n != t.log2n) || t.base.toNat % 2 ^ (n + 6) != 0 then bad
    else ok (s.modTe (fun t => { t with log2n := n, en := v.getLsbD 8, badw := t.badw && !v.getLsbD 9 }))
  | _ => ok s

/-! ### Gating (R44) -/

/-- `SUBARRAY_GATE`: a sub-array that has been idle for MXGATE.IDLE gang counts becomes gated. -/
def Tile.gate (t : Tile) (k : Nat) : Tile :=
  if t.mx.idleMax != 0 && k < 4 && t.mx.idleMax.toNat ≤ t.cnt - get 0 t.mx.idle k then
    t.modMx (fun m => { m with gated := m.gated ||| BitVec.ofNat 4 (2 ^ k) })
  else t
def execSubarrayGate (s : State) : Out := ok (s.modTile s.arg.tile (·.gate s.arg.idx))

end Sys2Proof.Machine
end

