-- ==== Sys2Proof/Machine/Links.lean ====
section
/-! DEFINITION. The bridges and the Adxis ports (R13, R47–R53), what arrives over the fabric (R54–R57, R183, R207, R340–R342, R401),
collectives (R58–R65), the CXL ports (R66–R68) and the ends of commands (R182, R389). -/
namespace Sys2Proof.Machine

open Sys2Proof

/-! ### Bridges and ports -/

/-- The members of a collective's group. -/
def State.redMembers (s : State) (part group : Nat) : List Nat :=
  match find (s.part part).groups group with
  | some g => g.members
  | none => []

/-- What picks packets: by source, destination and how they travel. -/
abbrev Leg := Place → Place → Hop → Bool

/-- Does a contribution travel from a member to the engine of another as a predicate picks? -/
def State.travels (s : State) (c : Contribution) (p : Leg) : Bool :=
  let ms := s.redMembers c.part c.group
  let at_ := fun (r : Nat) => memberDie (ms.getD r 0)
  p (at_ c.src) (at_ c.dest) c.hop

/-- A part of a command for a fenced tile is lost (R247): a `COLL` fails, any other command traps at its sender. -/
def State.lostPart (s s0 : State) (src : Place) (key : Nat) : State :=
  if src.pkg != s.pkg then s
  else s.modHome src.tile key (fun t =>
    match t.en.ceq.find? (·.key == key), t.en.lkq.find? (·.key == key) with
    | some c, _ => t.lostCommand .ce c
    | none, some c => (match c.instr with | .coll o => s0.failColl src.tile t o c 2 | _ => t.lostCommand .lk c)
    | none, none => t)

/-- The sender of a contribution that is lost, if it awaits its acknowledgement: a `COLL` fails with a cause (R396). `s0` is the state in which the
lost transfers are still under way. -/
def State.lostContrib (s s0 : State) (cause : Nat) (c : Contribution) : State :=
  match c.ack with
  | some (n, key) => s.modHome n key (fun t => match t.en.lkq.find? (·.key == key) with
    | some x => (match x.instr with | .coll o => s0.failColl n t o x cause | _ => t)
    | none => t)
  | none => if c.kind = 3 then s.drawFail c.part c.group c.gen cause else s

/-- The collectives of the contributions that a predicate picks fail with LINKDOWN (R50, R63), also those that no engine knows yet. -/
def State.linkDown (s : State) (p : Contribution → Bool) : State :=
  let out := s.contribs.filter p
  let s0 := s
  let s := { s with contribs := s.contribs.filter (fun c => !p c) }
  let s := (out.filter (·.kind != 3)).foldl (fun s c => s.modRed c.kind c.part c.group c.gen c.dest 0 id) s
  let s := s.failReds 3 (fun r => out.any (fun c => r.is c.kind c.part c.group c.gen c.dest))
  out.foldl (fun s c => s.lostContrib s0 3 c) s

/-- A command whose request was lost: the precise fault at its requester (R13, R50), NODIE; a `COLL` fails with LINKDOWN (R396). What went
down is named to Wharf: `tag` is 8 with a bridge, 9 with a port. DESIGN CHOICE (log 69): the record of R140 has no field for the name, and XFLT.VA reads 0. -/
def State.lostRequest (s s0 : State) (tag : Nat × Nat) (n key : Nat) : State :=
  let s := { s with notices := s.notices ++ [[tag.1, n, tag.2]] }
  s.modHome n key (fun (t : Tile) =>
    match (t.en.ceq.find? (·.key == key)), (t.en.lkq.find? (·.key == key)) with
    | some c, _ => t.request ⟨tTRANSLATION, colCode .ce, c.pc, 2, true, 0, xfltInfo 0 t.id.part (colCode .ce) (cmdAcc .ce c.instr 1) ⟨2, 0⟩⟩
    | none, some c => (match c.instr with
      | .coll o => s0.failColl n t o c 3
      | _ => t.request ⟨tTRANSLATION, colCode .lk, c.pc, 2, true, 0, xfltInfo 0 t.id.part (colCode .lk) 1 ⟨2, 0⟩⟩)
    | none, none => t)

/-- A carry that cannot be delivered is the TOWPATH trap at its sender (R57). -/
def State.lostCarry (s : State) (c : Carry) : State :=
  if c.src.pkg = s.pkg then s.modHome c.src.tile c.key (fun t => t.request (trapReq tTOWPATH (colCode .sq) c.pc 0)) else s

/-- The packets in flight that a predicate picks are lost: each request completes at its requester with a precise fault. -/
def State.loseFlights (s : State) (tag : Nat × Nat) (p : Leg) : State :=
  let ms := s.msgs.filter (fun m => p m.src m.dst m.hop)
  let bs := s.blocks.filter (fun d => p d.src d.dst d.hop)
  let cs := s.carries.filter (fun c => p c.src c.dst c.hop)
  let s0 := s
  let s := { s with msgs := s.msgs.filter (fun m => !p m.src m.dst m.hop), blocks := s.blocks.filter (fun d => !p d.src d.dst d.hop),
                    carries := s.carries.filter (fun c => !p c.src c.dst c.hop) }
  let s := ms.foldl (fun s m => if m.src.pkg = s.pkg then s.lostRequest s0 tag m.src.tile m.key else s) s
  let s := bs.foldl (fun s d => if d.src.pkg = s.pkg then s.lostRequest s0 tag d.src.tile d.key else s) s
  cs.foldl State.lostCarry s

/-- Everything in flight that a predicate picks is lost (R13, R50). -/
def State.loseAll (s : State) (tag : Nat × Nat) (p : Leg) : State :=
  (s.linkDown (fun c => s.travels c p)).loseFlights tag p

/-- Does a packet cross a bridge, between two dies of this package or on its way to the die of its port (R13, R47)? -/
def State.crosses (s : State) (b : Nat) : Leg := fun x y h =>
  let from_ := if x.pkg = s.pkg then some (dieOf x.tile) else h.port.map portDie
  let onto := if y.pkg = s.pkg then some (dieOf y.tile) else h.port.map portDie
  match from_, onto with
  | some a, some c => (bridgePath a c).contains b
  | _, _ => false

/-- `BRIDGE_FAILURE` (R13): 0 B01, 1 B13, 2 B23, 3 B02. -/
def execBridgeFailure (s : State) : Out :=
  let b := s.arg.idx
  if 4 ≤ b then ok s else ok ({ s with bridges := s.bridges ||| BitVec.ofNat 4 (2 ^ b) }.loseAll (8, b) (s.crosses b))

/-- The place outside the package that the next move of a command of an engine goes to, by the port it leaves through, with its address and kind of
access. -/
def State.farPiece (s : State) (n : Nat) (c : Cmd) : Option (Nat × Nat × Nat) :=
  let at_ := fun (sp : Space) (a acc : Nat) => match sp with
    | .vm _ => if (s.localDie a).isSome then none else (s.portFor (vaPlace a)).map (fun q => (q, a, acc))
    | .spad p => (s.portFor p).map (fun q => (q, a, acc))
  match c.instr, nextPiece s n c with
  | _, some (src, a, dst, b, _, _) => (at_ src a 0).or (at_ dst b 1)
  | .fill o, _ => at_ (ceDst s n o) (c.opnd 0 + 128 * c.lines) 1
  | .accw o, _ => at_ (ceDst s n o) (c.opnd 1 + 128 * c.lines) 2
  | .xadd o, _ => at_ (ceDst s n o) (c.opnd 0) 2
  | .cas o, _ => at_ (ceDst s n o) (c.opnd 0) 2
  | .append _, _ => at_ (.vm (dieOf n)) (if c.buf.isEmpty then c.opnd 1 else c.opnd 2) (if c.buf.isEmpty then 2 else 1)
  | _, _ => none
/-- What a tile has outstanding on a port that goes down (R50): a load that waits for its data is the fault NODIE at the load, and pushes nothing; a
command whose next piece goes through the port has it outstanding or not, a free choice, and faults there. -/
def State.portLost (s : State) (p n : Nat) : State :=
  let t := s.tile n
  let lost := t.pend.filterMap (fun x => match x.act with | .farPush q k _ pc va => if q = p then some (k, pc, va) else none | _ => none)
  let s := s.modTile n (fun t => { t with pend := t.pend.filter (fun x => match x.act with | .farPush q _ _ _ _ => q != p | _ => true) })
  let s := lost.foldl (fun s e => s.modTile n (fun t => (t.unreserve e.1).request ⟨tTRANSLATION, colCode .ld, e.2.1, 2, false, e.2.2, xfltInfo e.2.2.toNat t.id.part (colCode .ld) 0 ⟨2, 0⟩⟩)) s
  [Col.ce, .lk, .sq].foldl (fun s col => (t.cmds col).foldl (fun s c =>
    match (if c.started && !c.performed then s.farPiece n c else none) with
    | some (q, a, acc) => if q = p && Config.go s.free then { s with free := s.free + 1 }.engineFault n col c a acc ⟨2, 0⟩ else { s with free := s.free + 1 }
    | none => s) s) s

/-- A port goes down (R50): what has left through it and is in flight is lost. -/
def State.portDown (s : State) (p : Nat) : State :=
  let x := s.port p
  if !x.up then s.setPort p { x with en := x.en }
  else
    let s := (s.tiles.map (·.1)).foldl (fun s n => s.portLost p n) s
    (s.setPort p { x with up := false, fails := 0, downs := if x.downs = 0xFFFF then x.downs else x.downs + 1 }).loseAll (9, p) (fun _ _ h => h.port == some p)

/-- `FLIT_REPLAY` (R50, R65): the event says whether the replay failed too. -/
def execFlitReplay (s : State) : Out :=
  let p := s.arg.idx
  let x := s.port p
  if !x.up then ok s
  else
    let n := if s.arg.flag then x.fails + 1 else 0
    let s := s.setPort p { x with replay := if x.replay = 0xFFFF then x.replay else x.replay + 1, fails := n }
    ok (if 16 ≤ n then s.portDown p else s)

/-- `PORT_DOWN` (R50). -/
def execPortDown (s : State) : Out := ok (s.portDown s.arg.idx)
/-- `LINK_PROTOCOL_ERROR` (R51): a lane number above 3, or one that VLEN does not enable (R65). -/
def execLinkProtocolError (s : State) : Out :=
  let x := s.port s.arg.idx
  if s.arg.sub < 4 && x.vlen.getLsbD s.arg.sub then ok s else ok (s.portDown s.arg.idx)
/-- `LANE_LOSS` (R49): the port goes on with its other lane, or goes down. -/
def execLaneLoss (s : State) : Out :=
  let p := s.arg.idx
  let x := s.port p
  if !x.up then ok s else if x.lanes = 2 then ok (s.setPort p { x with lanes := 1 }) else ok (s.portDown p)

/-- ADX.PCTL as a write leaves it (R65). -/
def pctlWrite (x : Port) (v : Word) : Port := { x with vlen := BitVec.ofNat 4 (wfld v 8 4), towq := BitVec.ofNat 2 (wfld v 4 2), en := v.getLsbD 0 }
/-- `PORT_ENABLE` (R49, R65): the port trains; the event says whether only one lane trained. -/
def execPortEnable (s : State) : Out :=
  let p := s.arg.idx
  let x := pctlWrite (s.port p) (s.arg.val ||| 1)
  if 128 ≤ p then ok s
  else ok (s.setPort p (if x.up then x else { x with up := true, lanes := if s.arg.flag then 1 else 2, fails := 0 }))
/-- `PORT_DISABLE` (R65). -/
def execPortDisable (s : State) : Out :=
  let p := s.arg.idx
  if 128 ≤ p then ok s else ok ((s.setPort p (pctlWrite (s.port p) (s.arg.val &&& ~~~1))).portDown p)

/-- `ROUTE_WRITE` (R52, R53): the mask of one destination package. -/
def execRouteWrite (s : State) : Out :=
  if 1024 ≤ s.arg.idx then ok s
  else ok { s with routes := put s.routes s.arg.idx (BitVec.ofNat 128 s.arg.num), routeNo := upd 0 s.routeNo s.arg.idx (· + 1) }

/-- The port of this package that a packet goes through, when one of the lanes it may use there is shut: the port refuses it with a link protocol
error (R51, R65). Messages and blocks use VL0 and are answered on VL1, contributions VL2, the Towpath VL3 (R51, R54). -/
def State.shutOn (s : State) (h : Hop) (lanes : List Nat) : Option Nat :=
  match h.port with
  | some p => if lanes.any (fun l => !(s.port p).vlen.getLsbD l) then some p else none
  | none => none

/-! ### Collectives -/

/-- `CTMO_WRITE` (R65). -/
def execCtmoWrite (s : State) : Out :=
  let t := wfld s.arg.val 0 24
  let badw := s.ctmo.getLsbD 63 && !s.arg.val.getLsbD 63
  if t < 100 then ok { s with ctmo := s.ctmo ||| BitVec.ofNat 64 (2 ^ 63) }
  else ok { s with ctmo := BitVec.ofNat 64 (b2n badw * 2 ^ 63 + t) }

/-- The generation that a contribution's destination has reached (R394). -/
def State.genAt (s : State) (c : Contribution) : BitVec 16 :=
  let m := (s.redMembers c.part c.group).getD c.dest 0
  if (memberPlace m).pkg = s.pkg then get 0 (s.tile (memberPlace m).tile).en.gens c.group else c.gen

/-- Is a contribution of a collective that has failed or committed (R63, R394)? -/
def State.stale (s : State) (c : Contribution) : Bool :=
  let pending := s.reds.any (·.is c.kind c.part c.group c.gen c.dest)
  let failed := match find (s.part c.part).groups c.group with
    | some g => g.failed.any (fun f => f.kind == c.kind && f.gen == c.gen && f.dest == c.dest)
    | none => true
  match c.kind with
  | 3 => !(List.range 4).any (fun d => (s.die d).jobs.any (fun j => j.kind == 0 && j.part == c.part && j.grp == c.group && j.gen == c.gen && j.drawn.isNone))
  | 0 => failed || (!pending && (s.genAt c - c.gen).toNat < 2 ^ 15 && (s.genAt c != 0 || c.gen == 0))
  | _ => failed

/-- How many ranks from 0 on a reduction already holds. -/
def Reduction.ready (r : Reduction) (g : Nat) : Nat := ((List.range g).takeWhile (fun k => (find r.parts k).isSome)).length

/-- The acknowledgement of a contribution. -/
def State.ackContrib (s : State) (c : Contribution) : State :=
  match c.ack with
  | some (n, key) => s.modHome n key (fun t => t.modCmd .lk key Cmd.ack)
  | none => s

/-- Do two packets of one virtual lane keep their order: from one die to one die, under one route mask (R52, R53)? -/
def Hop.before (a b : Hop) (src dst src' dst' : Place) : Bool :=
  decide (a.no < b.no) && a.route == b.route && src.pkg == src'.pkg && dieOf src.tile == dieOf src'.tile && dst.pkg == dst'.pkg && dieOf dst.tile == dieOf dst'.tile
/-- Does a message wait at the ingress of its destination's die, where others pass it (R342, R400)? -/
def State.msgHeld (s : State) (m : Msg) : Bool :=
  m.dst.pkg == s.pkg && (s.heldBack m.src m.dst.tile m.bound || m.told || !(s.tile m.dst.tile).run)
def State.blockHeld (s : State) (d : Delivery) : Bool := d.dst.pkg == s.pkg && s.heldBack d.src d.dst.tile d.bound
/-- Is a packet of VL0 behind another that has not reached its die (R52)? The lines of one multicast land in any order (R183). -/
def State.behind (s : State) (src dst : Place) (h : Hop) (line : Option Nat) : Bool :=
  s.msgs.any (fun m => m.hop.before h m.src m.dst src dst && !s.msgHeld m) ||
    s.blocks.any (fun d => d.hop.before h d.src d.dst src dst && !s.blockHeld d && !(d.mcast && line == some d.key && d.src == src))

/-- An earlier transfer of the same `COLL` to the same rank has not been taken: transfers to one peer arrive in the order in which they were sent
(R52, R396); nor do contributions between two dies pass each other on VL2. -/
def State.contribBehind (s : State) (c : Contribution) : Bool :=
  let at_ := fun (x : Contribution) (r : Nat) => memberDie ((s.redMembers x.part x.group).getD r 0)
  (c.ack.isSome && (s.contribs ++ s.refused.map (·.2)).any (fun x => x.ack == c.ack && x.dest == c.dest && decide (x.seq < c.seq))) ||
    s.contribs.any (fun x => x.hop.before c.hop (at_ x x.src) (at_ x x.dest) (at_ c c.src) (at_ c c.dest))
/-- The same for blocks. -/
def State.blockBehind (s : State) (d : Delivery) : Bool :=
  (!d.mcast && s.blocks.any (fun x => x.src == d.src && x.key == d.key && x.dst == d.dst && decide (x.seq < d.seq))) ||
    s.behind d.src d.dst d.hop (if d.mcast then some d.key else none)

/-- The engine that a reduction of a group reduces on: its die, when that lies in this package (R397, R398). -/
def State.engineDie (s : State) (part group dest : Nat) : Option Nat :=
  let p := memberDie ((s.redMembers part group).getD dest 0)
  if p.pkg = s.pkg then some (dieOf p.tile) else none
/-- Is a reduction placed in a switch (R60, R398)? -/
def State.inSwitch (s : State) (kind part group : Nat) : Bool :=
  kind == 1 && (match find (s.part part).groups group with | some g => g.switch | none => false)
/-- The bytes of early arrivals that a reduction keeps in the carve-out (R59): those past the ranks it has combined. -/
def Reduction.kept (r : Reduction) (g : Nat) : Nat :=
  let first := if r.kind = 0 && r.op.isNone then 0 else r.ready g
  (r.parts.filter (fun e => decide (first ≤ e.1))).foldl (fun n e => n + e.2.length) 0
/-- Is the carve-out of a port group's engine too full for so many bytes more (R58, R59)? DESIGN CHOICE (log 93): an engine that Wharf has not enabled
has no carve-out, and keeps nothing. How full the engines of other packages are is free. -/
def State.engineFull (s : State) (part group dest pg n : Nat) : Bool :=
  match s.engineDie part group dest with
  | none => Config.go s.free
  | some d =>
    let used := (s.reds.filter (fun r => !s.inSwitch r.kind r.part r.group && r.pg == pg && s.engineDie r.part r.group r.dest == some d)).foldl
      (fun a r => a + r.kept (s.redMembers r.part r.group).length) 0
    decide ((if (s.die d).engOn.getLsbD pg then 2 ^ 23 else 0) < used + n)

/-- `CONTRIBUTION_ARRIVAL` (R59, R63, R394): a contribution in flight, or one that comes from another package. One for a fenced member is answered
FENCED (R246); `fenced` says so of a member in another package, and a reduction with such a rank fails with FENCED (R63, R247). A stale one is discarded; an engine whose carve-out is full refuses any rank but the
next it needs, for 1 µs. Which engine of the die takes what no `RADD` has registered yet is a free choice. -/
def State.contribArrives (s : State) (c : Contribution) (fenced : Bool) : State :=
  match s.shutOn c.hop [2] with
  | some p => s.portDown p
  | none =>
  if s.contribBehind c then s else
  let s0 := s
  let s := { s with contribs := s.contribs.filter (· != c) }
  let ms := s.redMembers c.part c.group
  let m := ms.getD c.dest 0
  let abroad := fun (r : Nat) => (memberPlace (ms.getD r 0)).pkg != s.pkg
  if c.kind != 3 && fenced && (abroad c.src || (c.kind != 0 && abroad c.dest)) then
    (s.modRed c.kind c.part c.group c.gen c.dest 0 id).failReds 2 (·.is c.kind c.part c.group c.gen c.dest)
  else if c.kind = 0 && (s.memberFenced m || (fenced && (memberPlace m).pkg != s.pkg)) then s.lostContrib s0 2 c
  else if s.stale c then s.ackContrib c
  else
    let r := s.reds.find? (·.is c.kind c.part c.group c.gen c.dest)
    let next := match r with | some r => r.ready ms.length | none => 0
    let pg := match r with | some r => r.pg | none => if c.kind = 0 then Config.pick s.free % 4 else 0
    let s := { s with free := s.free + 1 }
    if !s.inSwitch c.kind c.part c.group && c.src != next && s.engineFull c.part c.group c.dest pg c.data.length then
      { s with refused := s.refused ++ [(s.stamp + 700, c)], free := s.free + 1 }
    else (s.modRed c.kind c.part c.group c.gen c.dest pg (fun r => r.take s.stamp c.src c.data)).ackContrib c
def execContributionArrival (s : State) : Out :=
  match s.arg.load with
  | .contrib c => ok (s.contribArrives c s.arg.flag)
  | _ => ok s

/-- `CONTRIBUTION_RETRY` (R59): the sender sends it again. -/
def execContributionRetry (s : State) : Out :=
  match s.refused[s.arg.idx]? with
  | some (t, c) =>
    if t ≤ s.stamp then
      let ms := s.redMembers c.part c.group
      let dst := memberDie (ms.getD c.dest 0)
      let c := { c with hop := s.hop dst }
      let s := { s with refused := s.refused.eraseIdx s.arg.idx, contribs := s.contribs ++ [c] }.sent 1
      ok (if s.linked (dieOf (memberDie (ms.getD c.src 0)).tile) dst then s else s.linkDown (· == c))
    else ok s
  | none => ok s

/-- The result of a draw goes to RES, and DONE to CS (R64, R225). A write that faults fails the draw, and RES stays untouched
(R226). -/
def State.drawCommit (s : State) (r : Reduction) (result : List Byte) : State :=
  let mine := fun (j : Job) => j.kind == 0 && j.part == r.part && j.grp == r.group && j.gen == r.gen
  match (s.dies.flatMap (fun d => d.2.jobs)).find? mine with
  | none => { s with reds := s.reds.filter (· != r) }
  | some j =>
    let done := doneRec j.diem.length r.gen.toNat
    let w := jbind (jwrite s j.home j.part j.res result) fun s _ =>
      if j.cs = 0 then (s, .ok ()) else jbind (jwrite s j.home j.part (j.cs + 8) (done.drop 8)) fun s _ => jwrite s j.home j.part j.cs (done.take 8)
    match w with
    | (_, .wait) => s
    | (_, .bad _ _) => s.drawFail r.part r.group r.gen 5
    | (t, .ok _) =>
      let t := { t with reds := t.reds.filter (· != r) }
      (List.range 4).foldl (fun s d => s.modDie d (fun x => { x with jobs := x.jobs.map (fun j => if mine j then { j with drawn := some true } else j) })) t

/-- `COLLECTIVE_COMMIT` (R59, R61, R63, R185): a reduction that every rank has contributed to has its result; the commands of the members
that can still be reached write it and their status records. -/
def State.commitRed (s : State) (r : Reduction) : State :=
  let g := (s.redMembers r.part r.group).length
  if g = 0 || r.parts.length < g then s
  else
    let cs := r.parts.map (·.2)
    match r.kind with
    | 3 => s.drawCommit r (reducePairs cs)
    | k =>
      if k = 0 && r.op.isNone then s
      else
        let result := match k with | 0 => reduceAll (r.op.getD (0, 0)).1 cs | 1 => reducePairs cs | _ => []
        let s := { s with reds := s.reds.filter (· != r) }
        let engine := memberDie ((s.redMembers r.part r.group).getD r.dest 0)
        (r.regs.filter (fun e => s.linked (dieOf e.2.1) engine)).foldl (fun s e => s.modHome e.2.1 e.2.2 (fun t => t.modCmd .lk e.2.2 (fun c =>
          { c with buf := result, status := doneRec g r.gen.toNat, left := 0 }))) s
def execCollectiveCommit (s : State) : Out :=
  match s.reds[s.arg.idx]? with
  | some r => ok (s.commitRed r)
  | none => ok s

/-- A transfer of a `COLL` has not been acknowledged ADX.CTMO.TMO µs after it was sent (R396). -/
def State.transferLate (s : State) (n key : Nat) : Bool :=
  let late := fun (t : Nat) => decide (t + 700 * wfld s.ctmo 0 24 ≤ s.stamp)
  s.blocks.any (fun d => d.src == s.place n && d.key == key && late d.sent) || s.contribs.any (fun c => c.ack == some (n, key) && late c.sent) ||
    s.refused.any (fun c => c.2.ack == some (n, key) && late c.2.sent)

/-- `COLLECTIVE_TIMEOUT` (R63, R65): of a reduction, or of the transfers of a `COLL` (R396). -/
def execCollectiveTimeout (s : State) : Out :=
  if s.arg.flag then
    let n := s.arg.tile
    let key := s.arg.num
    if s.transferLate n key then
      ok (s.modHome n key (fun t => match t.en.lkq.find? (·.key == key) with
        | some c => (match c.instr with | .coll o => s.failColl n t o c 1 | _ => t)
        | none => t))
    else ok s
  else match s.reds[s.arg.idx]? with
  | some r => match r.first with
    | some t =>
      if t + 700 * wfld s.ctmo 0 24 ≤ s.stamp && r.parts.length < (s.redMembers r.part r.group).length then ok (s.failReds 1 (· == r)) else ok s
    | none => ok s
  | none => ok s

/-- `SWITCH_ABANDON` (R60, R64): of a value-index reduction whose group is placed in a switch. -/
def execSwitchAbandon (s : State) : Out :=
  match s.reds[s.arg.idx]? with
  | some r => match find (s.part r.part).groups r.group with
    | some g => if r.kind = 1 && g.switch then ok (s.failReds 4 (· == r)) else ok s
    | none => ok s
  | none => ok s

/-! ### Arrivals -/

/-- The acknowledgement of a carry releases the SQ column of its sender (R207). -/
def State.ackCarry (s : State) (c : Carry) : State :=
  if c.src.pkg != s.pkg then s
  else s.modHome c.src.tile c.key (fun t =>
    let x := t.col .sq
    if x.ackKey = some c.key then
      ((t.setCol .sq { x with ackKey := none, ackToks := [] }).pushToks x.ackToks 0).allowGive c.chan (512 * c.rows.length)
    else t)

/-- Does the partition that a packet comes from own the tile that it is for (R98)? What a packet meets at another partition's tile is DESIGN CHOICE (log
105): it is answered as from behind a fence. -/
def State.ownsTile (s : State) (part n : Nat) : Bool := (s.tile n).id.ownV && (s.tile n).id.ownPart == part
/-- `TOWPATH_ARRIVAL` (R57, R207): carries of one source and destination arrive in order; one waits while the buffer is full; one
that cannot be delivered is the TOWPATH trap at its sender: its die is out of reach, no port was up when it left, or the tile is fenced, which `fenced`
says of a tile of another package. -/
def State.carryArrives (s : State) (c : Carry) (fenced : Bool) : State :=
  let first := match s.carries.find? (fun x => x.src == c.src && x.dst == c.dst) with | some x => x == c | none => c.src.pkg != s.pkg
  let rest := { s with carries := s.carries.filter (· != c) }
  let lost := if c.dst.pkg = s.pkg then !s.reachable c.src.tile c.dst || !s.ownsTile c.part c.dst.tile else c.hop.port.isNone || fenced
  match s.shutOn c.hop [3] with
  | some p => s.portDown p
  | none =>
  if !first then s
  else if c.src.pkg = s.pkg && lost then rest.lostCarry c
  else if c.dst.pkg != s.pkg then rest.ackCarry c
  else if (s.tile c.dst.tile).isFenced || !s.ownsTile c.part c.dst.tile then rest
  else if s.heldBack c.src c.dst.tile c.bound || 8 ≤ (s.tile c.dst.tile).sq.carries.length then s
  else (rest.modTile c.dst.tile (fun t => t.modSq (fun q => { q with carries := q.carries ++ [c] }))).ackCarry c
def execTowpathArrival (s : State) : Out :=
  match s.arg.load with
  | .carry c => ok (s.carryArrives c s.arg.flag)
  | _ => ok s

/-- The bytes of a block land at their destination, and then its semaphore rises by their count (R183); the sender's command
learns of it. A block for a fenced tile is answered FENCED (R247); `fenced` says so of a tile of another package. -/
def State.blockLands (s : State) (d : Delivery) (fenced : Bool) : State :=
  let rest := { s with blocks := s.blocks.filter (· != d) }
  let ack := fun (s : State) => if d.src.pkg = s.pkg then s.modHome d.src.tile d.key (fun t => t.modAny d.key Cmd.ack) else s
  match s.shutOn d.hop [0, 1] with
  | some p => s.portDown p
  | none =>
  if s.blockBehind d then s
  else if d.dst.pkg != s.pkg then if fenced then rest.lostPart s d.src d.key else ack { rest with far := rest.far.store (farSpad d.dst d.addr) d.data }
  else if (s.tile d.dst.tile).isFenced || !s.ownsTile d.part d.dst.tile then
    rest.lostPart s d.src d.key
  else if s.heldBack d.src d.dst.tile d.bound then s
  else
    let s := rest.modTile d.dst.tile (fun t =>
      let t := t.engStore d.addr d.data
      match d.sem with | some sm => t.raise sm d.data.length true | none => t)
    ack s
/-- A block that is in flight, or one that comes from another package. -/
def State.blockHere (s : State) (d : Delivery) : Bool := s.blocks.contains d || d.src.pkg != s.pkg
/-- `MULTICAST_LINE_ARRIVAL` (R183, R339). -/
def execMulticastLineArrival (s : State) : Out :=
  match s.arg.load with
  | .delivery d => ok (if d.mcast && s.blockHere d then s.blockLands d s.arg.flag else s)
  | _ => ok s
/-- `PUT_ARRIVAL` (R183, R396, R402). -/
def execPutArrival (s : State) : Out :=
  match s.arg.load with
  | .delivery d => ok (if !d.mcast && s.blockHere d then s.blockLands d s.arg.flag else s)
  | _ => ok s

/-- `MESSAGE_ARRIVAL` (R340–R342): messages of one sender at one destination arrive in order; the first posted receive that accepts
the message takes it, else it enters the overflow queue, which when full is the OVERFLOW trap while the message stays in the network. A message
raises it once, in the handler too (R161). One whose delivery faults stays in the network, and is tried again after the handler (R163). `fenced` says that a tile of another package is fenced. -/
def State.messageArrives (s : State) (m : Msg) (fenced : Bool) : State :=
  let first := match s.msgs.find? (fun x => x.src == m.src && x.dst == m.dst) with | some x => x == m | none => m.src.pkg != s.pkg
  let rest := { s with msgs := s.msgs.filter (· != m) }
  match s.shutOn m.hop [0, 1] with
  | some p => s.portDown p
  | none =>
  if !first || s.behind m.src m.dst m.hop none then s
  else if m.dst.pkg != s.pkg then
    (if fenced then rest.lostPart s m.src m.key
     else if m.src.pkg = s.pkg then rest.modHome m.src.tile m.key (fun t => t.modAny m.key Cmd.ack) else rest)
  else
    let n := m.dst.tile
    let t := s.tile n
    if t.isFenced || !s.ownsTile m.part n then rest.lostPart s m.src m.key
    else if s.heldBack m.src n m.bound then s
    else match t.en.posted.find? (·.accepts m) with
      | some p => match rest.deliver n p m with
        | (s', _, .ok _) => s'.modTile n (fun t => t.modEn (fun e => { e with posted := e.posted.filter (· != p) }))
        | (_, _, .wait) => s
        | (s', va, .fault f) => { s' with msgs := s.msgs }.modTile n (fun t =>
            t.request ⟨tTRANSLATION, colCode .ce, t.pc .ce, f.sub, true, BitVec.ofNat 64 va, xfltInfo va t.id.part (colCode .ce) 5 f⟩)
      | none =>
        if 16 ≤ t.en.overflow.length then
          if m.told || !t.run then s
          else { s with msgs := s.msgs.map (fun x => if x = m then { x with told := true } else x) }.modTile n
            (fun t => t.request (trapReq tOVERFLOW (colCode .ce) (t.pc .ce) 0))
        else rest.modTile n (fun t => { t with en := { t.en with overflow := t.en.overflow ++ [m] }, ct := { t.ct with latch := true } })
def execMessageArrival (s : State) : Out :=
  match s.arg.load with
  | .msg m => ok (s.messageArrives m s.arg.flag)
  | _ => ok s

/-- The source an unmatched `RECV` names, and the destination of an unmatched `SEND` (R401). -/
def cmdPeer (t : Tile) (c : Cmd) : Place :=
  match c.instr with
  | .recv o => chPlace (t.chan o.ch.toNat)
  | .send o => chPlace (t.chan o.ch.toNat)
  | _ => ⟨0, 0⟩
def isRecvCmd (c : Cmd) : Bool := match c.instr with | .recv _ => true | _ => false
def isSendCmd (c : Cmd) : Bool := match c.instr with | .send _ => true | _ => false

/-- `SEND_MATCH` (R401): the oldest unmatched `RECV` of tile n that names a source meets that source's oldest unmatched `SEND`
to it, or data that another package sends, unless a bridge between them has failed (R13). The payload is read at the source as the match takes place. -/
def State.sendMatch (s : State) (n : Nat) (src : Place) : State :=
  let t := s.tile n
  match t.en.lkq.find? (fun c => isRecvCmd c && c.started && !c.performed && 0 < c.left && cmdPeer t c == src) with
  | none => s
  | some r =>
    let take := fun (s : State) (data : List Byte) (peer : Option (Nat × Nat)) =>
      let k := Nat.min data.length (r.opnd 1)
      s.modTile n (fun t => t.modCmd .lk r.key (fun c =>
        { c with buf := data.take k, status := recvStatus src 0 k (r.opnd 1 < data.length) false, left := 0, peer := peer }))
    if src.pkg != s.pkg then (match s.arg.load with | .msg m => take s m.data none | _ => s)
    else
      let u := s.tile src.tile
      match u.en.lkq.find? (fun c => isSendCmd c && c.started && !c.performed && 0 < c.left && c.peer.isNone && cmdPeer u c == s.place n) with
      | none => s
      | some c =>
        if u.faulted .lk || !s.mayRead src.tile .lk c.key (startRead s src.tile c) then s
        else if !s.joined (dieOf src.tile) (dieOf n) then (s.nameBridge src.tile (dieOf n)).engineFault src.tile .lk c 0 1 ⟨2, 0⟩
        else
        let loc := (startRead s src.tile c).1
        match s.spRead u.id.part loc (c.opnd 0) (c.opnd 1) with
        | (s', _, .ok b) => (take s' b (some (src.tile, c.key))).modTile src.tile (fun u => u.modCmd .lk c.key (fun c => { c with peer := some (n, r.key) }))
        | (s', va, .fault f) => s'.engineFault src.tile .lk c va 0 f
        | (_, _, .wait) => s
/-- The oldest unmatched `SEND` of tile n to a tile of another package meets a `RECV` there: its payload is read and lands there, and the raise of the
receive is answered (R401). -/
def State.sendAbroad (s : State) (n : Nat) (dst : Place) : State :=
  let t := s.tile n
  match t.en.lkq.find? (fun c => isSendCmd c && c.started && !c.performed && 0 < c.left && c.peer.isNone && cmdPeer t c == dst) with
  | none => s
  | some c =>
    if dst.pkg = s.pkg || t.faulted .lk || !s.mayRead n .lk c.key (startRead s n c) || !s.leaves (dieOf n) dst then s
    else match s.spRead t.id.part (startRead s n c).1 (c.opnd 0) (c.opnd 1) with
      | (s, _, .ok _) => s.modTile n (fun t => t.modCmd .lk c.key (fun c => { c with peer := some (n, c.key), left := 0 }))
      | (s, va, .fault f) => s.engineFault n .lk c va 0 f
      | (_, _, .wait) => s
def execSendMatch (s : State) : Out :=
  let p : Place := ⟨s.arg.idx / 512, s.arg.idx % 512⟩
  ok (if s.arg.flag then s.sendAbroad s.arg.tile p else s.sendMatch s.arg.tile p)

/-- `COMMAND_END` (R182, R389): the first command of an engine that may end does, an `LBAR` with its acquire (R399); the event names the engine: 0 CE, 1 LK, 2 state
spill. -/
def engineCol (k : Nat) : Col := match k with | 0 => .ce | 1 => .lk | _ => .sq
def State.commandEnd (s : State) (n k : Nat) : State :=
  let col := engineCol k
  let t := s.tile n
  if t.faulted col then s
  else match (t.cmds col).find? (fun c => t.mayEnd col c) with
    | some c =>
      let mask := match c.instr with | .lbar o => o.fn | _ => 0
      let u := s.acquireCache n mask 4
      if u.cacheHeld n mask 4 then u else u.endCommand n col c
    | none => s
def execCommandEnd (s : State) : Out := ok (s.commandEnd s.arg.tile s.arg.idx)

/-! ### CXL -/

/-- `CXL_PORT_DOWN` (R68). -/
def execCxlPortDown (s : State) : Out :=
  ok { s with cxlUp := s.cxlUp &&& ~~~(BitVec.ofNat 16 (2 ^ s.arg.idx)), remap := put s.remap s.arg.idx [] }

end Sys2Proof.Machine
end

