-- ==== Sys2Proof/Machine/Watch.lean ====
section
/-! DEFINITION. The neighbour watch (R238–R252): beats, judgements, evaluations, fencing with what it ends, appeals and the commands
of Wharf; and the tile reset (R167). -/
namespace Sys2Proof.Machine

open Sys2Proof

/-! ### The grid (R238) -/

/-- The neighbour of a tile in a direction (0 N, 1 E, 2 S, 3 W), within its die. -/
def neighbour (n d : Nat) : Option Nat :=
  let t := n % 128
  let x := t % 16
  let y := t / 16
  match d with
  | 0 => if 0 < y then some (n - 16) else none
  | 1 => if x < 15 then some (n + 1) else none
  | 2 => if y < 7 then some (n + 16) else none
  | 3 => if 0 < x then some (n - 1) else none
  | _ => none
/-- The direction from which a neighbour looks back. -/
def opposite (d : Nat) : Nat := (d + 2) % 4
/-- The directions in which a tile has neighbours, and the votes that fence it (R243). -/
def directions (n : Nat) : List Nat := (List.range 4).filter (fun d => (neighbour n d).isSome)
def threshold (n : Nat) : Nat := if (directions n).length = 4 then 3 else 2

/-- WATCH.CTL (R252). -/
def Die.watchEn (x : Die) : Bool := x.wctl.getLsbD 0
def Die.appen (x : Die) : Bool := x.wctl.getLsbD 1
def Die.inj (x : Die) : Nat := wfld x.wctl 32 8

/-- What a lengthsman knows of a neighbour before any beat. -/
def Nbr.reset : Nbr := ⟨false, none, 0, 0, 0, false, .healthy⟩
def Tile.nbr (t : Tile) (d : Nat) : Nbr := get Nbr.reset t.wa.nbr d
def Tile.setNbr (t : Tile) (d : Nat) (x : Nbr) : Tile := t.modWa (fun w => { w with nbr := put w.nbr d x })

/-! ### Tile reset (R167) -/

/-- A tile reset keeps the ownership byte, the watch of the tile, and the counts of rebuilt events, which run from package reset. -/
def Tile.hardReset (t : Tile) (bank : Nat) : Tile :=
  { Tile.reset with wa := t.wa, id := { Ident.reset with ownV := t.id.ownV, ownClr := t.id.ownClr, ownPart := t.id.ownPart },
                    st := { Stores.reset with health := bankTest bank, events := t.st.events } }

/-! ### Beats and judgements -/

/-- A beat arrives at a neighbour, with its SEQ and the state of its sender (R239, R241). -/
def Nbr.beat (x : Nbr) (seq : BitVec 16) (h : Health) : Nbr :=
  let wrong := match x.expect with
    | none => false
    | some e => x.verdict != 1 && e != seq
  { x with got := true, expect := some (seq + 1), bad := x.bad || wrong, state := h }

/-- `BEAT` (R239): the lengthsman of a tile sends a beat to each neighbour, its SEQ one more than that of the beat before, and the router's
injection monitor closes a beat period (R241), but at beat 0, before which none ran. The model's free values (log 39): whether the lengthsman beats, which neighbours a beat
reaches with a good CRC, and how many bytes the tile injected in the period. -/
def State.beat (s : State) (n : Nat) : State :=
  let (s, k) := s.freshBits
  let on := !k.getLsbD 4
  let s := s.modTile n (fun t => t.modWa (fun w => { w with
    beating := on, seq := if on then w.seq + 1 else w.seq,
    injected := if s.tm.pre = 0 then w.injected else (k.toNat / 256 :: w.injected).take 8 }))
  let w := (s.tile n).wa
  if !on then s
  else (directions n).foldl (fun s d => match neighbour n d with
    | some m => if k.getLsbD d then s else s.modTile m (fun u => u.setNbr (opposite d) ((u.nbr (opposite d)).beat w.seq w.health))
    | none => s) s
def execBeat (s : State) : Out := ok (if s.tm.pre % 4096 = 0 then s.beat s.arg.tile else s)

/-- The verdict on a neighbour after one judgement (R240–R242). DESIGN CHOICE (log 106): when three missed beats and a case of R241 hold at one
judgement, the verdict is SILENT. -/
def Nbr.judge (x : Nbr) (injected : Bool) : Nbr :=
  let missed := if x.got then 0 else x.missed + 1
  let bad := x.bad || injected
  let clear := if bad then 0 else x.clear + 1
  let verdict := if 3 ≤ missed then 1
    else if bad then 2
    else if x.verdict = 1 && x.got then 0
    else if x.verdict = 2 && 16 ≤ clear then 0
    else x.verdict
  { x with got := false, missed := missed, verdict := verdict, clear := clear, bad := false }

/-- Has a tile injected more than the allowance of its die in each of the last eight beat periods (R241)? -/
def Watch.overInjects (w : Watch) (inj : Nat) : Bool :=
  inj != 0 && w.injected.length == 8 && w.injected.all (fun b => decide (inj * 4096 < b))

/-- `JUDGEMENT` (R240–R243): the lengthsman of a tile judges each neighbour and sends a vote or a clear report to its router; one that sends nothing
does neither. DESIGN CHOICE (log 107): the first judgement after EN is set takes in the beats, the expected SEQ and the violations gathered before. -/
def State.judge (s : State) (n : Nat) : State :=
  if !(s.tile n).wa.beating then s else
  (directions n).foldl (fun s d => match neighbour n d with
    | some m =>
      let x := ((s.tile n).nbr d).judge ((s.tile m).wa.overInjects (s.die (dieOf n)).inj)
      (s.modTile n (·.setNbr d x)).modTile m (fun u => u.modWa (fun w => { w with votes := put w.votes (opposite d) (x.verdict != 0) }))
    | none => s) s
def execJudgement (s : State) : Out :=
  ok (if (s.die (dieOf s.arg.tile)).watchEn && s.tm.pre % 4096 = 2048 then s.judge s.arg.tile else s)

/-- `PROTOCOL_VIOLATION` (R241): a router reports a Flight packet of a tile to that tile's neighbours. -/
def execProtocolViolation (s : State) : Out :=
  ok ((directions s.arg.tile).foldl (fun s d => match neighbour s.arg.tile d with
    | some m => s.modTile m (fun u => u.setNbr (opposite d) { u.nbr (opposite d) with bad := true })
    | none => s) s)

/-! ### Fencing (R246–R248, R250) -/

/-- The appeals window of R250. -/
def appealWindow : Nat := 420000000000

/-- The watch side of a fencing (R250). -/
def Watch.fence (w : Watch) (pre : Nat) (src : BitVec 2) (perm : Bool) : Watch :=
  let three := w.appeals.length = 3 && w.appeals.all (fun a => pre ≤ a + appealWindow)
  { w with health := .fenced, fsrc := src, tfence := pre, evalCnt := 0, clean := 0, perm := w.perm || perm || three, fenceCmd := false }

/-- A packet of a fence at tile f (R247): one of its own that has not passed its router is dropped, and one for it that has completed the
router's ingress still lands in its stores, with no raise and no acknowledgement. Which have is a free choice (log 97). -/
def State.fenceBlock (s : State) (here : Place) (d : Delivery) : State :=
  let (s, k) := s.freshBits
  let gone := { s with blocks := s.blocks.filter (· != d) }
  if d.dst == here then if k.getLsbD 0 then gone.modTile here.tile (·.engStore d.addr d.data) else gone
  else if d.src == here && k.getLsbD 0 then gone
  else s
/-- The same of a message: for the fenced tile it lands when a posted receive there has its destination in the scratchpad. -/
def State.fenceMsg (s : State) (here : Place) (m : Msg) : State :=
  let (s, k) := s.freshBits
  let gone := { s with msgs := s.msgs.filter (· != m) }
  let t := s.tile here.tile
  if m.dst == here then
    match t.en.posted.find? (·.accepts m) with
    | some p =>
      if k.getLsbD 0 && p.space != 0 then
        (match gone.spWrite t.id.part (postSpace s here.tile p) p.dst.toNat (m.data.take p.maxLen) with
        | (u, _, .ok _) => u
        | _ => gone)
      else gone
    | none => gone
  else if m.src == here && k.getLsbD 0 then gone
  else s
/-- The same of a carry; one for the fenced tile traps at its sender when it arrives (R57). -/
def State.fenceCarry (s : State) (here : Place) (c : Carry) : State :=
  let (s, k) := s.freshBits
  if c.src == here && k.getLsbD 0 then { s with carries := s.carries.filter (· != c) } else s
/-- The same of a contribution, which belongs to the tile of its rank. -/
def State.fenceContrib (s : State) (here : Place) (c : Contribution) : State :=
  let (s, k) := s.freshBits
  let m := (s.redMembers c.part c.group).getD c.src 0
  if !memberEng m && memberPlace m == here && k.getLsbD 0 then { s with contribs := s.contribs.filter (· != c) } else s

/-- What a fence at tile f ends at other tiles (R247): the parts of messages, blocks and sends for it are lost to their senders. -/
def State.fenceTraffic (s : State) (f : Nat) : State :=
  let here := s.place f
  let s0 := s
  let lost : List (Place × Nat) := (s.msgs.filter (fun m => m.dst == here)).map (fun m => (m.src, m.key)) ++
    (s.blocks.filter (fun d => d.dst == here)).map (fun d => (d.src, d.key)) ++ ((s.tile f).en.overflow ++ (s.saved.filter (·.1 / 8 == f)).flatMap (·.2.en.overflow)).map (fun m => (m.src, m.key))
  let s := s0.blocks.foldl (·.fenceBlock here ·) s
  let s := s0.msgs.foldl (·.fenceMsg here ·) s
  let s := s0.carries.foldl (·.fenceCarry here ·) s
  let s := s0.contribs.foldl (·.fenceContrib here ·) s
  let s := lost.foldl (fun s x => s.lostPart s0 x.1 x.2) s
  -- SEND and RECV commands that wait for the fenced tile
  let waits := fun (t : Tile) => (t.en.lkq.filter (fun c => (isSendCmd c || isRecvCmd c) && c.started && !c.performed && cmdPeer t c == here)).foldl
    (fun t c => t.lostCommand .lk c) t
  { s with tiles := s.tiles.map (fun e => (e.1, waits e.2)), saved := s.saved.map (fun e => (e.1, waits e.2)) }

/-- The record of an owned tile that runs no gang (R248). -/
def State.loneFence (s : State) (f : Nat) : State :=
  let t := s.tile f
  if t.id.ownV then
    s.writeRecord ⟨3, 0, t.id.ownPart, [0, 0, 0, 0, 0, 0, BitVec.ofNat 64 (0x1FF * 2 ^ 32 + f), 0, 0, 0, 0], 0, true⟩
  else s

/-- TILE_FENCE (R246–R248): the tile becomes Fenced, its gang is aborted, collectives with it fail with cause FENCED, and Wharf is
told. `ran` says that the tile ran a gang as the evaluation began; a gang that two fenced tiles share leaves one record. -/
def State.fenceTile (s : State) (f : Nat) (src : BitVec 2) (perm ran : Bool) : State :=
  let s := s.modTile f (fun t => t.modWa (·.fence s.tm.pre src perm))
  let s := ({ s with notices := s.notices ++ [[1, f]] } : State).loseSaved f
  let s := s.fenceTraffic f
  let s := s.failReds 2 (fun r => (s.redMembers r.part r.group).any (fun m => !memberEng m && memberPlace m == s.place f))
  match s.gangOf f with
  | some g => s.abortGang g ⟨3, 0, some f, 0, 0, 0, 0⟩
  | none => if ran then s else s.loneFence f

/-! ### Evaluations (R243–R245) -/

/-- Does a state count as a voter, or as a placement candidate? -/
def Health.counts (h : Health) : Bool := match h with | .healthy => true | .suspect => true | .readmitted => true | _ => false

/-- The counted votes on a tile at an evaluation: the directions of the fence votes and of all counted messages, by the
states before the evaluation (R243, R245). -/
def State.countVotes (s : State) (n : Nat) : List Nat × List Nat :=
  let w := (s.tile n).wa
  let counted := (directions n).filter (fun d => match neighbour n d, find w.votes d with
    | some m, some _ => (s.tile m).wa.health.counts
    | _, _ => false)
  (counted.filter (fun d => find w.votes d == some true), counted)

/-- The bit of a direction in VOTES: N is bit 3 (R252). -/
def voteBits (l : List Nat) : BitVec 4 := BitVec.ofNat 4 (l.foldl (fun a d => a + 2 ^ (3 - d)) 0)

/-- VERD at an evaluation (R252): the verdict of each neighbour, N in the highest two bits; 3 where there is none or it was not counted. -/
def State.verdBits (s : State) (n : Nat) (counted : List Nat) : BitVec 8 :=
  BitVec.ofNat 8 ((List.range 4).foldl (fun a d => 4 * a + (match neighbour n d with
    | some m => if counted.contains d then ((s.tile m).nbr (opposite d)).verdict else 3
    | none => 3)) 0)

/-- The outcome of an evaluation for one tile: its watch after it, and whether it is fenced now (R244); a tile that failed the boot
self-test is fenced at the first one (R251). -/
def evalTile (w0 : Watch) (n : Nat) (votes counted : List Nat) (pre : Nat) : Watch × Bool :=
  let t := threshold n
  let v := votes.length
  let cmd := w0.fenceCmd
  let w := { w0 with votes := [], lastVotes := voteBits votes, evalCnt := w0.evalCnt + 1, fenceCmd := false }
  match w.health with
  | .healthy => if t ≤ v || cmd || w.bootFail then (w, true) else if 1 ≤ v then ({ w with health := .suspect }, false) else (w, false)
  | .suspect => if t ≤ v || cmd then (w, true) else if v = 0 then ({ w with health := .healthy }, false) else (w, false)
  | .readmitted =>
    if t ≤ v || cmd then (w, true)
    else if v = 0 && w.tfence + appealWindow ≤ pre then ({ w with health := .healthy }, false) else (w, false)
  | .appealing =>
    if 1 ≤ v then (w, true)
    else if t ≤ counted.length then
      (if 16 ≤ w.clean + 1 then ({ w with health := .readmitted, clean := 16 }, false) else ({ w with clean := w.clean + 1 }, false))
    else ({ w with clean := 0 }, false)
  | .fenced => (w, false)
  | .testing => (w, false)

/-- FSRC of a fencing at an evaluation (R251, R252): 3 for a tile that failed the boot self-test, which is fenced for good, 2 for Wharf, 1 for votes. -/
def fenceSrc (w : Watch) : BitVec 2 :=
  if w.bootFail && w.health == .healthy then 3 else if w.fenceCmd && w.health != .appealing then 2 else 1

/-- `EVALUATION` (R244, R245): every router of a die counts its votes; all transitions take effect together. -/
def State.evaluate (s : State) (d : Nat) : State :=
  let tiles := (List.range 128).map (fun t => 128 * d + t)
  let res := tiles.map (fun n =>
    let (v, c) := s.countVotes n
    let w := (s.tile n).wa
    let (w', fenced) := evalTile w n v c s.tm.pre
    (n, fenceSrc w, { w' with verd := s.verdBits n c }, fenced))
  let ran := tiles.filter (fun n => (s.gangOf n).isSome)
  let s := res.foldl (fun s r => s.modTile r.1 (fun t => t.modWa (fun _ => r.2.2.1))) s
  res.foldl (fun s r => if r.2.2.2 then s.fenceTile r.1 r.2.1 (r.2.1 == 3) (ran.contains r.1) else s) s
def execEvaluation (s : State) : Out := ok (if (s.die s.arg.die).watchEn && s.tm.pre % 4096 = 3072 then s.evaluate s.arg.die else s)

/-! ### Appeals (R249, R250) -/

/-- `APPEAL_START` (R249): at the 256th evaluation after the fencing, or at the first later one at which PERM is clear, appeals are allowed and
the lengthsman beats (log 97). Which
bank, if any, fails the power-on bank test is a free value. -/
def State.appeal (s : State) (n : Nat) : State :=
  let w := (s.tile n).wa
  if w.health = .fenced && 256 ≤ w.evalCnt && !w.perm && w.beating && (s.die (dieOf n)).appen then
    let (s, k) := s.freshBits
    s.modTile n (fun t => (t.hardReset (k.toNat % 32)).modWa (fun w => { w with
      health := .testing, testStart := s.tm.pre, appn := if w.appn = 0xFF then w.appn else w.appn + 1, appeals := (s.tm.pre :: w.appeals).take 3 }))
  else s
def execAppealStart (s : State) : Out := ok (s.appeal s.arg.tile)

/-- A failed self-test returns the tile to Fenced and counts as a fencing (R248–R250); FSRC stays. -/
def State.testFails (s : State) (n : Nat) : State := s.fenceTile n (s.tile n).wa.fsrc false false
/-- `SELF_TEST_END` (R249): the `HALT` of the ROM's routine, which the spec does not give, ends the test; it passes when g2 bit 0 is 1 (R319). With FLAG
clear the routine leaves VAL in g2; with FLAG set a `HALT` of CT has ended it. -/
def execSelfTestEnd (s : State) : Out :=
  let n := s.arg.tile
  let s := if s.arg.flag || (s.tile n).wa.health != .testing then s
    else s.modTile n (·.modCt (fun c => { c with g := put c.g 2 s.arg.val, halted := true }))
  if (s.tile n).wa.health != .testing || !(s.tile n).ct.halted then ok s
  else if ((s.tile n).g 2).getLsbD 0 then ok (s.modTile n (fun t => t.modWa (fun w => { w with health := .appealing, clean := 0 })))
  else ok (s.testFails n)
/-- `SELF_TEST_TIMEOUT` (R244). -/
def execSelfTestTimeout (s : State) : Out :=
  let w := (s.tile s.arg.tile).wa
  if w.health = .testing && w.testStart + 2 ^ 22 ≤ s.tm.pre then ok (s.testFails s.arg.tile) else ok s

/-! ### Wharf's registers (R251, R252) -/

/-- `WATCH_CMD_FENCE` (R251). -/
def execWatchCmdFence (s : State) : Out :=
  if s.arg.val.getLsbD 8 then
    ok (s.modTile (128 * s.arg.die + wfld s.arg.val 0 7) (fun t => t.modWa (fun w => { w with fenceCmd := true })))
  else ok s
/-- `WATCH_CTL_EN` (R251, R252): the fields are written, and EN once set stays. -/
def execWatchCtlEn (s : State) : Out :=
  ok (s.modDie s.arg.die (fun x => { x with
    wctl := BitVec.ofNat 64 (wfld s.arg.val 32 8 * 2 ^ 32 + b2n (s.arg.val.getLsbD 1) * 2 + b2n (x.watchEn || s.arg.val.getLsbD 0)) }))

end Sys2Proof.Machine
end

