-- ==== Sys2Proof/Machine/Basin.lean ====
section
/-! DEFINITION. The events of the memory system (R25, R76–R93): accesses from outside, fills, write-backs, the slice map, carve-outs,
shootdowns, migration and the pager's mailbox. -/
namespace Sys2Proof.Machine

open Sys2Proof

/-- The outcome of an event that cannot take place yet: it comes again. -/
def retry (i : Instr) (s : State) : Out := ok { s with inputs := (i, s.arg) :: s.inputs }

/-! ### Accesses, fills and write-backs -/

/-- `SLICE_ACCESS` (R77): a request that another package sends to a slice of this one: with bytes a write, else a read of a
naturally aligned range. Its answer leaves the package. FLAG says that it came through port SUB, which may refuse VL0 or VL1 (R65). -/
def execSliceAccess (s : State) : Out :=
  let a := s.arg
  if a.flag && !(s.shutLanes a.sub).isEmpty then ok (s.portDown a.sub)
  else if a.bytes.isEmpty then
    match s.coRead a.part a.num a.idx .rd with
    | (_, .wait) => retry .sliceAccess s
    | (t, _) => ok t
  else match s.coWrite a.part a.num (a.bytes.map some) with
    | (_, .wait) => retry .sliceAccess s
    | (t, _) => ok t

/-- Has a slice the translation of an address to the frame that a line was filled from? -/
def State.frameStands (s : State) (d part va pa : Nat) : Bool :=
  (s.die d).tlb.any (fun t => t.hit ((s.die d).slice (vaOff va)) part (vaOff va) && (leafAddr t.leaf.toNat + vaOff va % 2 ^ t.log2) / 128 == pa / 128)
/-- `LINE_FILL` (R189): the fill of a sector of a line of the Basin arrives beneath the bytes already written; uncorrectable data is
not installed (R93). It comes from the frame that the page has: after a migration the absent sectors of a line wait for its next access (R92). -/
def execLineFill (s : State) : Out :=
  let d := s.arg.die
  let key := lineKey s.arg.part s.arg.num
  let k := s.arg.num % 128 / 32
  match find (s.die d).lines key with
  | none => ok s
  | some l =>
    if l.valid.getLsbD k || (s.die d).bad.contains (l.pa / 32 + k) || !s.frameStands d s.arg.part s.arg.num l.pa then ok s else ok (s.fill d key k)

/-- `WRITE_BACK` (R93, R170): the cache of a tile evicts a sector, or only cleans it. The router of a fenced tile drops what it writes (R246); dirty
bytes that a slice holds stay (R87, R90). -/
def execWriteBack (s : State) : Out :=
  let n := s.arg.tile
  let va := s.arg.num / 32 * 32
  let t := s.tile n
  match find t.cache (sectorKey va) with
  | none => ok s
  | some c =>
    if c.dirty != 0 && !t.wa.health.cut && s.holdsBack t.id.part va then ok s
    else
      let s := if t.wa.health.cut then s else s.writeBack (dieOf n) t.id.part va c
      ok (s.modTile n (fun t => { t with cache := (if s.arg.flag then del t.cache (sectorKey va) else put t.cache (sectorKey va) c.clean) }))

/-! ### Errors of the stores (R20–R25) -/

/-- A single-bit correction counts in SPAD.HEALTH.CECNT (R22, R24). -/
def healthCe (h : Word) : Word := wset h 16 8 (Nat.min 255 (wfld h 16 8 + 1))
/-- An uncorrectable bank word that the symbol code rebuilds: UCCNT counts it, and its fourth in a bank marks the bank failed;
a second bank at the threshold sets DEAD (R22). -/
def Stores.rebuilt (x : Stores) (bank : Nat) : Stores :=
  let n := get 0 x.events bank + 1
  let h := wset x.health 32 8 (Nat.min 255 (wfld x.health 32 8 + 1))
  let h := if n < 4 || wfld h 24 5 = bank then h
    else if h.getLsbD 31 then wset h 30 1 1
    else wset (wset h 31 1 1) 24 5 bank
  { x with events := put x.events bank n, health := h }
/-- A dead scratchpad: the access that found it faults precisely, the tile takes no more gangs, and the gang on it is aborted with that access
in the record (R22, R138). -/
def State.spadDead (s : State) (n : Nat) (c : Col) : State :=
  let s := s.loseSaved n
  match s.gangOf n with
  | some g => s.abortGang g ⟨11, 0, some n, 0, 0, word50 tUNCORR (BitVec.ofNat 64 ((s.tile n).pc c)), 0⟩
  | none => s

/-- `DRAM_SCRUB` (R25): the scrubber reads a sector; a correctable one is written back as it was, an uncorrectable one is reported
to Wharf. With FLAG the sector has just become uncorrectable. The opcode table has no event of its own for the errors of
R20, so this one carries them: IDX 1 is a correction in a tile's scratchpad, 2 an uncorrectable word of bank SUB there that an access of
column PART found, 3 a stripe of it with three erasures that an access of column SUB found, 4 an uncorrectable dirty line or carve line of
the Basin; 7 an error that the first command in progress of the engine of column SUB meets, a spill among them; with any other value another
store or a register of the tile reports an uncorrectable error to the word at the head of column SUB, and 6 also discards the line of the
data cache at NUM. -/
def execDramScrub (s : State) : Out :=
  let a := s.arg
  let n := a.tile
  match a.idx with
  | 0 =>
    let s := if a.flag then s.modDie a.die (fun x => { x with bad := if x.bad.contains (a.num / 32) then x.bad else x.bad ++ [a.num / 32] }) else s
    if (s.die a.die).bad.contains (a.num / 32) then ok { s with notices := s.notices ++ [[4, a.die, a.num / 32]] } else ok s
  | 1 => ok (s.modTile n (fun t => { t with st := { t.st with health := healthCe t.st.health } }))
  | 2 =>
    if 18 ≤ a.sub then ok s
    else
      let s := s.modTile n (fun t => { t with st := t.st.rebuilt a.sub })
      if (s.tile n).st.health.getLsbD 30 then ok (s.spadDead n ((codeCol a.part).getD .ct)) else ok s
  | 3 => ok ((s.modTile n (fun t => { t with st := { t.st with health := wset t.st.health 30 1 1 } })).spadDead n ((codeCol a.sub).getD .ct))
  | 4 =>
    let key := lineKey a.part a.num
    match find (s.die a.die).lines key with
    | some l => if l.dirty = 0 then ok s else ok (s.loseLine a.die key)
    | none => if (s.die a.die).carve.any (fun c => c.2.getLsbD 13) then ok (s.loseLine a.die key) else ok s
  | 7 =>
    let c := (codeCol a.sub).getD .ce
    match ((s.tile n).cmds c).find? (fun x => x.started && !x.performed) with
    | some x => if (s.tile n).faulted c then ok s else ok (s.engineTrap n c x tUNCORR 0)
    | none => ok s
  | k =>
    let t := s.tile n
    let c := (codeCol a.sub).getD .ct
    if !t.run || t.faulted c then ok s
    else ok (s.modTile n (fun t => (if k = 6 then { t with cache := t.cache.filter (fun e => e.1 / 4 != a.num / 128) } else t).request (trapReq tUNCORR (colCode c) (t.pc c) 0)))

/-! ### The slice map (R86, R87) -/

/-- `BASIN_MAP_WRITE` (R86, R87, R118): the staged entries become the map, unless an earlier write is still being distributed. A slice
that no entry names any more retires: the indices it gave up are held until its MOVEDONE. -/
def Die.mapWrite (x : Die) (gen : Nat) : Die :=
  if x.mapBusy then x
  else
    let named := fun (k : Nat) => x.mapStage.any (fun e => e.2 == k)
    let out := (List.range 32).filterMap (fun i =>
      let k := get 0 x.ents i
      if named k || x.retired.contains k then none else some (i * 32 + k))
    { x with gen := gen, ents := x.mapStage, mapBusy := true, retiring := x.retiring ++ out,
             carveGone := x.carveGone ++ x.carve.flatMap (fun c => if c.2.getLsbD 13 then out.map (fun k => c.1 * 32 + k / 32) else []) }
def execBasinMapWrite (s : State) : Out := ok (s.modDie s.arg.die (·.mapWrite (wfld s.arg.val 0 8)))
/-- `BASIN_MAP_APPLY` (R86): every copy of the map has it. -/
def execBasinMapApply (s : State) : Out := ok (s.modDie s.arg.die (fun x => { x with mapBusy := false }))

/-- The keys of the lines that lie in a slice's indices. -/
def State.cleanIndices (s : State) (d : Nat) (is : List Nat) : State :=
  ((s.die d).lines.filter (fun l => is.contains (sliceIndex (lineOff l.1)))).foldl (fun s l => s.dropLine d l.1) s
/-- `MOVEDONE` (R87): the retiring slice has written back its dirty lines; its successors serve what they held. -/
def execMovedone (s : State) : Out :=
  let d := s.arg.die
  let k := s.arg.idx
  let mine := (s.die d).retiring.filter (fun e => e % 32 == k)
  if mine.isEmpty then ok s
  else ok (((s.cleanIndices d (mine.map (· / 32))).modDie d (fun x =>
    { x with retiring := x.retiring.filter (fun e => e % 32 != k), retired := x.retired ++ [k] })))

/-! ### Carve-outs (R88, R89) -/

/-- Does a range overlap another valid entry? -/
def Die.carveOverlap (x : Die) (c base size : Nat) : Bool :=
  x.carve.any (fun e => e.1 != c && carveV e.2 && wfld e.2 0 6 < base + size && base < wfld e.2 0 6 + wfld e.2 6 7)
/-- A refused write. -/
def carveBad (w : Word) : Word := w ||| 0x8000#64

/-- A range of physical memory reads as zero again, and its sectors have new check symbols (R93). -/
def State.clearRange (s : State) (d pa n : Nat) : State :=
  { s with mem := s.mem.filter (fun c => !(paKey d pa ≤ c.1 && c.1 < paKey d (pa + n))) }.modDie d (fun x =>
    { x with bad := x.bad.filter (fun k => !(decide (pa / 32 ≤ k) && decide (k < (pa + n) / 32))) })
def State.zeroCarve (s : State) (d : Nat) (w : Word) : State := s.clearRange d (0x8000000000 + wfld w 0 6 * 2 ^ 21) (wfld w 6 7 * 2 ^ 21)

/-- The slices of a die have given up ways: the lines that lay there are written back and dropped (R88). Which lie there is a free choice, and as
many of the others go as exceed what the remaining ways hold. -/
def State.giveWays (s : State) (d : Nat) : State :=
  let x := s.die d
  let s := ((x.lines.zipIdx.filter (fun e => Config.go (s.free + e.2))).map (·.1.1)).foldl (fun s k => s.dropLine d k) { s with free := s.free + x.lines.length }
  (List.range 32).foldl (fun s sl => (((s.die d).linesIn sl).drop (s.die d).lineCap).foldl (fun s k => s.dropLine d k) s) s

/-- The limit of a die's carve-outs, in units: half of it after a slice has retired (R87, R88). DESIGN CHOICE (log 104): a slice has retired when its
MOVEDONE has come. -/
def Die.carveLimit (x : Die) : Nat := if x.retired.isEmpty then 64 else 32
/-- May a die create a carve-out in an entry (R87, R88)? -/
def Die.carveMay (x : Die) (c base size : Nat) : Bool :=
  size != 0 && decide (base + size ≤ 64) && !x.carveOverlap c base size && decide (x.carveTotal c + size ≤ x.carveLimit)

/-- A write of BASIN.CARVE (R88, R89, R435): with V = 1 it creates the carve-out, with V = 0 it releases it and discards the contents; SIZE and
BASE change only while V is 0, and a write that would change them while it is 1 is refused whole. -/
def State.carveWrite (s : State) (d c : Nat) (v : Word) : State :=
  let x := s.die d
  let old := get 0 x.carve c
  let badw := wfld old 15 1 * 2 ^ 15 * b2n (!v.getLsbD 15)
  let set := fun (s : State) (w : Word) => s.modDie d (fun x => { x with carve := put x.carve c w })
  let same := decide (wfld old 0 13 = wfld v 0 13)
  if 8 ≤ c then s
  else if carveV old then
    if !same then set s (carveBad old)
    else if carveV v then set s (BitVec.ofNat 64 (badw + wfld old 0 15))
    else set (s.zeroCarve d old) (BitVec.ofNat 64 (badw + wfld v 0 13))
  else if !carveV v then set s (BitVec.ofNat 64 (badw + wfld v 0 13))
  else if !x.carveMay c (wfld v 0 6) (wfld v 6 7) then set s (carveBad old)
  else
    let s := (set s (BitVec.ofNat 64 (badw + 2 ^ 13 + wfld v 0 13))).modDie d (fun x => { x with carveGone := x.carveGone.filter (fun k => k / 32 != c) })
    if (s.die d).lineCap < x.lineCap then s.giveWays d else s

/-- `CARVE_CREATE` (R88): a write with V = 1. -/
def execCarveCreate (s : State) : Out := ok (s.carveWrite s.arg.die s.arg.idx (s.arg.val ||| 0x2000#64))
/-- `CARVE_READY` (R88): the carved lines are zeroed. -/
def execCarveReady (s : State) : Out :=
  let d := s.arg.die
  let w := get 0 (s.die d).carve s.arg.idx
  if carveV w && !w.getLsbD 14 then ok ((s.zeroCarve d w).modDie d (fun x => { x with carve := put x.carve s.arg.idx (w ||| 0x4000#64) })) else ok s
/-- `CARVE_RELEASE` (R88, R89): a write with V = 0. -/
def execCarveRelease (s : State) : Out := ok (s.carveWrite s.arg.die s.arg.idx (s.arg.val &&& ~~~0x2000#64))

/-! ### Shootdowns (R90–R92) -/

/-- `SHOOTDOWN_GO` (R90): a write of XLAT.SHCTL. One without GO changes the fields of the register and not a shootdown that runs. -/
def Die.shootdownGo (x : Die) (v : Word) : Die :=
  let part := wfld v 0 4
  let bclean := wfld v 4 2
  let badw := x.shctl.getLsbD 10
  let refused := { x with shctl := x.shctl ||| 0x400#64 }
  let done := x.shctl.getLsbD 9
  if v.getLsbD 8 then
    if !done || 2 ≤ bclean || x.shva.toNat % 65536 != 0 || 2 ^ 57 ≤ x.shva.toNat || x.shn = 0 || 2 ^ 29 < x.shn.toNat then refused
    else { x with shctl := BitVec.ofNat 64 (b2n (badw && !v.getLsbD 10) * 2 ^ 10 + bclean * 2 ^ 4 + part), shPhase := 1, shPart := part, shClean := bclean = 1 }
  else if 2 ≤ bclean then refused
  else { x with shctl := BitVec.ofNat 64 (b2n (badw && !v.getLsbD 10) * 2 ^ 10 + b2n done * 2 ^ 9 + bclean * 2 ^ 4 + part) }
def execShootdownGo (s : State) : Out := ok (s.modDie s.arg.die (·.shootdownGo s.arg.val))

/-- The range of the shootdown of a die. -/
def Die.inRange (x : Die) (va : Nat) : Bool := x.shva.toNat ≤ va && va < x.shva.toNat + x.shn.toNat * 65536
/-- Does a store that has issued still have to enter a cache of the partition inside the range (R91)? -/
def State.storesDue (s : State) (x : Die) : Bool :=
  s.tiles.any (fun t => t.2.id.part == x.shPart && t.2.pend.any (fun p => match p.act with | .cacheWrite va _ _ _ _ => x.inRange va | _ => false))
/-- `SHOOTDOWN_TILE_CLEAN` (R90, phase B). The stores that have issued enter the cache first (R91), and a moving slice sends its MOVEDONE (R87). -/
def execShootdownTileClean (s : State) : Out :=
  let d := s.arg.die
  let x := s.die d
  if x.shPhase != 1 || s.storesDue x || !x.retiring.isEmpty then ok s
  else
    let part := x.shPart
    let tiles := (s.tiles.filter (fun t => t.2.id.part == part && !t.2.cache.isEmpty)).map (·.1)
    let s := tiles.foldl (fun s n => s.cleanCache n x.inRange) s
    if tiles.any (fun n => s.backHeld n x.inRange) then ok s else
    let s := tiles.foldl (fun s n => s.dropCache n x.inRange) s
    let held := (s.tiles.filter (fun t => t.2.fe.store.any (fun e => e.1 / 2 ^ 57 == part && x.inRange (e.1 % 2 ^ 57)))).map (·.1)
    let s := held.foldl (fun s n => s.modTile n (fun t => t.modFe (fun f =>
      { f with store := f.store.filter (fun e => !(e.1 / 2 ^ 57 == part && x.inRange (e.1 % 2 ^ 57))) }))) s
    ok (s.modDie d (fun x => { x with shPhase := 2 }))
/-- `SHOOTDOWN_BASIN_CLEAN` (R90, phase C). A shootdown of the whole OFFSET range brings a change of XLAT.ROOT into effect (R73), and
the lost-line entries of pages that are no longer mapped go (R93). -/
def execShootdownBasinClean (s : State) : Out :=
  let d := s.arg.die
  let x := s.die d
  let part := x.shPart
  if x.shPhase != 2 then ok s
  else
    let keys := if x.shClean then (x.lines.filter (fun l => l.1 / 2 ^ 50 == part && x.inRange (l.1 % 2 ^ 50 * 128))).map (·.1) else []
    let s := keys.foldl (fun s k => s.cleanLine d k) s
    let lo := x.shva.toNat % 2 ^ 45
    let whole := lo = 0 && x.shn.toNat * 65536 = 2 ^ 45
    let gone := fun (k : Nat) => k / 2 ^ 50 == part && x.inRange (k % 2 ^ 50 * 128) &&
      (match walk s d part (k % 2 ^ 50 * 128 % 2 ^ 45) with | .error f => f.sub == 4 | .ok _ => false)
    ok (s.modDie d (fun x => { x with shPhase := 3, lost := x.lost.filter (fun k => !gone k), roots := (if whole then put x.roots part (get 0 x.rootReg part) else x.roots), tlb := x.tlb.filter (fun t => !(t.part == part && t.page < lo + x.shn.toNat * 65536 && lo < t.page + 2 ^ t.log2)) }))
/-- The range of a shootdown that ends has been mapped again behind the CXL ports of the die that are up (R68). -/
def State.remapped (s : State) (d : Nat) : State :=
  let x := s.die d
  { s with remap := s.remap.map (fun e => if e.1 / 4 = d && s.cxlUp.getLsbD e.1 then (e.1, e.2 ++ [(x.shPart, x.shva.toNat % 2 ^ 45, x.shn.toNat)]) else e) }
/-- `SHOOTDOWN_RELEASE` (R90, phase D): what was held is translated afresh. -/
def execShootdownRelease (s : State) : Out :=
  let d := s.arg.die
  if (s.die d).shPhase != 3 then ok s
  else ok (((s.remapped d).modDie d (fun x => { x with shPhase := 0, shctl := x.shctl ||| 0x200#64 })))

/-- Does a range hold a frame of Redric's own region? -/
def Die.touchesRedric (x : Die) (pa n : Nat) : Bool :=
  isDram pa && (List.range ((pa + n + 65535) / 65536 - pa / 65536)).any (fun i => (x.own (pa + i * 65536)).getLsbD 5)
/-- `MIGRATION_COPY` (R92): the copier of a die copies a frame of 2^sub bytes, and writes each sector in full (R93). It cannot reach Redric's region
(R111). What it reads of a sector that is uncorrectable is a free value (log 84). -/
def execMigrationCopy (s : State) : Out :=
  let d := s.arg.die
  let n := 2 ^ s.arg.sub
  let src := s.arg.val.toNat
  let dst := s.arg.num
  let x := s.die d
  if x.touchesRedric src n || x.touchesRedric dst n then ok s
  else
    let cells := s.mem.filter (fun c => paKey d src ≤ c.1 && c.1 < paKey d (src + n))
    let bad := x.bad.filter (fun k => decide (src / 32 ≤ k) && decide (k < (src + n) / 32))
    let s := s.clearRange d dst n
    let s := { s with mem := cells.foldl (fun m c => m.write (c.1 - paKey d src + paKey d dst) c.2) s.mem }
    ok (bad.foldl (fun s k =>
      let (s, b) := s.freeBytes 32
      { s with mem := s.mem.store (paKey d (dst + (32 * k - src))) b }) s)

/-- The tile that the request in a slot of the pager mailbox names (R84, R151). -/
def State.mailboxTile (s : State) (d slot : Nat) : Nat := 128 * d + (get 0 (s.die d).mailbox (4 * slot + 2)).toNat % 128
/-- `PAGER_REPLY` (R84, R151): Wharf writes the reply word of a tile's slot; the latch of the tile that the request names is set. -/
def execPagerReply (s : State) : Out :=
  let d := s.arg.die
  let slot := s.arg.tile % 128
  let who := s.mailboxTile d slot
  let s := s.modDie d (fun x => { x with mailbox := put x.mailbox (4 * slot + 3) s.arg.val })
  ok (s.modTile who (fun t => t.modCt (fun c => { c with latch := true })))

end Sys2Proof.Machine
end

