-- ==== Sys2Proof/Machine/Graph.lean ====
section
/-! DEFINITION. The graph walkers (R132–R134): their registers, and one event for each kind of node. -/
namespace Sys2Proof.Machine

open Sys2Proof

/-- A write of one half of a register leaves the other half as it is; the bits of that half that act when written as 1 (`w1`) are
then not written (R115). `sub` is 0 for a whole register, 1 for its low half, 2 for its high half. -/
def halfWrite (sub : Nat) (old w1 v : Word) : Word :=
  let kept := old &&& ~~~w1
  match sub with
  | 1 => (kept &&& 0xFFFFFFFF00000000#64) ||| (v &&& 0xFFFFFFFF#64)
  | 2 => (kept &&& 0xFFFFFFFF#64) ||| (v &&& 0xFFFFFFFF00000000#64)
  | _ => v

/-! ### Registers -/

/-- GW.BASE is writable while STATE is not RUN, and 32 B aligned. -/
def Walker.writeBase (x : Walker) (v : Word) : Walker :=
  if v.toNat % 32 != 0 || (x.state == 1 && v != x.base) then { x with ctl := x.ctl ||| 4 } else { x with base := v }

/-- A write of GW.CTL (R134): refused as a whole, or taken as a whole; `run` says whether the partition is in state RUN. -/
def Walker.writeCtl (x : Walker) (run : Bool) (v : Word) : Walker :=
  let len := wfld v 32 17
  let entry := wfld v 16 16
  if 65536 < len || (x.state == 1 && (len != x.len || entry != wfld x.ctl 16 16)) ||
      (v.getLsbD 0 && (x.state == 1 || len == 0 || len ≤ entry || !run)) then { x with ctl := x.ctl ||| 4 }
  else
    let ctl := BitVec.ofNat 64 (len * 2 ^ 32 + entry * 2 ^ 16 + b2n (x.ctl.getLsbD 2 && !v.getLsbD 2) * 4)
    let x := { x with ctl := ctl, stopping := x.stopping || (v.getLsbD 1 && x.state == 1) }
    if v.getLsbD 0 then { x with stat := walkStat entry 0 0 1, waiting := false, stopping := false } else x

/-- The write of a walker's GW.CTL that the event carries, with these bits set besides. -/
def State.gwCtl (s : State) (bits : Word) : State :=
  let a := s.arg
  if (s.part a.part).st = 0 ∨ 4 ≤ a.idx then s
  else s.modWalker a.part a.idx (fun x => x.writeCtl ((s.part a.part).st == 2) (halfWrite a.sub x.ctl 7 a.val ||| bits))

/-- `GW_CONFIG_WRITE` (R134): register 0 is GW.BASE, 1 is GW.CTL. -/
def execGwConfigWrite (s : State) : Out :=
  let a := s.arg
  if (s.part a.part).st = 0 ∨ 4 ≤ a.idx then ok s
  else if a.num = 0 then ok (s.modWalker a.part a.idx (fun x => x.writeBase (halfWrite a.sub x.base 0 a.val)))
  else ok (s.gwCtl 0)
/-- `GW_START` (R134): START lies in the low half of the register, and so does STOP (R115). -/
def execGwStart (s : State) : Out := ok (s.gwCtl (if s.arg.sub = 2 then 0 else 1))
/-- `GW_STOP` (R134). -/
def execGwStop (s : State) : Out := ok (s.gwCtl (if s.arg.sub = 2 then 0 else 2))

/-! ### Nodes -/

/-- What a node access of the scheduler, which stands on D0, answers: the value, a fault, or that the request waits. -/
def walkRead (s : State) (p va n : Nat) (acc : Acc) (f : State → List Byte → State × Option Nat) : State × Option Nat :=
  match s.coReadVia 0 p va n acc with
  | (s, .fault e) => (s, some (256 + e.sub))
  | (s, .wait) => (s, some 512)
  | (s, .ok b) => f s b
def walkWrite (s : State) (p va : Nat) (bs : List Byte) (f : State → State × Option Nat) : State × Option Nat :=
  match s.coWriteVia 0 p va (bs.map some) with
  | (s, .fault e) => (s, some (256 + e.sub))
  | (s, .wait) => (s, some 512)
  | (s, .ok _) => f s

/-- The four words of a node (R132). -/
structure Node where
  w0 : Nat
  w1 : Nat
  w2 : Nat
  w3 : Nat
  deriving DecidableEq, Repr
def Node.imm (n : Node) : Nat := n.w0 / 2 ^ 32
def Node.tgt (n : Node) : Nat := n.w0 / 2 ^ 16 % 2 ^ 16
def Node.fl (n : Node) : Nat := n.w0 / 2 ^ 8 % 2 ^ 8
def Node.kind (n : Node) : Nat := n.w0 % 2 ^ 8

/-- The checks of R132 that need no memory, by kind: the bits of IMM and FL that the kind uses, the words it uses with their
alignment, and its ranges. -/
def Node.bad (n : Node) : Bool :=
  let only := fun (i f : Nat) => n.imm &&& (2 ^ 32 - 1 - i) != 0 || n.fl &&& (255 - f) != 0
  let noTgt := n.tgt != 0
  let al := fun (a k : Nat) => a % k != 0
  match n.kind with
  | 1 => only 0x3F 0 || noTgt || al n.w1 64 || n.w2 != 0 || n.w3 != 0
  | 2 => only 0x33 1 || noTgt || al n.w1 64 || n.w2 != 0 || n.w3 != 0 || n.imm % 4 == 3
  | 3 => only 0 1 || noTgt || al n.w1 8 || n.w3 != 0
  | 4 => only 0 0 || noTgt || al n.w1 8 || n.w3 != 0
  | 5 => only 0 7 || al n.w1 8 || decide (5 < n.fl)
  | 6 => only 0 0 || al n.w1 8 || n.w3 != 0
  | 7 => only 0x1F 0 || al n.w1 8 || al n.w2 32 || n.w3 != 0 || n.imm == 0 || decide (16 < n.imm)
  | 8 => only 0x1FFF 0 || noTgt || al n.w1 8 || n.w3 != 0 || n.imm == 0 || decide (4096 < n.imm)
  | 9 => only 0 0 || noTgt || al n.w1 8 || n.w3 != 0
  | _ => true

/-- Does a kind branch to TGT (R134)? -/
def Node.branches (n : Node) : Bool := n.kind == 5 || n.kind == 6 || n.kind == 7

/-- The comparison of COND (R132). -/
def condHolds (op a b : Nat) : Bool :=
  let i := fun (x : Nat) => (BitVec.ofNat 64 x).toInt
  match op with
  | 0 => a == b | 1 => a != b | 2 => decide (a < b) | 3 => decide (b ≤ a) | 4 => decide (i a < i b) | _ => decide (i b ≤ i a)

/-- What a node does: the state after it, and none when it has ended or polls again, or the code of why it has not: 1 BADNODE, 2
BADTGT, 4 SRCQ, 256 + SUB for FAULT, 512 when it waits and changes nothing. -/
abbrev NodeAct := State → Nat → Nat → Node → State × Option Nat

/-- Run the present node of the walker that the event names, if it is of the given kind. The first event to meet a node of no
kind, or one that cannot be read, fails the walk. -/
def State.nodeStep (s : State) (kind : Nat) (f : NodeAct) : State :=
  let p := s.arg.part
  let w := s.arg.idx
  let x := s.walker p w
  if (s.part p).st != 2 || x.state != 1 || x.waiting || 4 ≤ w then s
  else
    let (t, r) := walkRead s p (x.base.toNat + 32 * x.node) 32 .rd fun s b =>
      let n : Node := ⟨leNat (b.take 8), leNat ((b.drop 8).take 8), leNat ((b.drop 16).take 8), leNat (b.drop 24)⟩
      if n.bad then (s, some 1)
      else if n.kind != kind then (s, some 512)
      else if n.kind = 7 then
        walkRead s p n.w2 (2 * n.imm) .rd fun s b =>
          if (List.range n.imm).any (fun k => x.len ≤ leNat ((b.drop (2 * k)).take 2)) then (s, some 1)
          else if x.len ≤ n.tgt then (s, some 2) else f s p w n
      else if n.branches && decide (x.len ≤ n.tgt) then (s, some 2)
      else f s p w n
    match r with
    | none => t
    | some 512 => s
    | some c => if 256 ≤ c then t.walkFail p w 3 (c - 256) else t.walkFail p w c 0

/-- The queue of a BARGE node: room for one more (R102, R132). -/
def Queue.log2n (q : Queue) : Nat := wfld q.ctl 0 5
def Queue.used (q : Queue) : Nat := (q.tail + 2 ^ 32 - q.head) % 2 ^ 32
def State.queue (s : State) (p i : Nat) : Queue := get Queue.reset (s.part p).queues i
def State.modQueue (s : State) (p i : Nat) (f : Queue → Queue) : State :=
  s.modPart p (fun x => { x with queues := upd Queue.reset x.queues i f })

/-- `BARGE_NODE` (R132, R133). -/
def bargeNode : NodeAct := fun s p w n =>
  let q := s.queue p n.imm
  if !q.ctl.getLsbD 9 then (s, some 4)
  else if 2 ^ q.log2n ≤ q.used then (s, some 512)
  else walkRead s p n.w1 64 .rd fun s b =>
    walkWrite s p (q.base.toNat + 64 * (q.tail % 2 ^ q.log2n)) b fun s =>
      ((s.modQueue p n.imm (fun q => { q with tail := (q.tail + 1) % 2 ^ 32 })).walkGo p w ((s.walker p w).node + 1), none)
def execBargeNode (s : State) : Out := ok (s.nodeStep 1 bargeNode)

/-- `ENGINE_NODE` (R127, R132, R217): a job starts on a visit of the scheduler to its partition, and costs it 1 of its deficit. -/
def engineNode : NodeAct := fun s p w n =>
  if (s.part p).deficit = 0 || !s.visiting || s.visit != p then (s, some 512)
  else
    let waitj := n.fl % 2 == 1
    let s0 := if waitj then s.modWalker p w (fun x => { x with waiting := true }) else s
    match s0.startJob (n.imm % 4) p (n.imm / 16 % 4) (if waitj then some w else none) n.w1 with
    | (_, false) => (s, some 512)
    | (s, true) =>
      let s := s.modPart p (fun x => { x with deficit := x.deficit - 1 })
      (if waitj then s else s.walkGo p w ((s.walker p w).node + 1), none)
def execEngineNode (s : State) : Out := ok (s.nodeStep 2 engineNode)

/-- `WAIT_NODE` (R132–R134). -/
def waitNode : NodeAct := fun s p w n =>
  walkRead s p n.w1 8 .rd fun s b =>
    let v := leNat b
    let holds := if n.fl = 1 then v == n.w2 else decide (n.w2 ≤ v)
    if holds then (s.walkGo p w ((s.walker p w).node + 1), none)
    else if (s.walker p w).stopping then (s.walkFail p w 5 0, none)
    else (s, none)
def execWaitNode (s : State) : Out := ok (s.nodeStep 3 waitNode)

/-- `RAISE_NODE` (R132). -/
def raiseNode : NodeAct := fun s p w n =>
  walkRead s p n.w1 8 .rmw fun s b =>
    walkWrite s p n.w1 (leBytes 8 ((leNat b + n.w2) % 2 ^ 64)) fun s => (s.walkGo p w ((s.walker p w).node + 1), none)
def execRaiseNode (s : State) : Out := ok (s.nodeStep 4 raiseNode)

/-- `COND_NODE` (R132). -/
def condNode : NodeAct := fun s p w n =>
  walkRead s p n.w1 8 .rd fun s b =>
    (s.walkGo p w (if condHolds n.fl (leNat b &&& n.w3) n.w2 then n.tgt else (s.walker p w).node + 1), none)
def execCondNode (s : State) : Out := ok (s.nodeStep 5 condNode)

/-- `LOOP_NODE` (R132, R133). -/
def loopNode : NodeAct := fun s p w n =>
  walkRead s p n.w1 8 .rmw fun s b =>
    let v := leNat b + 1
    let again := decide (v < n.w2)
    walkWrite s p n.w1 (leBytes 8 (if again then v else 0)) fun s =>
      (s.walkGo p w (if again then n.tgt else (s.walker p w).node + 1), none)
def execLoopNode (s : State) : Out := ok (s.nodeStep 6 loopNode)

/-- `SWITCH_NODE` (R132): the table has been read and checked. -/
def switchNode : NodeAct := fun s p w n =>
  walkRead s p n.w2 (2 * n.imm) .rd fun s tab =>
    walkRead s p n.w1 8 .rd fun s b =>
      let i := leNat b
      (s.walkGo p w (if i < n.imm then leNat ((tab.drop (2 * i)).take 2) else n.tgt), none)
def execSwitchNode (s : State) : Out := ok (s.nodeStep 7 switchNode)

/-- Write a value to words from an address upward. -/
def rearm (s : State) (p va k v : Nat) (f : State → State × Option Nat) : State × Option Nat :=
  match k with
  | 0 => f s
  | k + 1 => walkWrite s p va (leBytes 8 v) fun s => rearm s p (va + 8) k v f
/-- `REARM_NODE` (R132). -/
def rearmNode : NodeAct := fun s p w n =>
  rearm s p n.w1 n.imm n.w2 fun s => (s.walkGo p w ((s.walker p w).node + 1), none)
def execRearmNode (s : State) : Out := ok (s.nodeStep 8 rearmNode)

/-- `END_NODE` (R132). DESIGN CHOICE (log 100): a STOP written while the node is current finds the walk ended, not failed with STOPPED. -/
def endNode : NodeAct := fun s p w n =>
  let fin := fun (s : State) => (s.modWalker p w (fun x => { x with stat := walkStat x.node 0 0 2, stopping := false }), (none : Option Nat))
  if n.w1 = 0 then fin s else walkWrite s p n.w1 (leBytes 8 n.w2) fin
def execEndNode (s : State) : Out := ok (s.nodeStep 9 endNode)

end Sys2Proof.Machine
end

