-- ==== Sys2Proof/Machine/HostPort.lean ====
section
/-! DEFINITION. The host port (R95–R97), the work queues and rings (R101–R103), the registers of the VF page, of the PF and of the
management block (R115–R119, R137), and partition reset (R109). -/
namespace Sys2Proof.Machine

open Sys2Proof

/-! ### The aperture (R95, R96) -/

/-- The first faulting host access is kept, and all are counted (R96, R116). -/
def State.hostFault (s : State) (p va sub : Nat) (wr : Bool) : State :=
  s.modPart p (fun x =>
    let cnt := Nat.min (2 ^ 32 - 1) (wfld x.herrInfo 32 32 + 1)
    if x.herrInfo.getLsbD 16 then { x with herrInfo := wset x.herrInfo 32 32 cnt }
    else { x with herrVa := BitVec.ofNat 64 va, herrInfo := BitVec.ofNat 64 (cnt * 2 ^ 32 + 2 ^ 16 + b2n wr * 2 ^ 8 + sub) })

/-- The die that the host port's requests enter the package at. DESIGN CHOICE (log 94): die 0, which holds the PF. -/
def hostDie : Nat := 0

/-- The virtual address of an aperture offset, and whether its window is enabled (R95, R119). -/
def State.hostVa (s : State) (p off : Nat) : Nat × Bool :=
  let w := get 0 (s.part p).hwin (off / 2 ^ 36 % 4)
  (wfld w 36 28 * 2 ^ 36 + off % 2 ^ 36, w.getLsbD 0)

/-- A host read or write of the VF that the event names, at aperture offset NUM: a read of IDX bytes, or a write of the bytes. -/
def execHostRead (s : State) : Out :=
  let a := s.arg
  let (va, on) := s.hostVa a.part a.num
  if (s.part a.part).st = 0 then ok s
  else if !on then ok (s.hostFault a.part va 4 false)
  else match s.coReadVia hostDie a.part va a.idx .rd with
    | (_, .wait) => retry .hostRead s
    | (t, .fault f) => ok (t.hostFault a.part va f.sub false)
    | (t, .ok _) => ok t
def execHostWrite (s : State) : Out :=
  let a := s.arg
  let (va, on) := s.hostVa a.part a.num
  if (s.part a.part).st = 0 then ok s
  else if !on then ok (s.hostFault a.part va 4 true)
  else match s.coWriteVia hostDie a.part va (a.bytes.map some) with
    | (_, .wait) => retry .hostWrite s
    | (t, .fault f) => ok (t.hostFault a.part va f.sub true)
    | (t, .ok _) => ok t

/-! ### Partition reset (R109, R110) -/

/-- Phases 1 and 2 (R109): the queues are disabled, one record is written for each gang or one for the trigger, vector 15 is
signalled once, running walks fail with PARTRESET, jobs stop, and collectives fail with REMOTEFAULT. -/
def State.resetStart (s : State) (p cause qn : Nat) : State :=
  let msi := s.msi
  let pba := s.pba
  let mine := s.gangs.filter (·.part == p)
  let other := if cause = 4 then 5 else cause
  let s := s.modPart p (fun x => { x with queues := x.queues.map (fun q => (q.1, { q.2 with ctl := q.2.ctl &&& ~~~0x100#64 })), reserve := none })
  let s := ((List.range 4).flatMap (fun d => ((s.die d).jobs.filter (·.part == p)).map (fun j => (d, j)))).foldl (fun s j => s.stopJob j.1 j.2) s
  let s := (s.failReds 5 (fun r => r.part == p)).failColls 5 (fun t _ => t.id.part == p)
  let s := (s.tiles.filter (fun e => e.2.id.part == p && e.2.run)).foldl (fun s e => s.writeFailed e.1) s
  let s := mine.foldl (fun s g => if cause = 4 && g.queue == qn then s.abortGang g (.plain 4 qn) else s.abortGang g (.plain other 0)) s
  let s := if mine.isEmpty then
      s.writeRecord ⟨cause, if cause = 4 then qn else 0, p, [0, 0, 0, 0, 0, 0, BitVec.ofNat 64 (2 ^ 64 - 1), 0, 0, 0, 0], 0, false⟩
    else s
  let s := ((s.part p).walkers.filter (fun w => w.2.state == 1)).foldl (fun s w => s.walkFail p w.1 6 0) s
  ({ s with msi := msi, pba := pba, records := s.records.map (fun (f : FaultRec) => if f.part = p then { f with tells := false } else f) }.signal p 15).modPart p
    (fun x => { x with st := 3, phase := 2, phaseAt := s.tm.pre, awaitGo := false, cause := cause, causeQ := qn })

/-- A trigger: ignored while DISABLED, counted during a sequence (R109, R116). -/
def State.resetTrigger (s : State) (p cause qn : Nat) : State :=
  let x := s.part p
  if x.st = 0 then s
  else if x.phase != 0 then s.modPart p (fun x => { x with trig := Nat.min 255 (x.trig + 1) })
  else s.resetStart p cause qn

/-- `FLR` (R109). -/
def execFlr (s : State) : Out := ok (s.resetTrigger s.arg.part 6 0)
/-- `PART_CTL_RST` (R116): RST lies in the low half, which a 4-byte write of the high half does not write (R115). -/
def execPartCtlRst (s : State) : Out := ok (if s.arg.val.getLsbD 0 && s.arg.sub != 2 then s.resetTrigger s.arg.part 5 0 else s)
/-- `PART_RST_TRIG` (R119): Wharf's reset command; after a report of a full lost-line list it carries the cause LOSTOVF (R93). -/
def execPartRstTrig (s : State) : Out :=
  let p := s.arg.part
  if !s.arg.val.getLsbD 1 then ok s
  else ok (s.resetTrigger p (if s.arg.flag && s.notices.contains [3, p] then 7 else 5) 0)

/-- The tiles of a partition, by the ownership table. -/
def State.ownedBy (s : State) (p : Nat) : List Nat := (s.tiles.filter (fun t => t.2.id.ownV && t.2.id.ownPart == p)).map (·.1)

/-- `PARTITION_ABORT_DONE` (R109, R432): all tiles of the partition have stopped, 64 c after the trigger. -/
def execPartitionAbortDone (s : State) : Out :=
  let p := s.arg.part
  if (s.part p).phase != 2 || s.tm.pre < (s.part p).phaseAt + 64 || s.gangs.any (·.part == p) then ok s
  else ok (s.modPart p (fun x => { x with awaitGo := true }))

/-- A pager request of a tile that waits is answered with a reply, and the latch of the tile that it names is set (R84, R151). -/
def State.pagerAnswer (s : State) (n reply : Nat) : State :=
  let d := dieOf n
  let slot := n % 128
  let m := (s.die d).mailbox
  if get 0 m (4 * slot) = 0 && get 0 m (4 * slot + 1) = 0 || get 0 m (4 * slot + 3) != 0 then s
  else (s.modDie d (fun x => { x with mailbox := put x.mailbox (4 * slot + 3) (BitVec.ofNat 64 reply) })).modTile (s.mailboxTile d slot)
    (fun t => t.modCt (fun c => { c with latch := true }))

/-- `PART_RST_GO` (R119): phase 3 starts. -/
def execPartRstGo (s : State) : Out :=
  let p := s.arg.part
  if !s.arg.val.getLsbD 0 || !(s.part p).awaitGo then ok s
  else ok (((s.ownedBy p).foldl (fun s n => s.pagerAnswer n 2) s).modPart p (fun x => { x with phase := 3, awaitGo := false }))

/-- The outstanding requests of a partition: what its tiles have in flight on the links and the network, refused contributions among it
(R59, R116), stores that have issued, the join decrements of its barges, and the writes that its stopped jobs owe (R109). -/
def State.outst (s : State) (p : Nat) : Nat :=
  let own := s.ownedBy p
  let mine := fun (x : Place) => x.pkg == s.pkg && own.contains x.tile
  Nat.min 65535 ((s.blocks.filter (fun d => mine d.src)).length + (s.carries.filter (fun c => mine c.src)).length +
    (s.msgs.filter (fun m => mine m.src)).length + (s.contribs.filter (·.part == p)).length + (s.refused.filter (fun c => c.2.part == p)).length +
    (s.tiles.filter (fun t => t.2.id.part == p)).foldl (fun a t => a + (t.2.pend.filter (·.act.toMemory)).length) 0 +
    (s.joins.filter (·.part == p)).length + (s.dies.flatMap (fun d => d.2.jobs.filter (·.part == p))).length)

/-- The state of a tile is cleared to zero by phase 4 and by RELEASE; what R167 says a tile reset clears beside it stays. -/
def Tile.clearState (t : Tile) : Tile :=
  { Tile.reset with
    ct := { Ct.reset with mode := t.ct.mode, missCnt := t.ct.missCnt, cause := t.ct.cause, epc := t.ct.epc, xpc := t.ct.xpc, fpc := t.ct.fpc,
                          xva := t.ct.xva, xinfo := t.ct.xinfo, loops := t.ct.loops, clk := t.ct.clk, halted := t.ct.halted },
    st := { Stores.reset with pdesc := t.st.pdesc, health := t.st.health, events := t.st.events },
    mx := { Mx.reset with idleMax := t.mx.idleMax, gated := t.mx.gated, idle := t.mx.idle },
    sq := { Sq.reset with mstep := t.sq.mstep, cfg := t.sq.cfg, win := t.sq.win, amax := t.sq.amax, rng := t.sq.rng },
    id := { Ident.reset with ownV := t.id.ownV, ownClr := t.id.ownClr, ownPart := t.id.ownPart },
    en := { Engines.reset with nextKey := t.en.nextKey }, wa := t.wa, cnt := t.cnt }

/-- The dirty bytes of a tile that is to be cleared are written back first, unless its router drops them. -/
def State.settleTile (s : State) (n p : Nat) : State :=
  (s.modTile n (fun t => { t with id := { t.id with part := p } })).cleanCache n (fun _ => true)
def State.clearTile (s : State) (n p : Nat) : State := (s.settleTile n p).modTile n Tile.clearState

/-- The carve-window frames of a partition are zeroed. -/
def State.zeroCarves (s : State) (d p : Nat) : State :=
  let x := s.die d
  ((x.carve.filter (fun c => carveV c.2)).flatMap (fun c => (List.range (wfld c.2 6 7 * 32)).map (fun i => 0x8000000000 + wfld c.2 0 6 * 2 ^ 21 + i * 65536))).foldl
    (fun s pa => let o := x.own pa; if o.getLsbD 7 && o.toNat % 16 == p then s.clearRange d pa 65536 else s) s

/-- Phase 4 on one die: the Basin lines of the partition are cleaned and dropped, and its TLB and lost-line entries removed. -/
def State.clearDie (s : State) (d p : Nat) : State :=
  let s := ((s.die d).lines.filter (fun l => l.1 / 2 ^ 50 == p)).foldl (fun s l => s.dropLine d l.1) s
  (s.zeroCarves d p).modDie d (fun x => { x with tlb := x.tlb.filter (·.part != p), lost := x.lost.filter (fun k => k / 2 ^ 50 != p) })

/-- `PARTITION_QUIESCE_DONE` (R109): phase 4, once no slice holds a write-back of its tiles (R87, R90); it also deletes every group (R393). -/
def execPartitionQuiesceDone (s : State) : Out :=
  let p := s.arg.part
  if (s.part p).phase != 3 || s.outst p != 0 then ok s
  else
    let s := (s.ownedBy p).foldl (fun s n => s.settleTile n p) s
    if (s.ownedBy p).any (fun n => s.backHeld n (fun _ => true)) then ok s else
    let s := (s.ownedBy p).foldl (fun s n => s.clearTile n p) s
    let s := (List.range 4).foldl (fun s d => s.clearDie d p) s
    ok (s.modPart p (fun x => { x with phase := 4, groups := [] }))

/-- `PARTITION_CLEAR_DONE` (R109): phase 5. -/
def execPartitionClearDone (s : State) : Out :=
  let p := s.arg.part
  if (s.part p).phase != 4 then ok s
  else ok ((s.signal p 15).modPart p (fun x => { x with st := 1, phase := 5 }))

/-! ### Work queues (R101, R102) -/

def Queue.en (q : Queue) : Bool := q.ctl.getLsbD 8
/-- A refused write of QBASE or QCTL sets BADW, of QTAIL BADDB. -/
def Queue.badw (q : Queue) : Queue := { q with ctl := q.ctl ||| 0x2000 }
def Queue.baddb (q : Queue) : Queue := { q with ctl := q.ctl ||| 0x1000 }

/-- A write of QBASE. -/
def Queue.writeBase (q : Queue) (v : Word) : Queue :=
  if (q.en && v != q.base) || v.toNat % 2 ^ (q.log2n + 6) != 0 then q.badw else { q with base := v }

/-- Is a write of QCTL refused (R101)? -/
def Queue.refuses (q : Queue) (draining : Bool) (v : Word) : Bool :=
  let n := wfld v 0 5
  decide (n < 4) || decide (16 < n) || q.base.toNat % 2 ^ (n + 6) != 0 ||
    (q.en && (n != q.log2n || v.getLsbD 9 != q.ctl.getLsbD 9 || v.getLsbD 11)) || (v.getLsbD 8 && draining)

/-- An accepted write of QCTL: W1C bits clear, FLUSH sets QHEAD := QTAIL. -/
def Queue.writeCtl (q : Queue) (v : Word) : Queue :=
  let kept := (q.ctl &&& ~~~v) &&& 0x3000
  let q := { q with ctl := kept ||| (v &&& 0xFFFFFFFF0000031F#64) }
  if v.getLsbD 11 then { q with head := q.tail, rec_ := none, age := 0, ages := [] } else q

/-- The reservation of a queue's barge ends with it: when the barge is popped, and when a flush drops it (R101, R128). -/
def State.endReserve (s : State) (p q : Nat) : State :=
  s.modPart p (fun x => { x with reserve := match x.reserve with | some r => if r.1 = q then none else some r | none => none })

/-- A write of QCTL of the queue that the event names, with these bits set besides; the first accepted EN = 1 of a STOPPED partition makes
it RUN (R109). -/
def State.qctlWrite (s : State) (bits : Word) : State :=
  let a := s.arg
  let x := s.part a.part
  if x.st = 0 ∨ 64 ≤ a.idx then s
  else
    let q := s.queue a.part a.idx
    let v := halfWrite a.sub q.ctl 0x3800 a.val ||| bits
    if q.refuses (x.st == 3) v then s.modQueue a.part a.idx Queue.badw
    else
      let s := s.modQueue a.part a.idx (·.writeCtl v)
      let s := if v.getLsbD 11 then s.endReserve a.part a.idx else s
      if v.getLsbD 8 && x.st == 1 then s.modPart a.part (fun x => { x with st := 2, phase := 0, trig := 0 }) else s

/-- `QBASE_WRITE`, `QCTL_WRITE`, `QCTL_FLUSH` (R101): FLUSH lies in the low half, which a 4-byte write of the high half does not write (R115). -/
def execQbaseWrite (s : State) : Out :=
  let a := s.arg
  if (s.part a.part).st = 0 ∨ 64 ≤ a.idx then ok s
  else ok (s.modQueue a.part a.idx (fun q => q.writeBase (halfWrite a.sub q.base 0 a.val)))
def execQctlWrite (s : State) : Out := ok (s.qctlWrite 0)
def execQctlFlush (s : State) : Out := ok (s.qctlWrite (if s.arg.sub = 2 then 0 else 0x800))

/-- A write of QTAIL (R102). -/
def Queue.writeTail (q : Queue) (run : Bool) (t : Nat) : Queue :=
  if 2 ^ q.log2n < q.used + (t + 2 ^ 32 - q.tail) % 2 ^ 32 || q.ctl.getLsbD 9 || !run then q.baddb else { q with tail := t }
/-- `QTAIL_WRITE`. -/
def execQtailWrite (s : State) : Out :=
  let a := s.arg
  let x := s.part a.part
  if x.st = 0 ∨ 64 ≤ a.idx ∨ a.sub = 2 then ok s
  else ok (s.modQueue a.part a.idx (·.writeTail (x.st == 2) (wfld a.val 0 32)))

/-! ### Delivery rings (R103) -/

def Ring.badw (r : Ring) : Ring := { r with ctl := r.ctl ||| 0x200 }
/-- A write of RBASE, RPADDR or RCTL (registers 0, 1, 2). -/
def Ring.write (r : Ring) (reg : Nat) (v : Word) : Ring :=
  match reg with
  | 0 => if (r.en && v != r.base) || v.toNat % 2 ^ (r.log2n + 4) != 0 then r.badw else { r with base := v }
  | 1 => if (r.en && v != r.paddr) || v.toNat % 8 != 0 then r.badw else { r with paddr := v }
  | _ =>
    let n := wfld v 0 5
    if n < 8 || 20 < n || r.base.toNat % 2 ^ (n + 4) != 0 || (r.en && n != r.log2n) || wfld v 40 8 = 0 || wfld v 36 4 = 15 then r.badw
    else { r with ctl := ((r.ctl &&& ~~~v) &&& 0x200) ||| (v &&& 0xFFFFFFF00000011F#64) }
def Ring.reg (r : Ring) (reg : Nat) : Word := match reg with | 0 => r.base | 1 => r.paddr | _ => r.ctl
/-- `RING_CONFIG_WRITE` (R103): ring IDX, register NUM. -/
def execRingConfigWrite (s : State) : Out :=
  let a := s.arg
  if (s.part a.part).st = 0 ∨ 4 ≤ a.idx then ok s
  else
    let r := s.ring a.part a.idx
    ok (s.setRing a.part a.idx (r.write a.num (halfWrite a.sub (r.reg a.num) (if a.num = 2 then 0x200 else 0) a.val)))

/-! ### The partition's registers (R116, R119, R137) -/

/-- `PART_HERR_CLEAR`: V lies in the low half. -/
def execPartHerrClear (s : State) : Out :=
  if (s.part s.arg.part).st != 0 && s.arg.val.getLsbD 16 && s.arg.sub != 2 then ok (s.modPart s.arg.part (fun x => { x with herrVa := 0, herrInfo := 0 })) else ok s
/-- `PART_FRCONS_WRITE`. -/
def execPartFrconsWrite (s : State) : Out :=
  let v := wfld s.arg.val 0 32
  let x := s.part s.arg.part
  if x.st = 0 || s.arg.sub = 2 || 16 < (x.frprod + 2 ^ 32 - v) % 2 ^ 32 then ok s else ok (s.modPart s.arg.part (fun x => { x with frcons := v }))
/-- `PART_FRCTL_CLR`: CLR lies in the high half. -/
def execPartFrctlClr (s : State) : Out :=
  if (s.part s.arg.part).st != 0 && s.arg.val.getLsbD 32 && s.arg.sub != 1 then ok (s.modPart s.arg.part (fun x => { x with junder := 0, drop := 0 })) else ok s

/-- Does a saved context of the partition lie on a die? -/
def State.savedOn (s : State) (p d : Nat) : Bool :=
  s.gangs.any (fun g => g.part == p && g.spans d &&
    match g.phase with | .saving => true | .out => true | .restoring => true | _ => false)
/-- `PART_SAVE_WRITE` (R137): PART.SAVE of local die IDX. -/
def execPartSaveWrite (s : State) : Out :=
  let a := s.arg
  let x := s.part a.part
  if x.st = 0 ∨ 4 ≤ a.idx then ok s
  else
    let old := get 0 x.save a.idx
    let v := halfWrite a.sub old 0x8000 a.val
    let n := wfld v 0 4
    let new : Word := (v &&& 0x01FFFFFFFFFF000F#64) ||| ((old &&& ~~~v) &&& 0x8000)
    let bad := decide (8 < n) || (n != 0 && wfld v 45 12 != 4 * s.pkg + a.idx) ||
      (s.savedOn a.part a.idx && (n != wfld old 0 4 || wfld v 16 41 != wfld old 16 41))
    ok (s.modPart a.part (fun x => { x with save := put x.save a.idx (if bad then old ||| 0x8000 else new) }))
/-- `PART_HWIN_WRITE` (R119): window IDX. -/
def execPartHwinWrite (s : State) : Out :=
  let a := s.arg
  if 4 ≤ a.idx ∨ wfld a.val 57 7 ≠ 0 then ok s
  else ok (s.modPart a.part (fun x => { x with hwin := put x.hwin a.idx (a.val &&& 0x01FFFFF000000001#64) }))

/-! ### Registers without a behaviour of their own (R7, R8, R115–R118) -/

/-- A write into the MSI-X table of a function: 0 the PF, 1 + p the VF of partition p. -/
def State.msixWrite (s : State) (f off sub : Nat) (v : Word) : State :=
  { s with plain := put s.plain (f * 2 ^ 20 + off) (halfWrite sub (s.msixWord f off) 0 v) }

/-- The registers of a VF page at an offset. -/
def State.vfWrite (s : State) (p off sub : Nat) (v : Word) : State :=
  let x := s.part p
  if x.st = 0 then s
  else if off = 0xA20 then s.modPart p (fun x => { x with chbase := halfWrite sub x.chbase 0 v &&& ~~~0xFFF#64 })
  else if off = 0xA28 then s.modPart p (fun x => { x with frbase := halfWrite sub x.frbase 0 v &&& ~~~0xFFF#64 })
  else if 0x800 ≤ off && off < 0x900 && off % 0x40 = 0x18 && sub != 2 then
    let j := (off - 0x800) / 0x40
    s.setRing p j { s.ring p j with cidx := wfld v 0 32 }
  else if 0x8000 ≤ off && off < 0x8100 then (s.msixWrite (1 + p) off sub v).unmasked p ((off - 0x8000) / 16)
  else s

/-- The registers of the PF page: the management mailbox and the MSI-X table. -/
def State.pfWrite (s : State) (off sub : Nat) (v : Word) : State :=
  if 0x1000 ≤ off && off < 0x2000 then { s with plain := put s.plain off (halfWrite sub (get 0 s.plain off) 0 v) }
  else if 0x8000 ≤ off && off < 0x8200 then s.msixWrite 0 off sub v
  else s

/-- The registers of D0's management block that exist once. -/
def State.d0Write (s : State) (off : Nat) (v : Word) : State :=
  if off = 0 then s.modPw (fun p =>
    { p with en := v.getLsbD 0, fillEn := v.getLsbD 1, balEn := v.getLsbD 2, fresh := p.fresh || (v.getLsbD 0 && !p.en) })
  else if off = 0x10 then s.modPw (fun p => { p with badw := p.badw && !v.getLsbD 7 })
  else if off = 0x100 then s.modTm (fun t => { t with lock := v.getLsbD 2, arm := v.getLsbD 1, badw := t.badw && !v.getLsbD 3 })
  else if off = 0x110 then s.modTm (fun t => if t.run then t else { t with epoch := v.setWidth 48 })
  else if 0x40000 ≤ off && off < 0x40400 then
    let p := (off - 0x40000) / 0x40
    if off % 0x40 = 0 then s.modPart p (fun x => if x.slice.getLsbD 48 && v != x.next then { x with slice := x.slice ||| 0x4000000000000 } else { x with next := v })
    else if off % 0x40 = 0x10 then s.modPart p (fun x => { x with wgt := wfld v 0 8 })
    else s
  else if 0x90000 ≤ off && off < 0x91000 then { s with plain := put s.plain (2 ^ 25 + off) v }
  else s

/-- A write of XLAT.ROOT (R73). Wharf cannot write a BASE outside its table region (R111): such a write that changes BASE is ignored (log 87). -/
def Die.rootWrite (x : Die) (p : Nat) (v : Word) : Die :=
  let v := v &&& 0x7FFFFFC0001#64
  if wfld v 18 25 ≠ wfld (get 0 x.rootReg p) 18 25 ∧ !x.inTables (wfld v 18 25 * 2 ^ 18) 262144 then x
  else { x with rootReg := put x.rootReg p v }

/-- A write of Wharf to a word of a page table (R90, R92): it reaches the table region of the die only (R111). -/
def State.tableWrite (s : State) (d pa : Nat) (v : Word) : State :=
  if (s.die d).inTables pa 8 then { s with mem := s.mem.store (paKey d pa) (leBytes 8 v.toNat) } else s

/-- The registers of a die's management block. -/
def State.mgmtWrite (s : State) (d off : Nat) (v : Word) : State :=
  if 0x20000 ≤ off && off < 0x20080 then s.modDie d (·.rootWrite ((off - 0x20000) / 8) v)
  else if 0x20300 ≤ off && off < 0x20340 then s.carveWrite d ((off - 0x20300) / 8) v
  else if off = 0x20100 then s.modDie d (fun x => if x.shctl.getLsbD 9 then { x with shva := v } else x)
  else if off = 0x20108 then s.modDie d (fun x => if x.shctl.getLsbD 9 then { x with shn := v } else x)
  else if 0x20208 ≤ off && off < 0x20228 then
    let i := (off - 0x20208) / 8
    s.modDie d (fun x => { x with mapStage := (List.range 8).foldl (fun m j => put m (8 * i + j) (wfld v (8 * j) 5)) x.mapStage })
  else if 0x80000 ≤ off && off < 0x81000 then
    let i := (off - 0x80000) / 8
    let s := s.modDie d (fun x => { x with mailbox := put x.mailbox i v })
    if i % 4 = 3 then s.modTile (s.mailboxTile d (i / 4)) (fun t => t.modCt (fun c => { c with latch := true })) else s
  else if d = 0 then s.d0Write off v
  else s

/-- Wharf enables or disables the collective engine of a port group of a die (R58). Its buffer counts against the limit of the carve-outs (R17,
R88): an engine that the limit has no room for is not enabled. -/
def State.engineEnable (s : State) (d pg : Nat) (on : Bool) : State :=
  let x := s.die d
  if 4 ≤ pg then s
  else if !on then s.modDie d (fun x => { x with engOn := x.engOn &&& ~~~(BitVec.ofNat 4 (2 ^ pg)) })
  else if x.engOn.getLsbD pg || x.carveLimit < x.carveTotal 8 + 4 then s
  else
    let s := s.modDie d (fun x => { x with engOn := x.engOn ||| BitVec.ofNat 4 (2 ^ pg) })
    if (s.die d).lineCap < x.lineCap then s.giveWays d else s

/-- Wharf brings a CXL port up with memory of a size attached to it (R66, R68). -/
def State.portBringUp (s : State) (port size : Nat) : State :=
  if 16 ≤ port then s else { s with cxlUp := s.cxlUp ||| BitVec.ofNat 16 (2 ^ port), cxlSize := put s.cxlSize port size }

/-- `REGISTER_WRITE` (R7): IDX 0 a register of the VF page of partition PART, 1 of the PF page, 2 of the management block of die
DIE, 3 a word of that die's table region, at offset or address NUM; SUB names the half of a 4-byte access. The opcode table has no event for two
actions of Wharf to which the spec gives no register, so this one carries them: IDX 4 enables (bit 0 of VAL) or disables the collective engine of
port group NUM of die DIE (R58), and 5 brings up CXL port NUM with VAL bytes attached (R66, R68). -/
def execRegisterWrite (s : State) : Out :=
  let a := s.arg
  if a.idx = 4 then ok (s.engineEnable a.die a.num (a.val.getLsbD 0))
  else if a.idx = 5 then ok (s.portBringUp a.num a.val.toNat)
  else if a.num % 8 ≠ 0 then ok s
  else match a.idx with
    | 0 => ok (s.vfWrite a.part a.num a.sub a.val)
    | 1 => ok (s.pfWrite a.num a.sub a.val)
    | 3 => ok (s.tableWrite a.die a.num a.val)
    | _ => ok (s.mgmtWrite a.die a.num a.val)

end Sys2Proof.Machine
end

