-- ==== Sys2Proof/Machine/Redric.lean ====
section
/-! DEFINITION. The commands of Redric's mailbox (R99, R100, R114). Each is completed in full or refused in full. The tiles or frames of a
command are listed in the event's bytes: two bytes a tile (its Flight number), or with FLAG eight bytes a frame (die · 2^43 +
physical address). -/
namespace Sys2Proof.Machine

open Sys2Proof

/-- The numbers listed in a command. -/
def listed (w : Nat) (fuel : Nat) (bs : List Byte) : List Nat :=
  match fuel with
  | 0 => []
  | k + 1 => if bs.length < w then [] else leNat (bs.take w) :: listed w k (bs.drop w)
def Arg.items (a : Arg) : List Nat := listed (if a.flag then 8 else 2) a.bytes.length a.bytes

/-- The ownership byte of a tile (R99). -/
def Tile.ownByte (t : Tile) : BitVec 8 :=
  BitVec.ofNat 8 (b2n t.id.ownV * 2 ^ 7 + b2n t.id.ownClr * 2 ^ 6 + (if t.id.ownV then t.id.ownPart % 16 else 0))
/-- The ownership byte of a listed item. -/
def State.ownByte (s : State) (frame : Bool) (k : Nat) : BitVec 8 :=
  if frame then (s.die (k / 2 ^ 43)).own (k % 2 ^ 43) else (s.tile k).ownByte
/-- Set it. -/
def State.setOwn (s : State) (frame : Bool) (k : Nat) (b : BitVec 8) : State :=
  if frame then s.modDie (k / 2 ^ 43) (fun x => { x with owner := put x.owner (frameKey (k % 2 ^ 43)) b })
  else s.modTile k (fun t => { t with id := { t.id with ownV := b.getLsbD 7, ownClr := b.getLsbD 6, ownPart := b.toNat % 16 } })

/-- Does an item exist? -/
def State.exists_ (s : State) (frame : Bool) (k : Nat) : Bool :=
  if frame then decide (k / 2 ^ 43 < 4) && s.populated (k / 2 ^ 43) (k % 2 ^ 43) else decide (k < 512)

/-- `ASSIGN` (R100). -/
def execAssign (s : State) : Out :=
  let a := s.arg
  if a.items.all (fun k => s.exists_ a.flag k && (s.ownByte a.flag k) &&& 0xF0 == 0x40) then
    ok (a.items.foldl (fun s k => s.setOwn a.flag k (BitVec.ofNat 8 (0xC0 + a.part % 16))) s)
  else ok s

/-- `RELEASE` (R100): the items become unowned, and their clearing or zeroing starts. -/
def execRelease (s : State) : Out :=
  let a := s.arg
  let x := s.part a.part
  let mine := fun (k : Nat) => let b := s.ownByte a.flag k; b.getLsbD 7 && b.toNat % 16 == a.part
  if (x.st = 1 ∨ x.st = 2) ∧ a.items.all (fun k => s.exists_ a.flag k && mine k && (a.flag || (s.gangOf k).isNone)) then
    ok (a.items.foldl (fun s k => s.setOwn a.flag k 0) s)
  else ok s

/-- The bytes of the frame that holds a physical address (R99). -/
def frameSize (pa : Nat) : Nat := if isTier2 pa then 2 ^ 21 else 2 ^ 16

/-- Does an item wait to be cleared or zeroed: unowned with CLR = 0, in the Wharf table region or not (R99, R100)? -/
def unclean (b : BitVec 8) : Bool := !b.getLsbD 7 && !b.getLsbD 6

/-- `CLEAR_DONE` (R100): a released item has been cleared or zeroed. A change of owner clears a tile's Pound descriptors too (R210). -/
def execClearDone (s : State) : Out :=
  let a := s.arg
  if a.flag then
    let d := a.num / 2 ^ 43
    let pa := a.num % 2 ^ 43
    if unclean ((s.die d).own pa) then
      ok ((s.clearRange d (pa / frameSize pa * frameSize pa) (frameSize pa)).setOwn true a.num ((s.die d).own pa ||| 0x40))
    else ok s
  else if unclean (s.tile a.tile).ownByte then
    ok ((s.modTile a.tile (fun t => let t := t.clearState; { t with st := { t.st with pdesc := [] } })).setOwn false a.tile 0x40)
  else ok s

/-- Does a frame hold a table that is reachable from an XLAT.ROOT with V = 1 (R72, R100)? -/
def State.holdsTable (s : State) (d pa : Nat) : Bool :=
  let inside := fun (t n : Nat) => decide (pa / 65536 * 65536 < t + n) && decide (t < pa / 65536 * 65536 + 65536)
  (s.die d).roots.any fun r =>
    r.2.getLsbD 0 &&
      let root := r.2.toNat / 2 ^ 18 % 2 ^ 25 * 2 ^ 18
      inside root 262144 || (List.range 32768).any fun i =>
        let e := s.word64 d (root + 8 * i)
        leafBit e 0 && leafBit e 1 &&
          (inside (leafAddr e) 4096 || (List.range 512).any fun j =>
            let f := s.word64 d (leafAddr e + 8 * j)
            leafBit f 0 && leafBit f 1 && inside (leafAddr f) 256)

/-- `SETWT` (R100): frames join the Wharf table region (SUB 1) or leave it (SUB 0). DESIGN CHOICE (log 117): the table names no refusal for an RD frame; it is
refused like one that is owned. -/
def execSetwt (s : State) : Out :=
  let a := { s.arg with flag := true }
  if a.items.all (fun k => s.exists_ true k && !(s.ownByte true k).getLsbD 7 && !(s.ownByte true k).getLsbD 5 && !s.holdsTable (k / 2 ^ 43) (k % 2 ^ 43)) then
    ok (a.items.foldl (fun s k => s.setOwn true k (if a.sub = 1 then s.ownByte true k ||| 0x10 else s.ownByte true k &&& 0xEF)) s)
  else ok s

/-- `ENABLE` (R100). With the first partition PF.BOOTSTAT comes to its stage 3 (R113, R117), and stays there. -/
def execEnable (s : State) : Out :=
  let p := s.arg.part
  match (s.part p).st with
  | 0 => ok ({ s with key := put s.key p s.arg.val, boot := wset s.boot 0 3 3 }.modPart p (fun x => { x with st := 1 }))
  | 1 => ok { s with key := put s.key p s.arg.val }
  | _ => ok s

/-- Does a partition own a tile or a frame? -/
def State.ownsAny (s : State) (p : Nat) : Bool :=
  !(s.ownedBy p).isEmpty || (List.range 4).any (fun d => (s.die d).owner.any (fun e => e.2.getLsbD 7 && e.2.toNat % 16 == p))
/-- `DISABLE` (R100). -/
def execDisable (s : State) : Out :=
  let p := s.arg.part
  if s.ownsAny p then ok s else ok (s.modPart p (fun x => { x with st := 0, phase := 0, awaitGo := false }))

/-! ### Attestation (R114) -/

/-- What the device was given at its making (R114). -/
def fusedBytes (i n : Nat) : List Byte := (List.range n).map (fun k => Config.fused (i + k))

/-- The bytes of a bitmap from byte i on, bit k of it set for each listed k; the list rises. -/
def bitmapFrom (n i : Nat) (ks : List Nat) : List Byte :=
  match n with
  | 0 => []
  | n + 1 =>
    let now := ks.takeWhile (· < 8 * (i + 1))
    BitVec.ofNat 8 (now.foldl (fun a k => a + 2 ^ (k % 8)) 0) :: bitmapFrom n (i + 1) (ks.drop now.length)

/-- The bitmaps that the digest of a report covers (R114): the tiles by Flight number, then for each die the DRAM frames, the frames of the
carve window and the granules of the second tier. Number 0xFF stands for any partition. DESIGN CHOICE (log 88): R114 gives the frame bitmaps
no layout. -/
def State.ownBitmaps (s : State) (part : Nat) : List Byte :=
  let named := fun (v : Bool) (p : Nat) => v && (part == 0xFF || p == part)
  let tiles := (s.tiles.filter (fun t => named t.2.id.ownV t.2.id.ownPart)).map (·.1)
  let frames := fun (d lo n : Nat) => bitmapFrom ((n + 7) / 8) 0
    (((s.die d).owner.filter (fun e => decide (lo ≤ e.1) && decide (e.1 < lo + n) && named (e.2.getLsbD 7) (e.2.toNat % 16))).map (·.1 - lo))
  bitmapFrom 64 0 tiles ++ (List.range 4).flatMap (fun d => frames d 0 1953125 ++ frames d 0x800000 2048 ++ frames d (2 ^ 32 + 2 ^ 19) (2 ^ 21))

/-- The report. The 1588 time is that of R38; SEC and NSEC are 0 before the epoch. The serial number, the digests of Redric and Wharf and the
security versions are those the device has, the digest of the pager that of the image it holds; the signatures are free values (log 88). -/
def State.report (s : State) (part : Nat) (nonce : List Byte) : State × List Byte :=
  let (s, signed) := s.freeBytes (64 + 3309)
  let sec := if s.tm.run then s.tm.epoch.toNat + s.stamp / 700000000 else 0
  let nsec := if s.tm.run then s.stamp % 700000000 * 10 / 7 else 0
  let count := if part = 0xFF then (s.tiles.filter (fun t => t.2.id.ownV)).length else (s.ownedBy part).length
  (s, leBytes 2 1 ++ leBytes 2 (if part = 0xFF then 0 else 1) ++ leBytes 4 part ++ leBytes 8 sec ++ leBytes 4 nsec ++ leBytes 4 0 ++
    (nonce ++ List.replicate 32 0).take 32 ++ fusedBytes 0 16 ++ fusedBytes 16 96 ++ sha384 (s.pager.bytes 0 0x2000) ++ fusedBytes 112 6 ++ leBytes 2 0 ++
    sha384 (s.ownBitmaps part) ++ leBytes 2 count ++ leBytes 6 0 ++ signed)

/-- `ATTEST` (R100, R114): partition IDX or 0xFF, nonce in the bytes; the report goes to Redric's mailbox. -/
def execAttest (s : State) : Out :=
  let (s, r) := s.report s.arg.idx s.arg.bytes
  ok { s with notices := s.notices ++ [5 :: r.map BitVec.toNat] }

end Sys2Proof.Machine
end

