-- ==== Sys2Proof/Machine/Save.lean ====
section
/-! DEFINITION. The image of a tile's context in the save area and what a restore rebuilds from it (R136, R137, R143, R366). -/
namespace Sys2Proof.Machine

open Sys2Proof

/-! ### Bytes -/

/-- Words, rows and lists of rows as bytes, and back. -/
def wordsBytes (w : Nat) (l : List Nat) : List Byte := l.flatMap (leBytes w)
def bytesNats (w k : Nat) (b : List Byte) : List Nat := (List.range k).map (fun i => leNat ((b.drop (w * i)).take w))
def bytesWords (k : Nat) (b : List Byte) : List Word := (bytesNats 8 k b).map (BitVec.ofNat 64)
def toMap (l : List α) : SMap α := l.zipIdx.map (fun e => (e.2, e.1))

/-- The bytes of a part to whose inside the spec gives no layout: what the model lists there, under a mask that is free (log 96). -/
def masked (o : Nat) (b : List Byte) : List Byte := b.zipIdx.map (fun e => e.1 ^^^ Config.saveMask (o + e.2))

/-! ### What the parts list -/

/-- The loop stack (R137): first, last and count of each entry; no entry has count 0. -/
def Tile.lsWords (t : Tile) : List Nat :=
  (List.range 4).flatMap (fun i => match t.ct.loops[i]? with
    | some e => [e.first, e.last, e.count]
    | none => [0, 0, 0])
def lsOf (w : List Word) : List LoopEnt :=
  (List.range 4).filterMap (fun i =>
    let v := fun (k : Nat) => (w.getD (3 * i + k) 0).toNat
    if v 2 = 0 then none else some ⟨v 0, v 1, v 2⟩)

/-- The numbers of the modulo sequencer. -/
def Seqr.words (q : Seqr) : List Nat :=
  [q.mloop, q.n, q.pos, q.lcb.toNat, q.ii * 2 ^ 16 + q.sc, q.lines + q.handed * 2 ^ 16, b2n q.run + b2n q.started * 2 + b2n q.lcbValid * 4,
   packLanes 8 ((List.range 8).map (fun c => get 0 q.ahead (c + 1)))]
def Seqr.ofWords (old : Seqr) (w : List Word) : Seqr :=
  let v := fun (k : Nat) => (w.getD k 0).toNat
  { old with
    mloop := v 0, n := v 1, pos := v 2, lcb := BitVec.ofNat 32 (v 3), ii := v 4 / 2 ^ 16, sc := v 4 % 2 ^ 16, lines := v 5 % 2 ^ 16, handed := v 5 / 2 ^ 16,
    run := v 6 % 2 == 1, started := v 6 / 2 % 2 == 1, lcbValid := v 6 / 4 % 2 == 1, ahead := (List.range 8).map (fun c => (c + 1, v 7 / 256 ^ c % 256)) }

/-- The thread-state system registers and the state of R366 that is saved with them; 52 words. -/
def Tile.sysWords (t : Tile) : List Nat :=
  [t.cnt, b2n t.ct.mode + b2n t.ct.latch * 2 + t.ct.missCnt.toNat * 2 ^ 16, t.ct.cause.toNat, t.ct.epc.toNat, t.ct.xpc.toNat, t.ct.fpc.toNat,
   t.ct.xva.toNat, t.ct.xinfo.toNat, t.mx.idleMax.toNat, t.sq.mstep.toNat, t.sq.cfg.toNat, t.sq.win.toNat, t.sq.amax.toNat, t.sq.rng.toNat] ++
  (List.range 16).map (fun i => (t.pndMap i).toNat) ++
  [t.id.rank + t.id.gsize * 2 ^ 32, t.id.barge.toNat, t.id.prog.toNat, t.mx.ksel + t.mx.spn * 2 ^ 8 + t.mx.breg * 2 ^ 16 + t.mx.mode * 2 ^ 24 + t.mx.aptr * 2 ^ 32 + b2n (!t.mx.msrc.isEmpty) * 2 ^ 63,
   t.mx.rbase, t.mx.rrow, t.mx.qrow, (match t.mx.group with | some k => k + 1 | none => 0)] ++
  (List.range 10).map (fun k => (get 0 t.mx.msrc k).toNat) ++ t.mx.rows :: List.replicate 3 0
def Tile.withSys (t : Tile) (w : List Word) : Tile :=
  let v := fun (k : Nat) => w.getD k 0
  let m := fun (lo n : Nat) => wfld (v 33) lo n
  { t with
    cnt := (v 0).toNat,
    ct := { t.ct with mode := (v 1).getLsbD 0, latch := (v 1).getLsbD 1, missCnt := BitVec.ofNat 16 (wfld (v 1) 16 16), cause := v 2, epc := v 3, xpc := v 4,
                      fpc := v 5, xva := v 6, xinfo := v 7 },
    mx := { t.mx with idleMax := (v 8).setWidth 16, ksel := m 0 8, spn := m 8 8, breg := m 16 8, mode := m 24 8, aptr := m 32 16, rbase := (v 34).toNat, rrow := (v 35).toNat,
                      qrow := (v 36).toNat, group := (if v 37 = 0 then none else some ((v 37).toNat - 1)), rows := (v 48).toNat,
                      msrc := (if (v 33).getLsbD 63 then toMap ((List.range 10).map (fun k => v (38 + k))) else []) },
    sq := { t.sq with mstep := v 9, cfg := v 10, win := v 11, amax := v 12, rng := v 13 },
    st := { t.st with pdesc := (List.range 64).map (fun k => (k, BitVec.ofNat 16 (wfld (v (14 + k / 4)) (16 * (k % 4)) 16))) },
    id := { t.id with rank := wfld (v 30) 0 32, gsize := wfld (v 30) 32 32, barge := v 31, prog := v 32 } }

/-! ### The image -/

/-- The K-row group of an `MTILE` at which pre-emption stops: the next one, behind the group in progress (R136, R372). -/
def Tile.stopGroup (t : Tile) : Nat := t.mx.group.getD 0 + (if t.mx.edge = t.cnt then 0 else 1)
/-- A step of an `MTILE` from group k on, or its end behind such a step. -/
def Tile.fromGroup (t : Tile) (k : Nat) (p : Pend) : Bool :=
  let step := fun (p : Pend) => match p.act with | .mtSel j => decide (k ≤ j) | .mtStep j _ _ _ _ _ _ => decide (k ≤ j) | _ => false
  step p || (p.act == .mtEnd && t.pend.any step)
/-- A landing of an `MTILE` that belongs to a later K-row group than the one in progress: pre-emption stops before it (R136, R372). -/
def Tile.laterGroup (t : Tile) (p : Pend) : Bool := t.fromGroup t.stopGroup p
/-- One count of the draining of a tile. -/
def Tile.drainCount (t : Tile) : Tile :=
  let t := { t with cnt := t.cnt + 1, ct := { t.ct with clk := t.ct.clk + 1 }, old := none }
  (t.dueNow false).foldl (fun t p => t.landed p.act) (t.landed_ false)
/-- A tile whose columns have drained their issued instructions (R136, step 2). -/
def Tile.drainedImage (t : Tile) : Tile :=
  let u := { t with pend := t.pend.filter (fun p => !t.laterGroup p) }
  (List.range (u.landings.foldl (fun m p => Nat.max m (p.due + 16)) t.cnt - t.cnt)).foldl (fun u _ => u.drainCount) u

/-- The parts of a context (R137). `d` is the tile with its issued instructions drained; the gang counter and the fetch state are those of `t`. -/
def Tile.image (t : Tile) : List (Nat × List Byte) :=
  let d := t.drainedImage
  let rows := fun (l : List Row) => l.flatMap rowBytes
  [(0x000000, wordsBytes 8 ([Col.ct, .ld, .st, .vx, .mx, .sq, .lk, .ce].map t.pc)),
   (0x000040, wordsBytes 8 ((List.range 32).map (fun r => (d.g r).toNat))),
   (0x000140, wordsBytes 8 ((List.range 16).map (fun r => (get 0 d.ct.areg r).toNat))),
   (0x0001C0, masked 0x1C0 (wordsBytes 8 t.lsWords)),
   (0x000220, masked 0x220 (wordsBytes 8 t.fe.seqr.words)),
   (0x000260, masked 0x260 (wordsBytes 8 ({ d with cnt := t.cnt }).sysWords)),
   (0x000400, masked 0x400 (wordsBytes 8 ((List.range 72).map (fun k => (get 0 d.ct.preg k).toNat)))),
   (0x000640, wordsBytes 4 ((List.range 64).map (fun n => (d.sem n).toNat))),
   (0x000740, (List.range 4).flatMap (fun q => wordsBytes 8 ((List.range 8).map (fun k => (qWordOf ((d.queue q).getD k 0)).toNat) ++ [(d.queue q).length]))),
   (0x000860, masked 0x860 (wordsBytes 1 ((List.range 10).map (fun f => get 0 d.qs.tok f) ++ List.replicate 22 0))),
   (0x000880, (List.range 8).flatMap (fun o => leBytes 128 (get 0 d.sq.ops o).toNat)),
   (0x001280, List.replicate 1408 0),
   (0x001800, (List.range 4).flatMap (fun q => rows ((List.range 2).map (fun k => (d.queue (4 + q)).getD k 0)))),
   (0x004000, rows ((List.range 16).map d.scaleRow)),
   (0x006000, rows ((List.range 128).map d.row)),
   (0x016000, rows ((List.range 1536).map (fun k => get 0 d.st.bslice k))),
   (0x0D6000, rows ((List.range 1024).map (fun k => get 0 d.st.pound k))),
   (0x156000, (List.range 0x200000).map d.st.spad.read)]
/-- The parts of the records of the engines, whose layout the spec does not give and which hold what no partition can read: free bytes are
written there (log 96). -/
def openParts : List (Nat × Nat) := [(0xC80, 1024), (0x1080, 512), (0x2800, 6144)]

/-! ### The restore -/

/-- A restore rebuilds the latch from K-row KSEL of the restored slice, and the mask store, once an `MSPX` has recorded MSRC, from the 48 rows that MSRC names in the
restored scratchpad (R366). -/
def Tile.rebuildMx (t : Tile) : Tile :=
  let src : Tile := { t with ct := { t.ct with preg := t.mx.msrc } }
  let rows := (List.range 48).map (fun k => (k, t.spadRow (src.patAddr 0 (get 0 t.mx.msrc 9 + BitVec.ofNat 64 k)).toNat))
  { t with mx := { t.mx with latch := t.kRow t.mx.ksel, mask := if t.mx.msrc = [] then t.mx.mask else rows } }

/-- Do the queues hold what a refetch from the lowest of their addresses gives: no modulo loop is in progress, no branch waits for the words
before it, and the words of every column ascend to the fetch position? -/
def Tile.refetches (t : Tile) : Bool :=
  !t.fe.seqr.run && !t.fe.drain && (Col.ct :: otherCols).all (fun c =>
    let l := (t.iq c).map (·.addr)
    l.all (fun a => decide (a < t.fe.pc / 32 * 32)) && decide (l.Pairwise (· < ·)))
/-- Fetch after a restore (R143): it reads from the lowest of the saved line addresses on, and each column takes the words from its own saved
program counter on. Queues that no such refetch gives come back as they were (log 96). -/
def Fetch.restored (x : Fetch) (linear : Bool) (pcs : List Nat) : Fetch :=
  if !linear then { x with buf := [] }
  else
    let cols := [Col.ct, .ld, .st, .vx, .mx, .sq, .lk, .ce]
    { x with iq := [], buf := [], pc := pcs.foldl Nat.min (pcs.headD 0) / 32 * 32, tgt := false, skip := (cols.zip pcs).foldl (fun m e => put m (colCode e.1) e.2) [] }

/-- The entries that an issued instruction was still to write are as they were before it: it lands at its own gang count (R146, R152). -/
def beforeDue [DecidableEq α] (d : α) (mem drained old : SMap α) : SMap α :=
  ((drained ++ old).map (·.1)).foldl (fun m k => if get d drained k = get d old k then m else put m k (get d old k)) mem
def Memory.beforeDue (mem drained old : Memory) : Memory :=
  ((drained.filter (fun c => !old.contains c) ++ old.filter (fun c => !drained.contains c)).map (·.1)).foldl (fun m a => m.write a (old.read a)) mem

/-- A tile takes its context back (R136): the parts from memory, the commands and receives of its engines and what is still to land as they were.
Every sub-array is gated (R44). -/
def Tile.restored (cur old : Tile) (b : List Byte) : Tile :=
  let d := old.drainedImage
  let part := fun (o n : Nat) => (b.drop o).take n
  let words := fun (o k : Nat) => bytesWords k (part o (8 * k))
  let shown := fun (o k : Nat) => bytesWords k (masked o (part o (8 * k)))
  let rows := fun (o k : Nat) => (bytesNats 512 k (part o (512 * k))).map (BitVec.ofNat 4096)
  let q03 := (List.range 4).map (fun q =>
    let w := bytesNats 8 9 (part (0x740 + 72 * q) 72)
    (q, (w.take (Nat.min 8 (w.getD 8 0))).map (fun v => wordRow (BitVec.ofNat 64 v))))
  let q47 := (List.range 4).map (fun q => (4 + q, (rows (0x1800 + 1024 * q) 2).take (old.queue (4 + q)).length))
  let t : Tile := { old with
    ct := { old.ct with g := toMap (words 0x40 32), areg := beforeDue 0 (toMap (words 0x140 16)) d.ct.areg old.ct.areg,
                        preg := beforeDue 0 (toMap (shown 0x400 72)) d.ct.preg old.ct.preg, loops := lsOf (shown 0x1C0 12) },
    qs := { old.qs with sm := beforeDue 0 (toMap ((bytesNats 4 64 (part 0x640 256)).map (BitVec.ofNat 32))) d.qs.sm old.qs.sm,
                        q := beforeDue [] (q03 ++ q47) d.qs.q old.qs.q,
                        tok := beforeDue 0 (toMap (bytesNats 1 10 (masked 0x860 (part 0x860 10)))) d.qs.tok old.qs.tok },
    sq := { old.sq with ops := beforeDue 0 (toMap ((bytesNats 128 8 (part 0x880 1024)).map (BitVec.ofNat 1024))) d.sq.ops old.sq.ops },
    st := { old.st with scale := beforeDue 0 (toMap (rows 0x4000 16)) d.st.scale old.st.scale, v := beforeDue 0 (toMap (rows 0x6000 128)) d.st.v old.st.v,
                        bslice := beforeDue 0 (toMap (rows 0x16000 1536)) d.st.bslice old.st.bslice, pound := beforeDue 0 (toMap (rows 0xD6000 1024)) d.st.pound old.st.pound,
                        spad := Memory.beforeDue (Memory.store [] 0 (part 0x156000 0x200000)) d.st.spad old.st.spad, health := cur.st.health, events := cur.st.events },
    en := { old.en with gens := cur.en.gens, nextKey := cur.en.nextKey },
    fe := { old.fe with store := cur.fe.store, gone := cur.fe.gone, seqr := old.fe.seqr.ofWords (shown 0x220 8) },
    wa := cur.wa, cache := [], old := none, run := true }
  -- Of an interrupted `MTILE` the groups from the saved macro-op step on are still to come (R366, R372).
  let next := ((shown 0x260 52).getD 37 0).toNat - 1
  let t := { t with pend := t.pend.filter (fun p => !(old.fromGroup old.stopGroup p && p.act != Act.mtEnd) || old.fromGroup next p) }
  let t := if ({ d with cnt := old.cnt }).sysWords = old.sysWords then t.withSys (shown 0x260 52) else t
  ({ t with fe := t.fe.restored old.refetches (bytesNats 8 8 (part 0 64)), mx := { t.mx with gated := 0xF, idle := [] },
            pend := t.pend.filter (fun p => match p.act with | .ungate _ => false | _ => true),
            id := { t.id with ownV := cur.id.ownV, ownClr := cur.id.ownClr, ownPart := cur.id.ownPart, active := true } }).rebuildMx

end Sys2Proof.Machine
end

