-- ==== Sys2Proof/Machine/Sched.lean ====
section
/-! DEFINITION. The scheduler (06_scheduler): reading the heads of queues, selection and placement, the start of a gang, join
decrements, gang time slices with the context save area, and the queue watchdogs (R108). -/
namespace Sys2Proof.Machine

open Sys2Proof

/-! ### Barges (R122, R123) -/

/-- The fields of SHAPE, and of a record of eight words. -/
def recW (r : List Word) (k : Nat) : Nat := (r.getD k 0).toNat
def shape (r : List Word) : Word := r.getD 4 0
def shBase (r : List Word) : Nat := wfld (shape r) 39 9
def shDiem (r : List Word) : Nat := wfld (shape r) 24 4
def shPart (r : List Word) : Nat := wfld (shape r) 20 4
def shLog (r : List Word) : Nat := wfld (shape r) 16 4
def shPrio (r : List Word) : Nat := wfld (shape r) 8 3
def shScls (r : List Word) : Nat := wfld (shape r) 4 3
def shPin (r : List Word) : Bool := (shape r).getLsbD 1
def shFiller (r : List Word) : Bool := (shape r).getLsbD 0
def permits (r : List Word) (d : Nat) : Bool := shDiem r / 2 ^ d % 2 == 1

/-- Is a slice class in CMASK? -/
def Part.classOn (x : Part) (c : Nat) : Bool := x.slice.getLsbD (32 + c)

/-- The record breaks a rule of R123. -/
def badBarge (p : Nat) (r : List Word) : Bool :=
  let s := shape r
  recW r 6 != 0 || recW r 7 != 0 || wfld s 48 16 != 0 || wfld s 32 7 != 0 || wfld s 11 5 != 0 || s.getLsbD 7 || wfld s 2 2 != 0 ||
    (!shPin r && shBase r != 0) || recW r 0 % 32 != 0 || recW r 2 % 8 != 0 || recW r 3 % 8 != 0 || decide (9 < shLog r) || shPart r != p ||
    shDiem r == 0 || (shLog r == 8 && !(shDiem r % 4 == 3 || shDiem r / 4 == 3)) || (shLog r == 9 && shDiem r != 0xF) ||
    (shPin r && (shBase r % 2 ^ shLog r != 0 || !permits r (shBase r / 128)))

/-- ID.BARGE (R130). -/
def bargeId (q pop : Nat) : Word := BitVec.ofNat 64 (q * 2 ^ 32 + pop % 2 ^ 32)

/-- A pop: QHEAD advances and the queue's watchdog restarts (R108, R129). -/
def Queue.popHead (q : Queue) : Queue := { q with head := (q.head + 1) % 2 ^ 32, rec_ := none, age := 0, ages := [], dog := 0 }

/-- A barge is popped and aborted before it has run: BADBARGE or NOPLACE (R123, R126, R140). -/
def State.dropBarge (s : State) (p q cause : Nat) : State :=
  let x := s.queue p q
  let r := x.rec_.getD []
  let s := (s.modQueue p q Queue.popHead).endReserve p q
  s.writeRecord ⟨cause, 0, p, [bargeId q x.head, r.getD 0 0, r.getD 3 0, 0, BitVec.ofNat 64 s.stamp, 0, BitVec.ofNat 64 (2 ^ 64 - 1), 0, 0, 0, 0], 0, true⟩

/-- A queue whose head has just been read: of the cycles since its barge became head those count in which its slice class was in CMASK (R128). -/
def Queue.aged (q : Queue) : Queue := { q with age := get 0 q.ages (shScls (q.rec_.getD [])), ages := [] }

/-- `BARGE_HEAD_READ` (R122, R123): the record of a new head is read once. -/
def execBargeHeadRead (s : State) : Out :=
  let p := s.arg.part
  let i := s.arg.idx
  let q := s.queue p i
  let va := q.base.toNat + 64 * (q.head % 2 ^ q.log2n)
  if (s.part p).st != 2 || !q.en || q.head = q.tail || q.rec_.isSome || 64 ≤ i then ok s
  else match s.coReadVia 0 p va 64 .rd with
    | (_, .wait) => ok s
    | (t, .ok b) => ok (t.modQueue p i (fun q => { q with rec_ := some ((List.range 8).map (fun k => BitVec.ofNat 64 (leNat ((b.drop (8 * k)).take 8)))) }.aged))
    | (t, .fault f) =>
      let t := t.modQueue p i Queue.popHead
      ok (t.writeRecord ⟨1, f.sub, p, [bargeId i q.head, 0, 0, 0, 0, 0, BitVec.ofNat 64 (2 ^ 64 - 1), BitVec.ofNat 64 va, xfltInfo va p 0 0 f, 0, 0], 0, true⟩)

/-! ### Placement (R124–R126) -/

/-- CTXN of a partition on a local die (R137). -/
def Part.ctxn (x : Part) (d : Nat) : Nat := wfld (get 0 x.save d) 0 4
/-- Does a gang hold a saved context? -/
def Gang.holdsCtx (g : Gang) : Bool := match g.phase with | .saving => true | .out => true | .restoring => true | _ => false
/-- The context indices in use on a tile. -/
def State.ctxUsed (s : State) (p n : Nat) : List Nat := (s.gangs.filter (fun g => g.part == p && g.has n && g.holdsCtx)).map (·.ctx)
/-- The tiles of a block. -/
def blockTiles (base log2 : Nat) : List Nat := (List.range (2 ^ log2)).map (base + ·)
/-- The lowest context index that is free on all tiles of a block, below CTXN on every die that has a save area. -/
def State.freeCtx (s : State) (p base log2 : Nat) : Option Nat :=
  (List.range 8).find? (fun c => (blockTiles base log2).all (fun n =>
    let k := (s.part p).ctxn (n / 128)
    k == 0 || (decide (c < k) && !(s.ctxUsed p n).contains c)))

/-- May a partition's barges run on a tile at all (R22, R125)? -/
def Tile.usable (t : Tile) (p : Nat) : Bool :=
  t.id.ownV && t.id.ownPart == p && (match t.wa.health with | .healthy => true | .readmitted => true | _ => false) && !t.st.health.getLsbD 30

/-- Is a block a candidate for a barge of a partition (R125)? -/
def State.candidate (s : State) (p : Nat) (r : List Word) (base : Nat) : Bool :=
  (blockTiles base (shLog r)).all (fun n =>
    let k := (s.part p).ctxn (n / 128)
    permits r (n / 128) && (s.tile n).usable p && (k == 0 || decide ((s.ctxUsed p n).length < k))) && (s.freeCtx p base (shLog r)).isSome

/-- The candidate blocks of a barge, lowest base first. -/
def State.candidates (s : State) (p : Nat) (r : List Word) : List Nat :=
  (if shPin r then [shBase r] else (List.range (512 / 2 ^ shLog r)).map (· * 2 ^ shLog r)).filter (s.candidate p r)

/-- Do two aligned blocks overlap? -/
def overlap (a la b lb : Nat) : Bool := decide (a < b + 2 ^ lb) && decide (b < a + 2 ^ la)
/-- Is a block idle: no gang runs there, and no store of an aborted one is still to perform? -/
def State.idleBlock (s : State) (base log2 : Nat) : Bool :=
  !s.gangs.any (fun g => g.onTiles && overlap g.base g.log2 base log2) && (blockTiles base log2).all (fun n => (s.tile n).run || (s.tile n).pend.isEmpty)
/-- The restore candidates of a partition (R135). -/
def State.restores (s : State) (p : Nat) : List Gang :=
  s.gangs.filter (fun g => g.part == p && (match g.phase with | .out => true | _ => false) && (match g.cand with | some c => decide (c ≤ s.stamp) | none => false))
/-- Is a candidate free for the barge of queue q (R34, R125, R135)? DESIGN CHOICE (log 101): MODE is the module's, so while it is 1 every die of the
package is one that the Weir is throttling. -/
def State.freeBlock (s : State) (p q base log2 : Nat) : Bool :=
  s.idleBlock base log2 && s.pw.mode != 1 && !(s.restores p).any (fun g => overlap g.base g.log2 base log2) &&
    (match (s.part p).reserve with | some (rq, rb, rl) => rq == q || !overlap rb rl base log2 | none => true)

/-! ### Selection (R127, R128) -/

/-- A head barge that takes part in the selection: its queue, effective priority and record. -/
structure Head where
  q : Nat
  prio : Nat
  rec_ : List Word
  deriving DecidableEq, Repr

/-- The effective priority of a head (R128, step 2). -/
def Queue.prio (q : Queue) (r : List Word) : Nat := Nat.min 7 (shPrio r + q.age / 2 ^ 20)

/-- The eligible heads of a partition (R128, steps 1 to 3). -/
def State.heads (s : State) (p : Nat) : List Head :=
  let x := s.part p
  if x.st != 2 || !s.tm.run then []
  else x.queues.filterMap (fun e => match e.2.rec_ with
    | some r =>
      if e.2.en && e.2.head != e.2.tail && x.classOn (shScls r) && (!shFiller r || s.pw.fill || decide (2 ^ 24 ≤ e.2.age)) then
        some ⟨e.1, e.2.prio r, r⟩
      else none
    | none => none)

/-- The order of the heads: the highest effective priority first; at one priority from the queue after the one last served at it,
cyclically (R128, step 4). -/
def Part.ordered (x : Part) (l : List Head) : List Head :=
  (List.range 8).reverse.flatMap (fun e =>
    let same := l.filter (·.prio == e)
    let ptr := get 63 x.served e
    same.filter (fun h => ptr < h.q) ++ same.filter (fun h => h.q ≤ ptr))

/-- What a selection comes to. -/
inductive Sel where
  | drop (q cause : Nat)
  | place (h : Head) (base : Nat)
  | idle

/-- How many tiles of a block are busy. -/
def State.busyTiles (s : State) (base log2 : Nat) : Nat := ((blockTiles base log2).filter (fun n => (s.gangOf n).isSome)).length

/-- The candidate with the fewest busy tiles, ties to the lowest base. -/
def State.fewest (s : State) (log2 : Nat) (l : List Nat) : Option Nat :=
  l.foldl (fun m b => match m with
    | none => some b
    | some a => if s.busyTiles b log2 < s.busyTiles a log2 then some b else some a) none

/-- A blocked head reserves its best candidate, unless a barge of at least its effective priority holds the reservation, be that one's
queue eligible now or not (R128, steps 6 and 7). -/
def State.reserveFor (s : State) (p : Nat) (h : Head) (cands : List Nat) : State :=
  let holds := match (s.part p).reserve with
    | some (rq, rb, _) => if rq = h.q then cands.contains rb else decide (h.prio ≤ (s.queue p rq).prio ((s.queue p rq).rec_.getD []))
    | none => false
  if holds then s
  else match s.fewest (shLog h.rec_) cands with
    | some b => s.modPart p (fun x => { x with reserve := some (h.q, b, shLog h.rec_) })
    | none => s

/-- Steps 4 to 7 of R128 over the ordered heads. -/
def State.select (s : State) (p : Nat) (l : List Head) : State × Sel :=
  match l with
  | [] => (s, .idle)
  | h :: r =>
    if badBarge p h.rec_ then (s, .drop h.q 9)
    else
      let cands := s.candidates p h.rec_
      if cands.isEmpty then (s, .drop h.q 8)
      else match cands.find? (fun b => s.freeBlock p h.q b (shLog h.rec_)) with
        | some b => (s, .place h b)
        | none => (s.reserveFor p h cands).select p r

/-- A running walker of the partition stands at an ENGINE node (R127). -/
def State.engineWork (s : State) (p : Nat) : Bool :=
  (s.part p).st == 2 && (s.part p).walkers.any (fun w => w.2.state == 1 && !w.2.waiting &&
    (match s.coReadVia 0 p (w.2.base.toNat + 32 * w.2.node) 32 .rd with
     | (_, .ok b) => leNat (b.take 1) == 2
     | _ => false))

/-- Has a partition eligible work (R127)? -/
def State.eligible (s : State) (p : Nat) : Bool := !(s.heads p).isEmpty || s.engineWork p

/-- The partition that is visited next: in ascending order, cyclically; one with W = 0 only when no other has work. -/
def State.nextVisit (s : State) : Option Nat :=
  let order := (List.range 16).map (fun i => (s.visit + 1 + i) % 16)
  let work := order.filter s.eligible
  match work.find? (fun p => (s.part p).wgt != 0) with
  | some p => some p
  | none => work.head?

/-- The first multiple of 64 that is at least a number. -/
def ceil64 (n : Nat) : Nat := (n + 63) / 64 * 64

/-- A tile from its placement on: its identity, and fetch from CODE; nothing issues before S (R129, R130, R142). -/
def Tile.placed (t : Tile) (p q pop rank size : Nat) (r : List Word) (stamp : Nat) : Tile :=
  { t with
    fe := { Fetch.reset with store := t.fe.store, pc := recW r 0, at_ := stamp + 1, on := true },
    ct := { t.ct with handler := false, reqs := [], early := [], halted := false },
    en := { t.en with chans := [], chansOk := false },
    id := { t.id with part := p, rank := rank, gsize := size, barge := bargeId q pop, prog := r.getD 3 0, mark := none,
                      ended := false, active := true } }

/-- A placement (R128, R129). -/
def State.place_ (s : State) (p : Nat) (h : Head) (base : Nat) : State :=
  let q := s.queue p h.q
  let n := shLog h.rec_
  let s := (s.modQueue p h.q Queue.popHead).endReserve p h.q
  let s := s.modPart p (fun x => { x with deficit := x.deficit - 2 ^ n, served := put x.served h.prio h.q })
  let g : Gang := ⟨base, n, p, h.q, BitVec.ofNat 64 q.head, h.rec_, .placed, s.stamp + 128, [], [], 0, none, none, none, 0, 0, false, false, [], 0, 0, none⟩
  let s := { s with gangs := s.gangs ++ [g], placedAt := some s.stamp }
  (blockTiles base n).foldl (fun s k => s.modTile k (·.placed p h.q q.head (k - base) (2 ^ n) h.rec_ s.stamp)) s

/-- Would an ENGINE node of the partition start its job now (R127, R132)? -/
def State.engineReady (s : State) (p : Nat) : Bool :=
  (s.part p).walkers.any (fun w => decide (
    (({ s with arg := { Arg.zero with part := p, idx := w.1 } }.nodeStep 2 engineNode).part p).deficit < (s.part p).deficit))

/-- Partitions found with no eligible work have their deficit set to 0 (R127). -/
def State.idleParts (s : State) (l : List Nat) : State :=
  (l.filter (fun j => !s.eligible j)).foldl (fun s j => s.modPart j (fun x => { x with deficit := 0 })) s

/-- `BARGE_SELECT` (R127–R129): while a visit lasts, one dispatch of the visited partition, at most one placement in 8 c; a visit
ends when nothing more of it can be dispatched, neither a barge nor an ENGINE job, and the next visit adds 16 times the weight to the deficit.
DESIGN CHOICE (log 98): a head that is popped and aborted counts as served at its priority. -/
def State.bargeSelect (s : State) : State :=
  let p := s.visit
  if s.visiting then
    let hs := (s.part p).ordered (s.heads p)
    let stop := fun (s : State) => if s.engineReady p then s else { s.idleParts [p] with visiting := false }
    if (s.restores p).any (fun g => s.idleBlock g.base g.log2) then s
    else match s.select p hs with
      | (s, .drop q c) => (s.dropBarge p q c).modPart p (fun x => { x with served := put x.served ((hs.find? (·.q == q)).elim 0 (·.prio)) q })
      | (s, .idle) => stop s
      | (t, .place h b) =>
        if (t.part p).deficit < 2 ^ shLog h.rec_ then stop t
        else if (match t.placedAt with | some x => decide (t.stamp < x + 8) | none => false) then s
        else t.place_ p h b
  else match s.nextVisit with
    | none => s.idleParts (List.range 16)
    | some k =>
      let s := s.idleParts ((List.range ((k + 15 - s.visit) % 16)).map (fun i => (s.visit + 1 + i) % 16))
      { s with visit := k, visiting := true }.modPart k (fun x => { x with deficit := x.deficit + 16 * (if x.wgt = 0 then 1 else x.wgt) })
def execBargeSelect (s : State) : Out := ok s.bargeSelect

/-! ### The start of a gang (R105, R129, R130) -/

/-- The channel table of 256 entries (R105). -/
def chanTable (b : List Byte) : SMap (Word × Word) :=
  (List.range 256).map (fun k => (k, (BitVec.ofNat 64 (leNat ((b.drop (16 * k)).take 8)), BitVec.ofNat 64 (leNat ((b.drop (16 * k + 8)).take 8)))))

/-- `CHANNEL_TABLE_READ` (R105, R129): a tile of a placed gang reads the table with acquire (R177); a fault makes every entry invalid. S follows the
last read. -/
def execChannelTableRead (s : State) : Out :=
  let n := s.arg.tile
  match s.gangOf n with
  | none => ok s
  | some g =>
    let put_ := fun (s : State) (m : SMap (Word × Word)) =>
      ok ((s.modTile n (fun t => { t with en := { t.en with chans := m, chansOk := true } })).modGang g.base (fun x => { x with start := Nat.max x.start (s.stamp + 1) }))
    match g.phase with
    | .placed =>
      let s := s.flushCache n
      if (s.tile n).en.chansOk || s.backHeld n (fun _ => true) then ok s
      else match s.coReadVia (dieOf n) g.part (s.part g.part).chbase.toNat 4096 .rd with
        | (_, .wait) => ok s
        | (t, .fault _) => put_ t []
        | (t, .ok b) => put_ t (chanTable b)
    | _ => ok s

/-- The state of a tile at S (R130, R192, R204, R266, R364, R366): what is cleared and what is kept. -/
def Tile.begin_ (t : Tile) (frame arg : Word) (start size : Nat) : Tile :=
  { t with
    ct := { Ct.reset with g := put (put [] 1 frame) 2 arg, mode := false, clk := t.ct.clk, cause := t.ct.cause, epc := t.ct.epc, xpc := t.ct.xpc, fpc := t.ct.fpc,
                          xva := t.ct.xva, xinfo := t.ct.xinfo },
    qs := .reset, pend := [],
    mx := .reset, sq := { Sq.reset with cfg := BitVec.ofNat 64 (size % 2 ^ 16) },
    fe := { t.fe with cols := (List.range 9).map (fun c => (c, { ColSt.init with after := start })) },
    en := { t.en with posted := [], recvs := [], overflow := [], ceq := [], lkq := [], spq := [], allow := [] },
    cnt := start, run := true }

/-- The stamp S of a placed gang, once every tile has read its table. -/
def State.startStamp (s : State) (g : Gang) : Option Nat :=
  if g.tiles.all (fun n => (s.tile n).en.chansOk) then some (ceil64 g.start) else none

/-- `GANG_START` (R129, R130, R34): at S every rank starts; while a die is throttled S moves to the first multiple of 64 c after the
next window. -/
def execGangStart (s : State) : Out :=
  match s.gangOf s.arg.idx with
  | none => ok s
  | some g => match g.phase, s.startStamp g with
    | .placed, some x =>
      if s.stamp < x then ok s
      else if s.pw.mode = 1 then ok (s.modGang g.base (fun y => { y with start := s.stamp / 700 * 700 + 701 }))
      else if s.stamp % 64 != 0 then ok s
      else
        let s := g.tiles.foldl (fun s n => s.modTile n (·.begin_ (g.word 1) (g.word 5) s.stamp (2 ^ g.log2))) s
        ok (s.modGang g.base (fun y => { y with phase := .running, start := s.stamp }))
    | _, _ => ok s

/-! ### Joins (R131) -/

/-- `JOIN_DECREMENT` (R131): the word at JOIN is decremented once. Whichever classes CCLS names, their accesses have performed: `DONE` waits for
all of them and cleans the cache (R309). -/
def execJoinDecrement (s : State) : Out :=
  match s.joins[s.arg.idx]? with
  | none => ok s
  | some g =>
    let va := (g.word 2).toNat
    let gone := fun (s : State) => { s with joins := s.joins.eraseIdx s.arg.idx }
    let failed := fun (s : State) (f : Flt) =>
      ok ((gone s).writeRecord (s.gangRecord g ⟨1, f.sub, none, g.word 2, xfltInfo va g.part 0 2 f, 0, 0⟩))
    match s.coReadVia 0 g.part va 8 .rmw with
    | (_, .wait) => ok s
    | (t, .fault f) => failed t f
    | (t, .ok b) =>
      let v := leNat b
      if v = 0 then ok ((gone t).modPart g.part (fun x => { x with junder := Nat.min 65535 (x.junder + 1) }))
      else match t.coWriteVia 0 g.part va ((leBytes 8 (v - 1)).map some) with
        | (_, .wait) => ok s
        | (u, .fault f) => failed u f
        | (u, .ok _) => ok (gone u)

/-! ### Gang time slices (R135) -/

/-- A write of SLICE.CTL. -/
def Part.sliceWrite (x : Part) (stamp : Nat) (v : Word) : Part :=
  let old := x.slice
  let armed := old.getLsbD 48
  let bad := (armed && (wfld v 40 8 != wfld old 40 8 || wfld v 0 18 != wfld old 0 18)) ||
    (v.getLsbD 48 && !armed && ((x.lastSwitch != 0 && decide (x.next.toNat < x.lastSwitch + 700000)) || decide (x.next.toNat < stamp + 700) || decide (wfld v 0 18 < 32768)))
  if bad then { x with slice := old ||| 0x4000000000000 }
  else { x with slice := BitVec.ofNat 64 (b2n (old.getLsbD 50 && !v.getLsbD 50) * 2 ^ 50 + b2n (old.getLsbD 49 && !v.getLsbD 49) * 2 ^ 49 +
           b2n (v.getLsbD 48) * 2 ^ 48 + wfld v 40 8 * 2 ^ 40 + wfld old 32 8 * 2 ^ 32 + wfld v 0 18) }
/-- `SLICE_CTL_WRITE`. -/
def execSliceCtlWrite (s : State) : Out := ok (s.modPart s.arg.part (·.sliceWrite s.stamp s.arg.val))

/-- The slice class of a gang. -/
def Gang.scls (g : Gang) : Nat := shScls g.rec_
/-- Has the partition a save area on every die of a gang? -/
def State.mayPreempt (s : State) (g : Gang) : Bool := g.tiles.all (fun n => (s.part g.part).ctxn (n / 128) != 0)

/-- Pre-empt a gang: its counter stands, and its context is to be saved at the lowest free index (R135, R136). -/
def State.preempt (s : State) (g : Gang) : State :=
  match s.freeCtx g.part g.base g.log2 with
  | none => s
  | some c => s.modGang g.base (fun x => { x with phase := .saving, ctx := c, cand := none })

/-- `SLICE_SWITCH` (R135, steps 1 and 2). A saved gang whose class is off is no restore candidate any more. DESIGN CHOICE
(log 109): of a gang that is placed and has not started, or whose context is still being restored, the rule says nothing; the switch leaves it as it is. -/
def execSliceSwitch (s : State) : Out :=
  let p := s.arg.part
  let x := s.part p
  if !x.slice.getLsbD 48 || decide (s.stamp < x.next.toNat) then ok s
  else
    let s := s.modPart p (fun x => { x with slice := wset (wset x.slice 48 1 0) 32 8 (wfld x.slice 40 8), lastSwitch := x.next.toNat })
    let out := s.gangs.filter (fun g => g.part == p && (match g.phase with | .running => true | _ => false) && !(s.part p).classOn g.scls && s.mayPreempt g)
    let s := { s with gangs := s.gangs.map (fun g => if g.part = p && !(s.part p).classOn g.scls && (match g.phase with | .out => true | .saving => true | _ => false) then { g with cand := none } else g) }
    ok (out.foldl (fun s g => s.preempt g) s)

/-- `SLICE_RESUME` (R135, step 3). -/
def execSliceResume (s : State) : Out :=
  let p := s.arg.part
  let x := s.part p
  let at_ := x.lastSwitch + wfld x.slice 0 18
  if x.lastSwitch = 0 ∨ s.stamp < at_ then ok s
  else ok { s with gangs := s.gangs.map (fun g =>
    if g.part = p && g.cand.isNone && x.classOn g.scls && (match g.phase with | .out => true | .saving => true | _ => false) then { g with cand := some at_ } else g) }

/-! ### The context save area (R136, R137) -/

/-- The free bytes of the open parts. -/
def State.openBytes (s : State) : State × List (Nat × List Byte) :=
  openParts.foldl (fun (a : State × List (Nat × List Byte)) o => let (s, b) := a.1.freeBytes o.2; (s, a.2 ++ [(o.1, b)])) (s, [])

/-- Write bytes of a partition from a die in pieces of 64. -/
def State.putAll (s : State) (d p va fuel : Nat) (bs : List Byte) : State × Ans Unit :=
  match fuel with
  | 0 => (s, .ok ())
  | k + 1 =>
    if bs.isEmpty then (s, .ok ())
    else match s.coWriteVia d p va ((bs.take 64).map some) with
      | (s, .ok _) => s.putAll d p (va + 64) k (bs.drop 64)
      | r => r
def State.putParts (s : State) (d p base : Nat) (l : List (Nat × List Byte)) : State × Ans Unit :=
  match l with
  | [] => (s, .ok ())
  | (o, bs) :: r => match s.putAll d p (base + o) (bs.length + 1) bs with
    | (s, .ok _) => s.putParts d p base r
    | x => x
/-- Read bytes of a partition from a die in pieces of 64. -/
def State.getAll (s : State) (d p va k : Nat) : State × Ans (List Byte) :=
  match k with
  | 0 => (s, .ok [])
  | k + 1 => match s.coReadVia d p va 64 .rd with
    | (s, .ok b) => match s.getAll d p (va + 64) k with
      | (s, .ok r) => (s, .ok (b ++ r))
      | x => x
    | (s, .fault f) => (s, .fault f)
    | (s, .wait) => (s, .wait)

/-- The address of a context (R137). -/
def State.ctxVa (s : State) (p c n : Nat) : Nat := wfld (get 0 (s.part p).save (n / 128)) 16 41 * 2 ^ 16 + (128 * c + n % 128) * 0x360000

/-- May a tile's context be saved: its engines have finished what they had started, but for what waits on other tiles, and hold at a
wait (R136, R400)? -/
def State.engineHeld (s : State) (n : Nat) (c : Col) : Bool :=
  let t := s.tile n
  -- what the state-spill engine does between two lines is no wait
  let s := if c = .sq then { s with tm := { s.tm with pre := s.tm.pre + 2 } } else s
  (t.cmds c).all (fun x => !x.started || (!t.mayEnd c x && (x.performed || !s.mayPerform n c x || (performStep s n c x).2 == .wait || (performStep s n c x).2 == .more x))) &&
    (match (t.cmds c).find? (fun x => !x.started) with | some x => x.await.isSome | none => true)

/-- Does a Flight instruction of a tile still run to the end of its level (R136, R203)? One that waits for a rank which has not issued it, or is
late, stands inside its level as it is. -/
def State.levelRunning (s : State) (n : Nat) : Bool :=
  (s.tile n).midLevel && (match s.gangOf n, (s.tile n).sq.flight with
    | some g, some f => g.tiles.all (fun k => match (s.tile k).sq.flight with | some x => x.num == f.num && x.miss.isNone | none => false)
    | _, _ => false)

/-- The stores of a tile that have issued go to memory (R136, step 2). -/
def State.drainStores (s : State) (n : Nat) : State :=
  ((s.tile n).pend.filter (·.act.toMemory)).foldl (fun s p => s.landAct n p.act)
    (s.modTile n (fun t => { t with pend := t.pend.filter (fun p => !p.act.toMemory) }))

/-- `CONTEXT_SAVE_DONE` (R136, R166): once no tile of the gang has a trap, the stores of the tile have performed and its Flight stands at the end of
a level, the whole context of a tile is written, its cache is cleaned and invalidated, and the tile is idle. A fault aborts the gang. -/
def execContextSaveDone (s : State) : Out :=
  let n := s.arg.tile
  match s.gangOf n with
  | none => ok s
  | some g => match g.phase with
    | .saving =>
      let s := (s.drainStores n).flushCache n
      let t := s.tile n
      if !t.run || s.backHeld n (fun _ => true) || t.pend.any (·.act.toMemory) || g.tiles.any s.levelRunning || [Col.ce, .lk, .sq].any (fun c => !s.engineHeld n c) ||
          g.tiles.any (fun k => (s.tile k).ct.handler || !(s.tile k).ct.reqs.isEmpty) then ok s
      else
        match s.openBytes.1.putParts (dieOf n) g.part (s.ctxVa g.part g.ctx n) (t.image ++ s.openBytes.2) with
        | (_, .wait) => ok s
        | (u, .fault f) => ok (u.abortGang g ⟨1, f.sub, none, 0, 0, 0, 0⟩)
        | (u, .ok _) =>
          let u := u.modTile n (fun t => { t with run := false, fe := { t.fe with on := false }, st := t.st.noSpills, en := { Engines.reset with gens := t.en.gens, nextKey := t.en.nextKey }, id := { t.id with active := false } })
          let u := { u with saved := put u.saved (8 * n + g.ctx) t }
          ok (if g.tiles.all (fun k => !(u.tile k).run) then u.modGang g.base (fun x => { x with phase := .out }) else u)
    | _ => ok s

/-- `GANG_RESTORE` (R135, R136): a restore candidate whose block is idle; one whose block holds a fenced or withdrawn tile is aborted. -/
def execGangRestore (s : State) : Out :=
  match (s.restores s.arg.part).find? (fun g => g.base == s.arg.idx && s.idleBlock g.base g.log2) with
  | none => ok s
  | some g =>
    let lost := g.lost || g.tiles.any (fun n => let t := s.tile n
      t.wa.health.cut || t.st.health.getLsbD 30 || !t.id.ownV || t.id.ownPart != g.part)
    if lost then ok (s.abortGang g ⟨3, 0, none, 0, 0, 0, 0⟩)
    else ok { s with gangs := s.gangs.map (fun x => if x = g then { x with phase := .restoring } else x) }

/-- The contexts of the tiles of a gang are read back. -/
def State.restoreTiles (s : State) (g : Gang) (l : List Nat) : State × Ans Unit :=
  match l with
  | [] => (s, .ok ())
  | n :: r => match s.getAll (dieOf n) g.part (s.ctxVa g.part g.ctx n) 0xD580 with
    | (s, .fault f) => (s, .fault f)
    | (s, .wait) => (s, .wait)
    | (s, .ok b) => (s.modTile n (fun t => t.restored (get Tile.reset s.saved (8 * n + g.ctx)) b)).restoreTiles g r

/-- `RESTORE_DONE` (R135, step 5): the restore ends; one that ends after NEXT + RESUME sets LATE. -/
def execRestoreDone (s : State) : Out :=
  match s.gangOf s.arg.idx with
  | none => ok s
  | some g => match g.phase with
    | .restoring => match s.restoreTiles g g.tiles with
      | (_, .wait) => ok s
      | (t, .fault f) => ok (t.abortGang g ⟨1, f.sub, none, 0, 0, 0, 0⟩)
      | (t, .ok _) =>
        let late := match g.cand with | some c => decide (c < s.stamp) | none => false
        let t := if late then t.modPart g.part (fun x => { x with slice := x.slice ||| 0x2000000000000 }) else t
        ok (t.modGang g.base (fun x => { x with phase := .running, cand := none }))
    | _ => ok s

/-! ### Queue watchdogs (R108) -/

/-- A barge popped from the queue is resident on tiles, from its pop on, and not switched out. DESIGN CHOICE (log 99): a gang whose context is being
saved or restored counts as switched out. -/
def State.resident (s : State) (p i : Nat) : Bool :=
  s.gangs.any (fun g => g.part == p && g.queue == i && (match g.phase with | .placed => true | .running => true | _ => false))

/-- `WATCHDOG_EXPIRY` (R108): the count of a queue's watchdog has reached WDT · 700, while it counts. -/
def execWatchdogExpiry (s : State) : Out :=
  let p := s.arg.part
  let q := s.queue p s.arg.idx
  if wfld q.ctl 32 32 = 0 ∨ q.dog < wfld q.ctl 32 32 * 700 ∨ (s.part p).st ≠ 2 ∨ !s.resident p s.arg.idx then ok s else ok (s.resetTrigger p 4 s.arg.idx)

end Sys2Proof.Machine
end

