-- ==== Sys2Proof/Machine/TileEv.lean ====
section
/-! DEFINITION. The events of a tile and of a gang: reading instruction lines (R142–R144, R253–R257), trap entry (R161), the stall wire
(R155), schedule misses (R154), the modulo sequencer (R157, R158), the gang barrier (R184, R307), the Flight tree (R195–R203), and
words that are no instruction (R260, R270). -/
namespace Sys2Proof.Machine

open Sys2Proof

/-! ### The fetch unit (R142–R144) -/

/-- A word of CT at which fetch stops until it has issued (R144, R157, R160): branches and jumps, `ERET`, `HALT`, `DONE`,
the loop words, and the end words of loops. -/
def Tile.stopsFetch (t : Tile) (q : QWord) : Bool :=
  t.ct.loops.any (fun e => e.last == q.addr) ||
    (match decode .ct q.word q.ext with
     | .beq _ => true | .bne _ => true | .blt _ => true | .bge _ => true | .bltu _ => true | .bgeu _ => true | .jal _ _ => true | .jalr _ => true
     | .eret => true | .halt => true | .done => true | .mloop _ _ _ _ => true | .mloopLcb _ _ _ => true | .loop _ _ => true
     | _ => false)

/-- Are the lines that fetch reads those of the body of a modulo loop (R157)? -/
def Tile.inBody (t : Tile) : Bool := t.fe.seqr.run && t.fe.seqr.lines != 0 && !t.ct.handler
/-- Every word of earlier lines has issued, those of a modulo body among them, and CE has started its own (R255); in the handler the path is that
of CT alone. While a body is read, the words of CT behind its `MLOOP` wait for it, and are not awaited (log 95). -/
def Tile.allIssued (t : Tile) : Bool :=
  (t.inBody || (t.iq .ct).isEmpty) &&
    (t.ct.handler || (otherCols.all (fun c => (t.iq c).isEmpty) && t.en.ceq.all (·.started) && (t.inBody || !t.fe.seqr.run)))

/-- The words of a column that have not issued: a word of a body that the sequencer has handed on to CE's queue counts as issued (R144, R157). -/
def Tile.waitsIssue (t : Tile) (c : Col) : List QWord :=
  if c = .ce then (t.iq .ce).drop t.fe.seqr.handed else t.iq c

/-- A word enters the queue of its column. -/
def Tile.deliverWord (t : Tile) (x : Col × QWord) : Tile := t.setIq x.1 (t.iq x.1 ++ [x.2])

/-- Is there room for the words of a line in every queue they feed (R142)? -/
def Tile.roomFor (t : Tile) (ws : List (Col × QWord)) : Bool :=
  (.ct :: otherCols).all (fun c => (t.iq c).length + (ws.filter (fun x => x.1 == c)).length ≤ 16)

/-- The trap of a line: ILLLINE or TRANSLATION with COL 0xF (R84, R255). -/
def illLine (xpc : Nat) : TrapReq := trapReq tILLLINE 0xF xpc 0

/-! ### The body of a modulo loop (R157) -/

/-- The delay count of a word in a body: none for CE. -/
def bodyDelay (c : Col) (w : Lane) : Nat := if c = .ce then 0 else w.toNat / 2 ^ 23 % 8

/-- A word joins the body with its offset: d for the first of its column, then the last offset + 1 + d. -/
def Seqr.takeWord (q : Seqr) (x : Col × QWord) : Seqr :=
  let prev := (q.body.filter (fun b => b.col == x.1)).getLast?
  let off := (match prev with | some b => b.off + 1 | none => 0) + bodyDelay x.1 x.2.word
  { q with body := q.body ++ [⟨x.1, off, x.2⟩] }

/-- The stages and slots of the body are those of R157. -/
def Seqr.bodyOk (q : Seqr) : Bool :=
  q.body.all (fun b => decide (b.off / q.ii < q.sc)) && (q.body.map (fun b => (colCode b.col, b.off % q.ii))).Nodup

/-- One line of the body has been read. The last one closes the body: the words ahead of it are counted, and a loop without a trip ends
here. -/
def Tile.takeBody (t : Tile) (ws : List (Col × QWord)) : Tile :=
  let q := t.fe.seqr
  if ws.any (fun x => x.1 == .ct) then ({ t with fe := { t.fe with seqr := { q with run := false, lines := 0 } } }).request (trapReq tILLLINE 1 q.mloop 0)
  else
    let q := { ws.foldl Seqr.takeWord q with lines := q.lines - 1 }
    let t := { t with fe := { t.fe with seqr := q } }
    if q.lines != 0 then t
    else if !q.bodyOk then ({ t with fe := { t.fe with seqr := { q with run := false } } }).request (trapReq tLOOP 1 q.mloop 0)
    else { t with fe := { t.fe with seqr := { q with ahead := otherCols.map (fun c => (colCode c, (t.iq c).length)), run := q.n != 0 } } }

/-- The words of line k of the fetch buffer with their columns, none when it is illegal. On the target line of a branch the lanes from the target
on deliver (R256), and after a restore a column takes the words from its own program counter on (R143). -/
def Tile.bufWords (t : Tile) (k : Nat) (l : BitVec 256) : Option (List (Col × QWord)) :=
  (lineWords l).map (fun ws => (lineQueue (t.fe.pc / 32 * 32 + 32 * k) (if k = 0 then t.fe.pc % 32 / 4 else 0) ws).filter
    (fun x => get 0 t.fe.skip (colCode x.1) ≤ x.2.addr))
/-- Does fetch stop at a line of the buffer: it holds a word that may change its course, or it is illegal (R144, R255)? -/
def Tile.lineStops (t : Tile) (k : Nat) (l : BitVec 256) : Bool :=
  match t.bufWords k l with
  | none => true
  | some q => q.any (fun x => x.1 == .ct && t.stopsFetch x.2)
/-- May the fetch unit read a further line (R142, R144)? It reads the lines of a body whatever word of CT stands behind their `MLOOP` (R157). -/
def Tile.readsOn (t : Tile) : Bool :=
  decide (t.fe.buf.length < 4) && (!(t.iq .ct).any t.stopsFetch || (t.inBody && decide (t.fe.buf.length < t.fe.seqr.lines))) && !(t.fe.buf.zipIdx.any (fun e => t.lineStops e.2 e.1)) &&
    (!t.fe.drain || otherCols.all (fun c => (t.waitsIssue c).isEmpty))

/-- The fetch unit reads one line into its buffer (R142). A line that faults raises its trap once every word before it has issued (R91, R142). -/
def State.readAhead (s : State) (n : Nat) : State :=
  let t := s.tile n
  let va := t.fe.pc / 32 * 32 + 32 * t.fe.buf.length
  if !t.readsOn then s
  else match s.readLine n va with
    | (_, .wait) => s
    | (s, .fault f) =>
      if !t.run || !t.fe.buf.isEmpty || !t.allIssued then s
      else s.modTile n (fun t => t.request ⟨tTRANSLATION, 0xF, va, f.sub, false, BitVec.ofNat 64 va, xfltInfo va t.id.part 0xF 3 f⟩)
    | (s, .line l) => s.modTile n (·.modFe (fun x => { x with buf := x.buf ++ [l] }))

/-- The oldest line of the buffer: it waits for room, is refused when illegal, or is delivered (R142, R255, R256). -/
def State.takeLine (s : State) (n : Nat) : State :=
  let t := s.tile n
  let at_ := t.fe.pc / 32 * 32
  let next := fun (t : Tile) => t.modFe (fun x => { x with pc := at_ + 32, buf := x.buf.tail, tgt := false, drain := false })
  match t.fe.buf with
  | [] => s
  | l :: _ => match t.bufWords 0 l with
    | none => if t.run && t.allIssued then s.modTile n (·.request (illLine at_)) else s
    | some q =>
      if t.fe.tgt && !q.any (fun x => x.1 == .ct && x.2.addr == t.fe.pc) then
        (if t.run && t.allIssued then s.modTile n (·.request (illLine t.fe.pc)) else s)
      else if t.inBody then s.modTile n (fun t => next (t.takeBody q))
      else if !t.roomFor q then s
      else s.modTile n (fun t => next (q.foldl Tile.deliverWord t))

/-- `FETCH_LINE` (R142–R144, R253–R257): the fetch unit reads one line, and delivers one, unless it stands at a word that may change its
course. -/
def execFetchLine (s : State) : Out :=
  let n := s.arg.tile
  let t := s.tile n
  if !t.fe.on || s.stamp < t.fe.at_ || t.ct.reqs.any (fun q => q.col == 0xF) then ok s
  else ok ((s.readAhead n).takeLine n)

/-! ### Traps, the stall wire and the gang barrier -/

/-- `TRAP_ENTRY` (R161): CT takes the trap that has waited longest. -/
def execTrapEntry (s : State) : Out :=
  let n := s.arg.tile
  let t := s.tile n
  match t.ct.reqs.find? (fun q => !t.holdsTrap q.code) with
  | none => ok s
  | some q => ok ((s.modTile n (·.modCt (fun c => { c with reqs := c.reqs.erase q }))).takeTrap n q)

/-- `STALL_WIRE_FREEZE` (R155): at F the gang's counters stop. -/
def execStallWireFreeze (s : State) : Out :=
  ok (s.modGang s.arg.idx (fun g => if g.stands (s.tile g.base).cnt then { g with frozen := true } else g))

/-- `STALL_WIRE_RESUME` (R155, R186): the gang goes on at F, one freeze distance after the last source has gone, and what is due at F lands. -/
def execStallWireResume (s : State) : Out :=
  let going := s.gangs.filter (fun g => g.base == s.arg.idx && g.onTiles && (match g.resumeAt with | some x => decide (x ≤ s.stamp) | none => false))
  let s := s.modGang s.arg.idx (fun g => match g.resumeAt with
    | some x => if x ≤ s.stamp then { g with freeze := none, resumeAt := none, frozen := false } else g
    | none => g)
  ok ((going.flatMap Gang.tiles).foldl (fun s n => s.landTile n (s.frozen n)) s)

/-- `BARRIER_COMPLETE` (R184, R307): every rank has arrived, what each releases has performed, and the freeze distance has passed. -/
def execBarrierComplete (s : State) : Out :=
  match s.gangOf s.arg.idx with
  | none => ok s
  | some g =>
    let there := g.tiles.all (fun n => let t := s.tile n; g.arrived.contains (n - g.base) && t.priorDone t.ct.barPrior)
    if !there || (s.tile g.base).cnt < g.lastArrival + freezeDist g then ok s
    else ok ((g.tiles.foldl (fun s n => s.modTile n (·.modCt (fun c => { c with released := true }))) s).modGang g.base (fun g => { g with arrived := [] }))

/-! ### Schedule misses (R153, R154) -/

/-- The delay and the token bits that a word of the synchronous columns and of LK carries whatever its opcode (R258). -/
def wordTok (w : Lane) : Tok := ⟨BitVec.ofNat 3 (w.toNat / 2 ^ 23), w.getLsbD 22, w.getLsbD 21, w.getLsbD 20, w.getLsbD 19⟩
/-- What a word with an unassigned opcode needs: its tokens; LD has no left neighbour (R149). -/
def unassignedNeeds (c : Col) (w : Lane) : Needs :=
  let k := wordTok w
  syncNeeds c (if c = .ld then ldTok k.dly k.popR k.pushR else k) [] []

/-- What a word needs to issue, by instruction (R145, R148, R149, R203, R207). -/
def needsOf (s : State) (n : Nat) (i : Instr) : Needs :=
  let t := s.tile n
  let ld := fun (o : LdOp) (push : List Nat) => ldNeeds o.dly o.popR o.pushR push
  let st := fun (o : StOp) (pops : List Nat) => syncNeeds .st o.tok pops []
  let vx := fun (o : VxOp) (srcs : List (BitVec 8)) (push : List Nat) => syncNeeds .vx o.tok (srcPops srcs) push
  let v1 := fun (o : VxOp) => vx o [o.a] (srcPops [o.d])
  let v2 := fun (o : VxOp) => vx o [o.a, o.b] (srcPops [o.d])
  let v3 := fun (o : VxOp) => vx o [o.a, o.b, o.c] (srcPops [o.d])
  let sh := fun (o : VxOp) => if fnBit o 11 then v1 o else v2 o
  let lk := fun (o : LkOp) (pops push : List Nat) => syncNeeds .lk o.tok pops push
  let fl := fun (k : MTok) => { sqNeeds k with unit := true }
  match i with
  | .ldv o => ld o (srcPops [o.rn]) | .ldq o => ld o (srcPops [o.rn]) | .ldg o => ld o (srcPops [o.rn]) | .ldbc o => ld o (srcPops [o.rn])
  | .ldx o => ld o ((srcPops [o.rn]).flatMap (List.replicate 8)) | .ldsc o => ld o [] | .ldp o => ld o []
  | .ldt o => ldNeeds o.dly o.popR o.pushR (srcPops [o.rn]) | .ldb o => ldNeeds o.dly o.popR o.pushR [] | .lpf o => ldNeeds o.dly o.popR o.pushR []
  | .stv o => st o (srcPops [o.rn]) | .stq o => st o (srcPops [o.rn]) | .sct o => st o (srcPops [o.rn]) | .stc o => st o (srcPops [o.rn])
  | .stm o => st o (srcPops [o.rn, o.rn]) | .stp o => st o [] | .stt o => syncNeeds .st o.tok (srcPops [o.rn]) [] | .stz o => syncNeeds .st o.tok [] []
  | .vadd o => v2 o | .vsub o => v2 o | .vmul o => v2 o | .vfma o => v3 o | .vfms o => v3 o | .vmax o => v2 o | .vmin o => v2 o
  | .vabs o => v1 o | .vneg o => v1 o | .vand o => v2 o | .vor o => v2 o | .vxor o => v2 o | .vshl o => sh o | .vshr o => sh o | .vsra o => sh o
  | .vcmp o => v2 o | .vsel o => v3 o | .vmov o => v1 o
  | .vcvt o => if width o.et < width (BitVec.ofNat 4 (fnFld o 0 4)) then v2 o else v1 o
  | .vqblk o => vx o [o.a, o.b] (srcPops [o.d] ++ [fnFld o 10 2]) | .vrcp o => v1 o | .vrsq o => v1 o | .vexp2 o => v1 o | .vlog2 o => v1 o
  | .vtie o => v1 o | .vtld o => vx o [o.a] [] | .vred o => v1 o | .vbcast o => v1 o
  | .vperm o => if width o.et = 8 then v3 o else vx o [o.a, o.c] (srcPops [o.d])
  | .vpack o => vx o [o.a, o.c] (srcPops [o.d] ++ (if fnBit o 11 then [fnFld o 9 2] else [])) | .vunpk o => v3 o
  | .vidx o => vx o [] (srcPops [o.d]) | .vrng o => vx o [] (srcPops [o.d]) | .vclr o => vx o [] (srcPops [o.d])
  | .vamax o => vx o [o.a] [] | .vwin o => vx o [] []
  | .mma k _ _ _ _ => mxNeeds k true | .mmas k _ _ _ _ => mxNeeds k true | .mmax k _ _ _ _ => mxNeeds k true | .mtile k _ _ _ _ => mxNeeds k true
  | .mbsel k _ _ => mxNeeds k true | .maclr k _ _ => mxNeeds k false | .macmv k _ _ _ => mxNeeds k false | .mwake k _ => mxNeeds k false
  | .mmsk k _ _ _ _ => mxNeeds k false | .mscl k _ _ => mxNeeds k false | .mtrn k _ _ _ => mxNeeds k false | .mspx k _ => mxNeeds k false
  | .sopdef k _ _ => sqNeeds k | .scan k _ _ _ => fl k | .sup k _ _ _ => fl k | .sdn k _ _ _ => fl k | .sxsc k _ _ _ => fl k
  | .slbk k _ _ _ => sqNeeds k | .scsnd k _ _ _ => sqNeeds k
  | .scrcv k ch tag _ =>
    if (s.chanCheck n ch.toNat ⟨[1], permRecv, [], 0⟩).isSome then sqNeeds k else { sqNeeds k with carry := some (chPlace (t.chan ch.toNat), tag) }
  | .pbind k _ => sqNeeds k | .pbindPair k _ _ => sqNeeds k | .punb k _ => sqNeeds k | .pshd k _ => sqNeeds k
  | .pld k _ _ _ => sqNeeds k | .pst k _ _ _ => sqNeeds k | .step k _ _ _ _ => sqNeeds k
  | .pspill k _ _ _ _ => { sqNeeds k with pops := [0] } | .pfill k _ _ _ _ => { sqNeeds k with pops := [0] }
  | .send o => lk o [0, 1] [] | .recv o => lk o [0, 1, 2] [] | .put o => lk o [0, 1, 2] [] | .get o => lk o [0, 1, 2] []
  | .append o => lk o [0, 1, 2, 3] (appendQ o) | .radd o => lk o [0, 1, 2, 3] [] | .pred o => lk o [0, 1, 2, 3] [] | .lbar o => lk o [0] []
  | .grpdef o => lk o [0, 1] [] | .lquiet o => lk o [] [] | .lfence o => lk o [] [] | .coll o => lk o [0, 1] []
  | _ => Needs.none

/-- The g registers and the queues that a word of CT names (R294). -/
def ctNeeds (i : Instr) : Needs :=
  match i with
  | .add o => crNeeds o | .sub o => crNeeds o | .and o => crNeeds o | .or o => crNeeds o | .xor o => crNeeds o | .sll o => crNeeds o | .srl o => crNeeds o
  | .sra o => crNeeds o | .slt o => crNeeds o | .sltu o => crNeeds o | .seq o => crNeeds o | .mul o => crNeeds o | .mulh o => crNeeds o | .div o => crNeeds o
  | .divu o => crNeeds o | .rem o => crNeeds o | .min o => crNeeds o | .max o => crNeeds o
  | .slli o => gNeeds [o.s.toNat] [o.d.toNat] | .srli o => gNeeds [o.s.toNat] [o.d.toNat] | .srai o => gNeeds [o.s.toNat] [o.d.toNat]
  | .orhi d _ _ => gNeeds [d.toNat] [d.toNat] | .sts o => gNeeds [o.b.toNat, o.v.toNat] [] | .cmo _ _ a n => gNeeds [a.toNat, n.toNat] []
  | .semw o => gNeeds [o.s.toNat] [] | .semr d _ => gNeeds [] [d.toNat] | .sems o => gNeeds [o.s.toNat] [] | .mark r => gNeeds [r.toNat] []
  | .mloop _ _ _ r => gNeeds [r.toNat] [] | .mlcb _ a => gNeeds [a.toNat] [] | .loop r _ => gNeeds [r.toNat] [] | .rdid d _ => gNeeds [] [d.toNat]
  | .srr d _ => gNeeds [] [d.toNat] | .srw r _ => gNeeds [r.toNat] [] | .rdstamp d => gNeeds [] [d.toNat] | .mova _ r => gNeeds [r.toNat] []
  | _ => Needs.none
/-- What a word that no row of the map matches needs before it issues and traps (R260): where only bits that must be 0 stand against its opcode, what its
legal fields name. -/
def illNeeds (s : State) (n : Nat) (c : Col) (w : Lane) (e : Option Lane) : Needs :=
  match decode c (legalPart c w) e with
  | .unassignedOpcode _ _ _ => unassignedNeeds c w
  | i => if c = .ct then ctNeeds i else needsOf s n i

/-- What a queued word of a column needs. -/
def State.wordNeeds (s : State) (n : Nat) (c : Col) (q : QWord) : Needs :=
  let i := decode c q.word q.ext
  if wellFormed i then needsOf s n i
  else (match i with | .unassignedOpcode c w e => illNeeds s n c w e | i => needsOf s n i).named c

/-- The column that a number names; 9 names the Flight of the tile. -/
def colOf (k : Nat) : Col := (codeCol k).getD .ct

/-- MISSCNT counts a recovered miss, and saturates (R154). -/
def Tile.countMiss (t : Tile) : Tile := t.modCt (fun c => { c with missCnt := if c.missCnt = 0xFFFF then c.missCnt else c.missCnt + 1 })

/-- `SCHEDULE_MISS_RECOVERY` (R154): gated sub-arrays wake 24 c of stamp time after the miss; once the operands of the missed word are all present,
they are kept for it, it issues at the later of T and F, and the tile lowers its source of the wire. F is the freeze point of the gang, which an
earlier source may have set (R155). -/
def execScheduleMissRecovery (s : State) : Out :=
  let n := s.arg.tile
  let c := colOf s.arg.idx
  let t := s.tile n
  match (t.col c).st, t.iq c with
  | .missed m, q :: _ =>
    let k := s.wordNeeds n c q
    let s := if k.arrays && t.mx.gated != 0 && decide (m.stamp + mxWake ≤ s.stamp) then s.modTile n Tile.useArrays else s
    if t.faulted c || !t.has k || (k.arrays && (s.tile n).mx.gated != 0) then ok s
    else
      let f := match s.gangOf n with | some g => g.freeze.getD (m.at_ + freezeDist g) | none => m.at_ + 12
      let s := s.modTile n (fun t => ((t.holdFor k).countMiss).setCol c { t.col c with st := .issueAt (Nat.max m.target f) })
      ok (s.lowerWire n)
  | _, _ => ok s

/-- `SCHEDMISS` (R154, R202): 65,536 c after the miss the operands are still absent. -/
def execSchedmiss (s : State) : Out :=
  let n := s.arg.tile
  let t := s.tile n
  let late := fun (m : Miss) => decide (m.stamp + missWait ≤ s.stamp)
  let told := fun (c : Nat) => (t.ct.reqs ++ t.ct.early).any (fun q => q.col == c && q.code == tSCHEDMISS) ||
    (t.ct.handler && wfld t.ct.cause 44 4 == c && wfld t.ct.cause 0 8 == tSCHEDMISS)
  if s.arg.idx = 9 then match t.sq.flight with
    | some f => match f.miss with
      | some m => if late m && !told 6 then ok (s.modTile n (·.request (trapReq tSCHEDMISS 6 f.pc 0))) else ok s
      | none => ok s
    | none => ok s
  else match (t.col (colOf s.arg.idx)).st with
    | .missed m =>
      let c := colOf s.arg.idx
      if late m && !told (colCode c) then ok (s.modTile n (·.request (trapReq tSCHEDMISS (colCode c) (t.pc c) 0))) else ok s
    | _ => ok s

/-! ### The modulo sequencer (R157, R158) -/

/-- The words of the body that fall due at position p: those of slot p mod II whose iteration is one of the N. -/
def Seqr.slot (q : Seqr) (p : Nat) : List BodyWord :=
  q.body.filter (fun b => b.off % q.ii == p % q.ii && decide (b.off / q.ii ≤ p / q.ii) && decide (p / q.ii - b.off / q.ii < q.n))

/-- The needs of two words together. -/
def Needs.both (a b : Needs) : Needs :=
  ⟨a.reads ++ b.reads, a.writes ++ b.writes, a.pops ++ b.pops, a.pushes ++ b.pushes, a.ins ++ b.ins, a.outs ++ b.outs, a.arrays || b.arrays,
    a.unit || b.unit, a.carry.or b.carry⟩

/-- Would the check of a memory form of LD or ST wait now (R163, R174, R326)? -/
def State.checkHolds (s : State) (n : Nat) (i : Instr) : Bool :=
  let t := s.tile n
  let at_ := fun (a p size : Nat) => let x := (t.patAddr p (t.areg a)).toNat; if t.patOk p && x % size == 0 then some x else none
  let ld := fun (o : LdOp) (size : Nat) => match at_ o.a.toNat o.p.toNat size with
    | none => false
    | some x =>
      let u := if o.m = 0 then s else s.acquireCache n o.m 4
      (o.m != 0 && u.cacheHeld n o.m 4) || (match (u.tileRead n x size (o.m != 0)).2 with | .wait => true | _ => false)
  let st := fun (o : StOp) (size : Nat) => match at_ o.a.toNat o.p.toNat size with
    | none => false
    | some x => match (s.storeCheck n x size (o.m != 0) noneWhole).2 with | .wait => true | _ => false
  match i with
  | .ldq o => ld o 8 | .ldg o => ld o 512 | .ldx o => ld o 64 | .ldbc o => ld o 32
  | .stq o => st o 8 | .sct o => st o 512 | .stm o => st o 512
  | _ => false

/-- May every word of a slot go at this count: tokens, entries and room, its column free, and room in CE's queue? -/
def State.slotReady (s : State) (n : Nat) (ws : List BodyWord) : Bool :=
  let t := s.tile n
  let k := ws.foldl (fun k b => if b.col = .ce then k else k.both (s.wordNeeds n b.col b.q)) Needs.none
  t.has k && (!k.arrays || t.mx.gated == 0) && !ws.any (fun b => s.checkHolds n (decode b.col b.q.word b.q.ext)) &&
    ws.all (fun b => if b.col = .ce then decide ((t.iq .ce).length < 16)
      else decide ((t.col b.col).busy ≤ t.cnt) && (t.col b.col).ackKey.isNone && !t.faulted b.col)

/-- A CE word of the body is handed to CE's command order, behind those handed on before it and ahead of the words that follow the
body. -/
def Tile.handOn (t : Tile) (q : QWord) : Tile :=
  let k := get 0 t.fe.seqr.ahead (colCode .ce)
  let l := t.iq .ce
  (t.setIq .ce (l.take k ++ [q] ++ l.drop k)).modFe (fun x => { x with seqr := { x.seqr with ahead := put x.seqr.ahead (colCode .ce) (k + 1), handed := x.seqr.handed + 1 } })

/-- A word of the body takes its turn among the words of its tile in this cycle, in the order of the columns (R148). -/
def bodyMove (n : Nat) (b : BodyWord) : Move := .word ⟨n, b.col, b.q, true⟩
def colRank (c : Col) : Nat :=
  match c with
  | .ct => 0 | .ld => 1 | .vx => 2 | .mx => 3 | .sq => 4 | .st => 5 | .lk => 6 | _ => 7
def addBodyMove (n : Nat) (l : List Move) (b : BodyWord) : List Move :=
  let before := fun (m : Move) => match m with | .word a => a.tile == n && decide (colRank a.col < colRank b.col) | _ => false
  l.takeWhile before ++ [bodyMove n b] ++ l.dropWhile before

/-- The position advances; at the end of an interval the window moves, and after the last one the loop ends. -/
def Tile.advance (t : Tile) : Tile :=
  let q := t.fe.seqr
  let p := q.pos + 1
  let t := if p % q.ii = 0 then t.land (t.cnt + 1) 4 .wbAdvance else t
  { t with fe := { t.fe with seqr := { q with pos := p, run := decide (p < (q.n + q.sc - 1) * q.ii) } } }

/-- `SEQUENCER_ADVANCE` (R157): one position of the kernel. A word that has not issued in its slot, a token, an entry or room that is missing,
and a gated sub-array hold the kernel. -/
def execSequencerAdvance (s : State) : Out :=
  let n := s.arg.tile
  let t := s.tile n
  let q := t.fe.seqr
  if !q.run || q.lines != 0 || (!q.started && otherCols.any (fun c => get 0 q.ahead (colCode c) != 0)) then ok s
  else if !q.due.isEmpty then ok { s with agenda := q.due.foldl (addBodyMove n) s.agenda }
  else
    let ws := q.slot q.pos
    let gated := ws.any (fun b => b.col == .mx && (s.wordNeeds n .mx b.q).arrays) && t.mx.gated != 0
    if gated then ok (s.modTile n Tile.wakeArrays)
    else if !s.slotReady n ws then ok s
    else
      let sync := ws.filter (fun b => b.col != .ce)
      let s := s.modTile n (fun t =>
        let t := (ws.filter (fun b => b.col == .ce)).foldl (fun t b => t.handOn b.q) t
        (t.modFe (fun x => { x with seqr := { x.seqr with started := true, due := sync } })).advance)
      ok { s with agenda := sync.foldl (addBodyMove n) s.agenda }

/-! ### The Flight tree (R195–R204) -/

/-- The level of stage m of a form (from 1 on), and whether that stage goes up. -/
def FlightForm.up (f : FlightForm) (s m : Nat) : Bool := match f with | .sdn => false | _ => decide (m ≤ s)
def FlightForm.level (f : FlightForm) (s m : Nat) : Nat :=
  match f with
  | .sdn => s + 1 - m
  | _ => if m ≤ s then m else 2 * s + 1 - m

/-- The gang count at which stage m of a Flight instruction falls due (R202). -/
def Flight.due (f : Flight) (s m : Nat) : Nat :=
  f.issue + 4 + sumCost (fun i => match f.form, f.form.up s i with
    | .sup, false => bcastCost (f.form.level s i) f.k
    | _, _ => upCost (f.form.level s i) f.k f.nstep) (levels m)

/-- The Flight instruction of another rank that matches one: the same of the task's count (R202). -/
def State.mate (s : State) (n num : Nat) : Option Flight := (s.tile n).sq.flight.filter (·.num == num)

/-- The writes into the working slot that are due have landed, also while the gang stands, and those of e(r), which a level that runs in the freeze
of its issue does not outrun (R199, R202). -/
def Tile.settleSlot (t : Tile) (f : Flight) : Tile :=
  let mine := fun (p : Pend) => match p.act with | .pound slot _ _ => slot == f.ws && decide (p.due ≤ Nat.max t.cnt (f.issue + 1)) | _ => false
  if t.pend.any mine then { (t.pend.filter mine).foldl (fun t p => t.landed p.act) t with pend := t.pend.filter (fun p => !mine p) } else t
/-- The rows of a working slot: the tree value (R199). -/
def Tile.slotRows (t : Tile) (f : Flight) : List Row := (t.settleSlot f).prows f.ws 0 f.k
/-- A level writes them; what engines read in its cycle is what stood before (R186). -/
def Tile.setSlotRows (t : Tile) (ws : Nat) (rows : List Row) : Tile :=
  (List.range rows.length).foldl (fun t i => t.setPound ws i (rows.getD i 0)) { t with old := some t.before_ }

/-- What a stage of one rank comes to: it is late, its children do not match, the carry of a tile cannot cross to the other die, or it has its
effect. -/
inductive LevelStep where
  | late
  | mismatch
  | cut (tile : Nat)
  | done (s : State)

/-- The digest of an operator image that Flight packets carry (R200, R381). -/
def imgDigest (img : BitVec 1024) : Nat := crc32 (leBytes 128 img.toNat)

/-- Has a value had its time: the cycles since the issue, counted and frozen alike, are those that the costs of R201 take (R202)? -/
def State.worked (s : State) (f : Flight) (log2 m : Nat) : Bool := decide (f.born + (f.due log2 m - f.issue) ≤ s.stamp)
/-- Has the value of another rank arrived: by the due count of its own stage, or in the frozen cycles, in which the nodes and the links work on? How
much sooner than its costs say is a free choice (R202). -/
def State.arrived (s : State) (n log2 m : Nat) (f : Flight) : Bool :=
  decide (f.due log2 m ≤ (s.tile n).cnt) || s.worked f log2 m || (s.frozen n && Config.go s.free)

/-- The seed of the down sweep at the root (R197): the identity; for `SDN` the rows of rank 0. -/
def State.seedRows (s : State) (g : Gang) (f : Flight) : Option (List Row) :=
  match f.form with
  | .sdn => (s.mate g.base f.num).bind (fun z => if s.arrived g.base g.log2 1 z then some z.seed else none)
  | _ => some (identRows f.img)

/-- Stage m of the Flight instruction f of tile n (R195–R197, R200). Between dies it runs on the Towpath's lane of a bridge, and a failed bridge
is the TOWPATH trap at the sender (R13, R54, R57). Going up, and in `SDN`, the value of the left child comes with this
stage; going down after an up sweep the node has met it already, so that a freeze absorbs a lateness once (R202). -/
def State.flightStage (s : State) (g : Gang) (n m : Nat) (f : Flight) : LevelStep :=
  let r := n - g.base
  let sl := g.log2
  let l := f.form.level sl m
  let lf := n - 2 ^ (l - 1)
  let t := s.tile n
  let setF := fun (s : State) (k : Nat) (h : Flight → Flight) => s.modTile k (·.modSq (fun q => { q with flight := q.flight.map h }))
  let isNode := (r + 1) % 2 ^ l == 0
  let isLeft := (r + 1) % 2 ^ l == 2 ^ (l - 1)
  if isNode then match s.mate lf f.num with
    | none => .late
    | some c =>
      let here := s.arrived lf sl m c
      if c.form != f.form || c.k != f.k || c.nleaf != f.nleaf || imgDigest c.img != imgDigest f.img then (if here then .mismatch else .late)
      else if (f.form.up sl m || f.form == .sdn) && (c.lev + 1 < m || !here) then .late
      else if !s.joined (dieOf lf) (dieOf n) then .cut (if f.form.up sl m then lf else n)
      else
        let u := (s.tile lf).slotRows c
        if f.form.up sl m then .done (s.modTile n (·.setSlotRows f.ws (combine f.img u (t.slotRows f))))
        else match f.form with
          | .sup =>
            let a := if l = sl then t.slotRows f else f.agg.getD []
            .done (setF (setF s lf (fun c => { c with inbox := some a })) n (fun f => { f with agg := some a }))
          | _ => match (if l = sl then s.seedRows g f else some (t.slotRows f)) with
            | none => .late
            | some d => .done ((setF s lf (fun c => { c with inbox := some d })).modTile n (·.setSlotRows f.ws (combine f.img d u)))
  else if isLeft && !f.form.up sl m then match f.inbox with
    | none => .late
    | some d =>
      let s := setF s n (fun f => { f with inbox := none })
      match f.form with
      | .sup => .done (setF s n (fun f => { f with agg := some d }))
      | _ => .done (s.modTile n (·.setSlotRows f.ws d))
  else .done s

/-- The down-sweep value of a gang of one (R197). -/
def Flight.alone (f : Flight) (t : Tile) : List Row :=
  match f.form with
  | .sdn => f.seed
  | .sup => t.slotRows f
  | _ => identRows f.img
/-- The result rows of a form, as its last level boundary leaves the working slot (R197, R382). -/
def Flight.result (f : Flight) (t : Tile) : List Row :=
  match f.form with
  | .sxsc => t.slotRows f
  | .sup => f.agg.getD (t.slotRows f)
  | _ => combine f.img (t.slotRows f) ((t.settleSlot f).prows f.ws 8 f.k)

/-- The last level boundary of a Flight instruction: its result is formed, and is written at issue + L, or at once when that count has gone by. In a
gang of one the working slot takes d[0][0] (R197, R382). -/
def Tile.flightDone (t : Tile) : Tile :=
  match t.sq.flight with
  | none => t
  | some f =>
    let t := t.settleSlot f
    let t := if f.stages = 0 then t.setSlotRows f.ws (f.alone t) else t
    let rows := f.result t
    if f.above.isSome then t.flightEnd f rows else t.modSq (fun q => { q with flight := some { f with res := some rows } })

/-- May the next level of a rank run: at its due count; once its costs have passed in counted and frozen cycles, when a rank that issued before it is
due, so that a freeze absorbs a late issue; or sooner while the gang stands and a Flight of it waits for a late value, since the
Flight works on in frozen cycles (R202), or is pre-empted inside a level (R136)? When in the freeze its value is ready is a free choice. -/
def State.levelRuns (s : State) (g : Gang) (n m : Nat) (f : Flight) : Bool :=
  decide (f.due g.log2 m ≤ (s.tile n).cnt) ||
    (s.worked f g.log2 m && g.tiles.any (fun k => match s.mate k f.num with
      | some x => decide (x.issue < f.issue && x.due g.log2 m ≤ (s.tile n).cnt)
      | none => false)) ||
    (s.frozen n && Config.go s.free && g.tiles.any (fun k => match (s.tile k).sq.flight with
      | some x => x.miss.isSome || (g.phase == .saving && s.levelRunning k)
      | none => false))

/-- `FLIGHT_LEVEL` (R200–R203): the next level of a rank at its due count, or as soon as a late value has come; at issue + L the end. -/
def execFlightLevel (s : State) : Out :=
  let n := s.arg.tile
  let t := s.tile n
  match s.gangOf n, t.sq.flight with
  | some g, some f =>
    let m := f.lev + 1
    let s := { s with free := s.free + 1 }
    if f.stages < m then ok (if t.cnt < f.issue + 4 || f.res.isSome then s else s.modTile n Tile.flightDone)
    else if t.flightTrapped f || !s.levelRuns g n m f then ok s
    else match (s.modTile n (·.settleSlot f)).flightStage g n m f with
      | .late =>
        if f.miss.isSome || t.cnt < f.due g.log2 m then ok s
        else ok ((s.modTile n (·.modSq (fun q => { q with flight := q.flight.map (fun f => { f with miss := some ⟨t.cnt, s.stamp, t.cnt⟩ }) }))).raiseWire n)
      | .mismatch => ok (s.modTile n (·.request (trapReq tILLINSN 6 f.pc 0)))
      | .cut k =>
        if (s.tile k).flightTrapped f then ok s
        else ok (s.modTile k (fun t => t.request (trapReq tTOWPATH 6 (match t.sq.flight with | some x => x.pc | none => f.pc) 0)))
      | .done s =>
        let (ph, lv) := flightPhase f.form g.log2 m
        let s := s.modTile n (fun t =>
          let t := t.modSq (fun q => { q with flight := q.flight.map (fun f => { f with lev := m, miss := none, last := t.cnt }), mstep := mstepWord true ph lv f.ws })
          let t := if m = f.stages then t.flightDone else t
          if f.miss.isSome then t.countMiss else t)
        ok (if f.miss.isSome then s.lowerWire n else s)
  | _, _ => ok s

/-! ### Words that are no instruction (R260, R270) -/

/-- Is a word of CT an `MLOOP` whose B, II or SC is out of range? That is the LOOP trap, which R310 tests first. -/
def mloopRange (w : Lane) (e : Option Lane) : Bool :=
  match decode .ct (legalPart .ct w) e with
  | .mloop b ii sc _ => !mloopOk b.toNat ii.toNat sc.toNat
  | .mloopLcb b ii sc => !mloopOk b.toNat ii.toNat sc.toNat
  | _ => false

/-- `UNASSIGNED_OPCODE`: the word issues in its column and is the ILLINSN trap; a Sluice word fails its sequence with PROG. -/
def execUnassignedOpcode (c : Col) (w : Lane) (e : Option Lane) (s : State) : Out :=
  let k := illNeeds s s.cur.tile c w e
  match c with
  | .ct =>
    if mloopRange w e then ctWord s true (s.tile s.cur.tile).service (k.named .ct) (fun s => ok (s.trapCt tLOOP))
    else ctIssue s false true k ok
  | .logit => logitOp s (.unassignedOpcode c w e) (fun s x => (s, .ok x.sl))
  | .ce => if (s.tile s.cur.tile).faulted .ce || !(s.tile s.cur.tile).en.ceq.all (·.started) then ok s else ok (s.trapCur tILLINSN 0)
  | _ => syncIssue s false (wordTok w).dly (if c = .mx || c = .sq then e else none) k ok

end Sys2Proof.Machine
end

