-- ==== Sys2Proof/Machine/Dispatch.lean ====
section
/-! DEFINITION. The dispatch of an instruction or event to its meaning: one direct call for each row of the opcode table. -/
namespace Sys2Proof.Machine

open Sys2Proof

def exec (i : Instr) (s : State) : Host.Outcome State Fault Refusal :=
  match i with
  | .add o => Sys2Proof.Machine.execAdd o s
  | .sub o => Sys2Proof.Machine.execSub o s
  | .and o => Sys2Proof.Machine.execAnd o s
  | .or o => Sys2Proof.Machine.execOr o s
  | .xor o => Sys2Proof.Machine.execXor o s
  | .sll o => Sys2Proof.Machine.execSll o s
  | .srl o => Sys2Proof.Machine.execSrl o s
  | .sra o => Sys2Proof.Machine.execSra o s
  | .slt o => Sys2Proof.Machine.execSlt o s
  | .sltu o => Sys2Proof.Machine.execSltu o s
  | .seq o => Sys2Proof.Machine.execSeq o s
  | .mul o => Sys2Proof.Machine.execMul o s
  | .mulh o => Sys2Proof.Machine.execMulh o s
  | .div o => Sys2Proof.Machine.execDiv o s
  | .divu o => Sys2Proof.Machine.execDivu o s
  | .rem o => Sys2Proof.Machine.execRem o s
  | .min o => Sys2Proof.Machine.execMin o s
  | .max o => Sys2Proof.Machine.execMax o s
  | .addi o => Sys2Proof.Machine.execAddi o s
  | .andi o => Sys2Proof.Machine.execAndi o s
  | .ori o => Sys2Proof.Machine.execOri o s
  | .xori o => Sys2Proof.Machine.execXori o s
  | .slli o => Sys2Proof.Machine.execSlli o s
  | .srli o => Sys2Proof.Machine.execSrli o s
  | .srai o => Sys2Proof.Machine.execSrai o s
  | .slti o => Sys2Proof.Machine.execSlti o s
  | .ldi d imm => Sys2Proof.Machine.execLdi d imm s
  | .ldiLong d imm ext => Sys2Proof.Machine.execLdiLong d imm ext s
  | .orhi d sh imm => Sys2Proof.Machine.execOrhi d sh imm s
  | .beq o => Sys2Proof.Machine.execBeq o s
  | .bne o => Sys2Proof.Machine.execBne o s
  | .blt o => Sys2Proof.Machine.execBlt o s
  | .bge o => Sys2Proof.Machine.execBge o s
  | .bltu o => Sys2Proof.Machine.execBltu o s
  | .bgeu o => Sys2Proof.Machine.execBgeu o s
  | .jal d off => Sys2Proof.Machine.execJal d off s
  | .jalr o => Sys2Proof.Machine.execJalr o s
  | .lds o => Sys2Proof.Machine.execLds o s
  | .sts o => Sys2Proof.Machine.execSts o s
  | .fence mask scope => Sys2Proof.Machine.execFence mask scope s
  | .cmo opc lvl a n => Sys2Proof.Machine.execCmo opc lvl a n s
  | .semw o => Sys2Proof.Machine.execSemw o s
  | .semr d sm => Sys2Proof.Machine.execSemr d sm s
  | .sems o => Sys2Proof.Machine.execSems o s
  | .wfe => Sys2Proof.Machine.execWfe s
  | .sev => Sys2Proof.Machine.execSev s
  | .gbar mask => Sys2Proof.Machine.execGbar mask s
  | .mark sr => Sys2Proof.Machine.execMark sr s
  | .done => Sys2Proof.Machine.execDone s
  | .mloop b ii sc sr => Sys2Proof.Machine.execMloop b ii sc sr s
  | .mloopLcb b ii sc => Sys2Proof.Machine.execMloopLcb b ii sc s
  | .mlcb idx a => Sys2Proof.Machine.execMlcb idx a s
  | .loop sr e => Sys2Proof.Machine.execLoop sr e s
  | .unloop => Sys2Proof.Machine.execUnloop s
  | .rdid d sel => Sys2Proof.Machine.execRdid d sel s
  | .srr d sys => Sys2Proof.Machine.execSrr d sys s
  | .srw sr sys => Sys2Proof.Machine.execSrw sr sys s
  | .rdstamp d => Sys2Proof.Machine.execRdstamp d s
  | .mova tgt sr => Sys2Proof.Machine.execMova tgt sr s
  | .trap code => Sys2Proof.Machine.execTrap code s
  | .eret => Sys2Proof.Machine.execEret s
  | .halt => Sys2Proof.Machine.execHalt s
  | .ldv o => Sys2Proof.Machine.execLdv o s
  | .ldq o => Sys2Proof.Machine.execLdq o s
  | .ldt o => Sys2Proof.Machine.execLdt o s
  | .ldg o => Sys2Proof.Machine.execLdg o s
  | .ldb o => Sys2Proof.Machine.execLdb o s
  | .ldsc o => Sys2Proof.Machine.execLdsc o s
  | .ldp o => Sys2Proof.Machine.execLdp o s
  | .lpf o => Sys2Proof.Machine.execLpf o s
  | .ldx o => Sys2Proof.Machine.execLdx o s
  | .ldbc o => Sys2Proof.Machine.execLdbc o s
  | .stv o => Sys2Proof.Machine.execStv o s
  | .stq o => Sys2Proof.Machine.execStq o s
  | .stt o => Sys2Proof.Machine.execStt o s
  | .sct o => Sys2Proof.Machine.execSct o s
  | .stp o => Sys2Proof.Machine.execStp o s
  | .stc o => Sys2Proof.Machine.execStc o s
  | .stz o => Sys2Proof.Machine.execStz o s
  | .stm o => Sys2Proof.Machine.execStm o s
  | .copy o => Sys2Proof.Machine.execCopy o s
  | .copya o => Sys2Proof.Machine.execCopya o s
  | .fill o => Sys2Proof.Machine.execFill o s
  | .accw o => Sys2Proof.Machine.execAccw o s
  | .xadd o => Sys2Proof.Machine.execXadd o s
  | .cas o => Sys2Proof.Machine.execCas o s
  | .mcast o => Sys2Proof.Machine.execMcast o s
  | .msend o => Sys2Proof.Machine.execMsend o s
  | .mrecv o => Sys2Proof.Machine.execMrecv o s
  | .cmoa o => Sys2Proof.Machine.execCmoa o s
  | .pfb o => Sys2Proof.Machine.execPfb o s
  | .ceflush o => Sys2Proof.Machine.execCeflush o s
  | .vadd o => Sys2Proof.Machine.execVadd o s
  | .vsub o => Sys2Proof.Machine.execVsub o s
  | .vmul o => Sys2Proof.Machine.execVmul o s
  | .vfma o => Sys2Proof.Machine.execVfma o s
  | .vfms o => Sys2Proof.Machine.execVfms o s
  | .vmax o => Sys2Proof.Machine.execVmax o s
  | .vmin o => Sys2Proof.Machine.execVmin o s
  | .vabs o => Sys2Proof.Machine.execVabs o s
  | .vneg o => Sys2Proof.Machine.execVneg o s
  | .vand o => Sys2Proof.Machine.execVand o s
  | .vor o => Sys2Proof.Machine.execVor o s
  | .vxor o => Sys2Proof.Machine.execVxor o s
  | .vshl o => Sys2Proof.Machine.execVshl o s
  | .vshr o => Sys2Proof.Machine.execVshr o s
  | .vsra o => Sys2Proof.Machine.execVsra o s
  | .vcmp o => Sys2Proof.Machine.execVcmp o s
  | .vsel o => Sys2Proof.Machine.execVsel o s
  | .vcvt o => Sys2Proof.Machine.execVcvt o s
  | .vqblk o => Sys2Proof.Machine.execVqblk o s
  | .vrcp o => Sys2Proof.Machine.execVrcp o s
  | .vrsq o => Sys2Proof.Machine.execVrsq o s
  | .vexp2 o => Sys2Proof.Machine.execVexp2 o s
  | .vlog2 o => Sys2Proof.Machine.execVlog2 o s
  | .vtie o => Sys2Proof.Machine.execVtie o s
  | .vtld o => Sys2Proof.Machine.execVtld o s
  | .vred o => Sys2Proof.Machine.execVred o s
  | .vbcast o => Sys2Proof.Machine.execVbcast o s
  | .vperm o => Sys2Proof.Machine.execVperm o s
  | .vpack o => Sys2Proof.Machine.execVpack o s
  | .vunpk o => Sys2Proof.Machine.execVunpk o s
  | .vmov o => Sys2Proof.Machine.execVmov o s
  | .vidx o => Sys2Proof.Machine.execVidx o s
  | .vwin o => Sys2Proof.Machine.execVwin o s
  | .vamax o => Sys2Proof.Machine.execVamax o s
  | .vrng o => Sys2Proof.Machine.execVrng o s
  | .vclr o => Sys2Proof.Machine.execVclr o s
  | .mma t acc p et ovw => Sys2Proof.Machine.execMma t acc p et ovw s
  | .mmas t acc p et ovw => Sys2Proof.Machine.execMmas t acc p et ovw s
  | .mmax t acc p et ovw => Sys2Proof.Machine.execMmax t acc p et ovw s
  | .mtile t acc p et ovw => Sys2Proof.Machine.execMtile t acc p et ovw s
  | .mbsel t spn ksel => Sys2Proof.Machine.execMbsel t spn ksel s
  | .maclr t d n => Sys2Proof.Machine.execMaclr t d n s
  | .macmv t d sr n => Sys2Proof.Machine.execMacmv t d sr n s
  | .mwake t m => Sys2Proof.Machine.execMwake t m s
  | .mmsk t m b r q => Sys2Proof.Machine.execMmsk t m b r q s
  | .mscl t b a => Sys2Proof.Machine.execMscl t b a s
  | .mtrn t d sr g => Sys2Proof.Machine.execMtrn t d sr g s
  | .mspx t p => Sys2Proof.Machine.execMspx t p s
  | .sopdef t op v => Sys2Proof.Machine.execSopdef t op v s
  | .scan t op ws v => Sys2Proof.Machine.execScan t op ws v s
  | .sup t op ws v => Sys2Proof.Machine.execSup t op ws v s
  | .sdn t op ws v => Sys2Proof.Machine.execSdn t op ws v s
  | .sxsc t op ws v => Sys2Proof.Machine.execSxsc t op ws v s
  | .slbk t op va vb => Sys2Proof.Machine.execSlbk t op va vb s
  | .scsnd t ch tag rb => Sys2Proof.Machine.execScsnd t ch tag rb s
  | .scrcv t ch tag rb => Sys2Proof.Machine.execScrcv t ch tag rb s
  | .pbind t ps => Sys2Proof.Machine.execPbind t ps s
  | .pbindPair t ps ph => Sys2Proof.Machine.execPbindPair t ps ph s
  | .punb t ps => Sys2Proof.Machine.execPunb t ps s
  | .pld t ps row v => Sys2Proof.Machine.execPld t ps row v s
  | .pst t ps row v => Sys2Proof.Machine.execPst t ps row v s
  | .step t ps k op v => Sys2Proof.Machine.execStep t ps k op v s
  | .pspill t ps sw sr now => Sys2Proof.Machine.execPspill t ps sw sr now s
  | .pfill t ps sw sr now => Sys2Proof.Machine.execPfill t ps sw sr now s
  | .pshd t ps => Sys2Proof.Machine.execPshd t ps s
  | .coll o => Sys2Proof.Machine.execColl o s
  | .radd o => Sys2Proof.Machine.execRadd o s
  | .send o => Sys2Proof.Machine.execSend o s
  | .recv o => Sys2Proof.Machine.execRecv o s
  | .put o => Sys2Proof.Machine.execPut o s
  | .get o => Sys2Proof.Machine.execGet o s
  | .append o => Sys2Proof.Machine.execAppend o s
  | .pred o => Sys2Proof.Machine.execPred o s
  | .lbar o => Sys2Proof.Machine.execLbar o s
  | .grpdef o => Sys2Proof.Machine.execGrpdef o s
  | .lquiet o => Sys2Proof.Machine.execLquiet o s
  | .lfence o => Sys2Proof.Machine.execLfence o s
  | .lldl d => Sys2Proof.Machine.execLldl d s
  | .lbias d a => Sys2Proof.Machine.execLbias d a s
  | .lpen d a k m => Sys2Proof.Machine.execLpen d a k m s
  | .ltemp d a k => Sys2Proof.Machine.execLtemp d a k s
  | .lmask d a => Sys2Proof.Machine.execLmask d a s
  | .lmax a k => Sys2Proof.Machine.execLmax a k s
  | .lsubx d a k => Sys2Proof.Machine.execLsubx d a k s
  | .lsum a k e => Sys2Proof.Machine.execLsum a k e s
  | .llogp d a => Sys2Proof.Machine.execLlogp d a s
  | .ltopk d a k => Sys2Proof.Machine.execLtopk d a k s
  | .ltopp d a k => Sys2Proof.Machine.execLtopp d a k s
  | .lminp d a k => Sys2Proof.Machine.execLminp d a k s
  | .lgumb d a => Sys2Proof.Machine.execLgumb d a s
  | .larg a k => Sys2Proof.Machine.execLarg a k s
  | .lcmp d a b c => Sys2Proof.Machine.execLcmp d a b c s
  | .lcmpK d a k c => Sys2Proof.Machine.execLcmpK d a k c s
  | .lsel d a b c => Sys2Proof.Machine.execLsel d a b c s
  | .lmov d a => Sys2Proof.Machine.execLmov d a s
  | .lmovK d k => Sys2Proof.Machine.execLmovK d k s
  | .lldk k sr => Sys2Proof.Machine.execLldk k sr s
  | .lldkLit k sr lit => Sys2Proof.Machine.execLldkLit k sr lit s
  | .lcnt d => Sys2Proof.Machine.execLcnt d s
  | .lskip k m iv c => Sys2Proof.Machine.execLskip k m iv c s
  | .lemit a b => Sys2Proof.Machine.execLemit a b s
  | .lgrp k sr => Sys2Proof.Machine.execLgrp k sr s
  | .lgrpAddcum d a => Sys2Proof.Machine.execLgrpAddcum d a s
  | .lend => Sys2Proof.Machine.execLend s
  | .ladd d a b => Sys2Proof.Machine.execLadd d a b s
  | .laddK d a k => Sys2Proof.Machine.execLaddK d a k s
  | .unassignedOpcode col word ext => Sys2Proof.Machine.execUnassignedOpcode col word ext s
  | .packageReset => Sys2Proof.Machine.execPackageReset s
  | .securityCoreError => Sys2Proof.Machine.execSecurityCoreError s
  | .thermalTrip => Sys2Proof.Machine.execThermalTrip s
  | .thermalRelease => Sys2Proof.Machine.execThermalRelease s
  | .weirWindow => Sys2Proof.Machine.execWeirWindow s
  | .throttleHoldEnd => Sys2Proof.Machine.execThrottleHoldEnd s
  | .weirSlopeWrite => Sys2Proof.Machine.execWeirSlopeWrite s
  | .timeFreqWrite => Sys2Proof.Machine.execTimeFreqWrite s
  | .timeFreqApply => Sys2Proof.Machine.execTimeFreqApply s
  | .timeStartWrite => Sys2Proof.Machine.execTimeStartWrite s
  | .epochStart => Sys2Proof.Machine.execEpochStart s
  | .ppsEdge => Sys2Proof.Machine.execPpsEdge s
  | .eventMessage => Sys2Proof.Machine.execEventMessage s
  | .telemetrySample => Sys2Proof.Machine.execTelemetrySample s
  | .teleWrite => Sys2Proof.Machine.execTeleWrite s
  | .subarrayGate => Sys2Proof.Machine.execSubarrayGate s
  | .flitReplay => Sys2Proof.Machine.execFlitReplay s
  | .portDown => Sys2Proof.Machine.execPortDown s
  | .linkProtocolError => Sys2Proof.Machine.execLinkProtocolError s
  | .portEnable => Sys2Proof.Machine.execPortEnable s
  | .portDisable => Sys2Proof.Machine.execPortDisable s
  | .routeWrite => Sys2Proof.Machine.execRouteWrite s
  | .ctmoWrite => Sys2Proof.Machine.execCtmoWrite s
  | .contributionArrival => Sys2Proof.Machine.execContributionArrival s
  | .contributionRetry => Sys2Proof.Machine.execContributionRetry s
  | .collectiveCommit => Sys2Proof.Machine.execCollectiveCommit s
  | .collectiveTimeout => Sys2Proof.Machine.execCollectiveTimeout s
  | .towpathArrival => Sys2Proof.Machine.execTowpathArrival s
  | .cxlPortDown => Sys2Proof.Machine.execCxlPortDown s
  | .sliceAccess => Sys2Proof.Machine.execSliceAccess s
  | .lineFill => Sys2Proof.Machine.execLineFill s
  | .writeBack => Sys2Proof.Machine.execWriteBack s
  | .dramScrub => Sys2Proof.Machine.execDramScrub s
  | .basinMapWrite => Sys2Proof.Machine.execBasinMapWrite s
  | .basinMapApply => Sys2Proof.Machine.execBasinMapApply s
  | .movedone => Sys2Proof.Machine.execMovedone s
  | .carveCreate => Sys2Proof.Machine.execCarveCreate s
  | .carveReady => Sys2Proof.Machine.execCarveReady s
  | .carveRelease => Sys2Proof.Machine.execCarveRelease s
  | .shootdownGo => Sys2Proof.Machine.execShootdownGo s
  | .shootdownTileClean => Sys2Proof.Machine.execShootdownTileClean s
  | .shootdownBasinClean => Sys2Proof.Machine.execShootdownBasinClean s
  | .shootdownRelease => Sys2Proof.Machine.execShootdownRelease s
  | .migrationCopy => Sys2Proof.Machine.execMigrationCopy s
  | .pagerReply => Sys2Proof.Machine.execPagerReply s
  | .hostRead => Sys2Proof.Machine.execHostRead s
  | .hostWrite => Sys2Proof.Machine.execHostWrite s
  | .flr => Sys2Proof.Machine.execFlr s
  | .qbaseWrite => Sys2Proof.Machine.execQbaseWrite s
  | .qctlWrite => Sys2Proof.Machine.execQctlWrite s
  | .qctlFlush => Sys2Proof.Machine.execQctlFlush s
  | .qtailWrite => Sys2Proof.Machine.execQtailWrite s
  | .ringConfigWrite => Sys2Proof.Machine.execRingConfigWrite s
  | .partCtlRst => Sys2Proof.Machine.execPartCtlRst s
  | .partRstTrig => Sys2Proof.Machine.execPartRstTrig s
  | .partitionAbortDone => Sys2Proof.Machine.execPartitionAbortDone s
  | .partRstGo => Sys2Proof.Machine.execPartRstGo s
  | .partitionQuiesceDone => Sys2Proof.Machine.execPartitionQuiesceDone s
  | .partitionClearDone => Sys2Proof.Machine.execPartitionClearDone s
  | .partHerrClear => Sys2Proof.Machine.execPartHerrClear s
  | .partFrconsWrite => Sys2Proof.Machine.execPartFrconsWrite s
  | .partFrctlClr => Sys2Proof.Machine.execPartFrctlClr s
  | .partSaveWrite => Sys2Proof.Machine.execPartSaveWrite s
  | .partHwinWrite => Sys2Proof.Machine.execPartHwinWrite s
  | .assign => Sys2Proof.Machine.execAssign s
  | .release => Sys2Proof.Machine.execRelease s
  | .clearDone => Sys2Proof.Machine.execClearDone s
  | .setwt => Sys2Proof.Machine.execSetwt s
  | .enable => Sys2Proof.Machine.execEnable s
  | .disable => Sys2Proof.Machine.execDisable s
  | .attest => Sys2Proof.Machine.execAttest s
  | .watchdogExpiry => Sys2Proof.Machine.execWatchdogExpiry s
  | .bargeHeadRead => Sys2Proof.Machine.execBargeHeadRead s
  | .bargeSelect => Sys2Proof.Machine.execBargeSelect s
  | .channelTableRead => Sys2Proof.Machine.execChannelTableRead s
  | .gangStart => Sys2Proof.Machine.execGangStart s
  | .joinDecrement => Sys2Proof.Machine.execJoinDecrement s
  | .sliceCtlWrite => Sys2Proof.Machine.execSliceCtlWrite s
  | .sliceSwitch => Sys2Proof.Machine.execSliceSwitch s
  | .contextSaveDone => Sys2Proof.Machine.execContextSaveDone s
  | .sliceResume => Sys2Proof.Machine.execSliceResume s
  | .gangRestore => Sys2Proof.Machine.execGangRestore s
  | .restoreDone => Sys2Proof.Machine.execRestoreDone s
  | .gwConfigWrite => Sys2Proof.Machine.execGwConfigWrite s
  | .gwStart => Sys2Proof.Machine.execGwStart s
  | .gwStop => Sys2Proof.Machine.execGwStop s
  | .bargeNode => Sys2Proof.Machine.execBargeNode s
  | .engineNode => Sys2Proof.Machine.execEngineNode s
  | .waitNode => Sys2Proof.Machine.execWaitNode s
  | .raiseNode => Sys2Proof.Machine.execRaiseNode s
  | .condNode => Sys2Proof.Machine.execCondNode s
  | .loopNode => Sys2Proof.Machine.execLoopNode s
  | .switchNode => Sys2Proof.Machine.execSwitchNode s
  | .rearmNode => Sys2Proof.Machine.execRearmNode s
  | .endNode => Sys2Proof.Machine.execEndNode s
  | .fetchLine => Sys2Proof.Machine.execFetchLine s
  | .trapEntry => Sys2Proof.Machine.execTrapEntry s
  | .stallWireFreeze => Sys2Proof.Machine.execStallWireFreeze s
  | .stallWireResume => Sys2Proof.Machine.execStallWireResume s
  | .scheduleMissRecovery => Sys2Proof.Machine.execScheduleMissRecovery s
  | .schedmiss => Sys2Proof.Machine.execSchedmiss s
  | .sequencerAdvance => Sys2Proof.Machine.execSequencerAdvance s
  | .barrierComplete => Sys2Proof.Machine.execBarrierComplete s
  | .flightLevel => Sys2Proof.Machine.execFlightLevel s
  | .messageArrival => Sys2Proof.Machine.execMessageArrival s
  | .multicastLineArrival => Sys2Proof.Machine.execMulticastLineArrival s
  | .sendMatch => Sys2Proof.Machine.execSendMatch s
  | .sluiceSequence => Sys2Proof.Machine.execSluiceSequence s
  | .acceptSequence => Sys2Proof.Machine.execAcceptSequence s
  | .commitUnit => Sys2Proof.Machine.execCommitUnit s
  | .jobEnd => Sys2Proof.Machine.execJobEnd s
  | .coalesceTimer => Sys2Proof.Machine.execCoalesceTimer s
  | .beat => Sys2Proof.Machine.execBeat s
  | .judgement => Sys2Proof.Machine.execJudgement s
  | .evaluation => Sys2Proof.Machine.execEvaluation s
  | .appealStart => Sys2Proof.Machine.execAppealStart s
  | .selfTestEnd => Sys2Proof.Machine.execSelfTestEnd s
  | .selfTestTimeout => Sys2Proof.Machine.execSelfTestTimeout s
  | .watchCmdFence => Sys2Proof.Machine.execWatchCmdFence s
  | .watchCtlEn => Sys2Proof.Machine.execWatchCtlEn s
  | .registerWrite => Sys2Proof.Machine.execRegisterWrite s
  | .bridgeFailure => Sys2Proof.Machine.execBridgeFailure s
  | .laneLoss => Sys2Proof.Machine.execLaneLoss s
  | .switchAbandon => Sys2Proof.Machine.execSwitchAbandon s
  | .putArrival => Sys2Proof.Machine.execPutArrival s
  | .protocolViolation => Sys2Proof.Machine.execProtocolViolation s
  | .commandEnd => Sys2Proof.Machine.execCommandEnd s

end Sys2Proof.Machine
end

