-- ==== Sys2Proof/Machine/Cycle.lean ====
section
/-! DEFINITION. One cycle of c (R19, R152): the counters advance, what is due lands (R146, R147), and the list of moves of the cycle is
made: the events whose time has come, the words at the heads of the queues, and, each by a free choice, the steps whose
duration the architecture does not fix (R437). -/
namespace Sys2Proof.Machine

open Sys2Proof

/-! ### Counting -/

/-- The raises of the last cycle have landed (R150), and room that pops freed counts from now (R148). -/
def Tile.settle (t : Tile) : Tile :=
  if t.qs.raises.isEmpty && t.qs.popped.isEmpty then t
  else t.modQs (fun q => { q with sm := q.raises.foldl (fun m r => upd 0 m r.1 (· + r.2)) q.sm, raises := [], popped := [] })

/-- One cycle of a tile: the gang counter of a running tile that does not stand advances (R152), CT counts those cycles and
the cycles of its handler, and what is due lands. -/
def State.tickTile (s : State) (n : Nat) : State :=
  let stands := s.frozen n
  let s := s.modTile n (fun t =>
    let t := { t.settle with old := none, fe := { t.settle.fe with gone := [] } }
    let t := if t.run && !stands then { t with cnt := t.cnt + 1 } else t
    if t.run && (!stands || t.ct.handler) then t.modCt (fun c => { c with clk := c.clk + 1 }) else t)
  s.landTile n (s.frozen n)

/-- A queue's watchdog and the age of its head (R108, R128). -/
def State.tickQueue (s : State) (p : Nat) (x : Part) (i : Nat) (q : Queue) : Queue :=
  let q := if wfld q.ctl 32 32 != 0 && s.resident p i then { q with dog := q.dog + 1 } else q
  match q.rec_ with
  | some r => if x.classOn (shScls r) then { q with age := q.age + 1 } else q
  | none => if q.head = q.tail then q else { q with ages := (List.range 8).foldl (fun m c => if x.classOn c then upd 0 m c (· + 1) else m) q.ages }
def State.tickPart (s : State) (p : Nat) : State :=
  s.modPart p (fun x => { x with queues := x.queues.map (fun e => (e.1, s.tickQueue p x e.1 e.2)) })

/-- The gang-tile cycles of this cycle, and those of them that a throttle hold keeps frozen (R42). -/
def State.tickHold (s : State) : State :=
  let on := s.gangs.filter (fun g => match g.phase with | .running => true | _ => false)
  let sum := fun (l : List Gang) => l.foldl (fun n g => n + 2 ^ g.log2) 0
  { s with pw := { s.pw with gangCyc := s.pw.gangCyc + sum on, heldCyc := s.pw.heldCyc + sum (on.filter (fun g => g.frozen && decide (g.heldFrom ≤ s.stamp) && decide (s.stamp < g.heldTo))) } }

/-- All counters of the package. TIME.PRE runs from package reset, the stamp counter from the epoch on (R37, R38). -/
def State.advance (s : State) : State :=
  let s := s.tickHold.flushRecords
  let s := { s with stamp := if s.tm.run then s.stamp + 1 else s.stamp, tm := { s.tm with pre := s.tm.pre + 1 } }
  let s := (s.tiles.map (·.1)).foldl (fun s n => s.tickTile n) s
  if s.tm.run then (s.parts.map (·.1)).foldl (fun s p => s.tickPart p) s else s

/-! ### The moves of a cycle -/

/-- An event on a tile, a die, a partition or an index. -/
def onTile (i : Instr) (n : Nat) (idx : Nat := 0) : Move := .ev i { Arg.zero with tile := n, idx := idx }
def onDie (i : Instr) (d : Nat) (idx : Nat := 0) : Move := .ev i { Arg.zero with die := d, idx := idx }
def onPart (i : Instr) (p : Nat) (idx : Nat := 0) : Move := .ev i { Arg.zero with part := p, idx := idx }
def onIdx (i : Instr) (k : Nat) : Move := .ev i { Arg.zero with idx := k }
def onLoad (i : Instr) (l : Load) : Move := .ev i { Arg.zero with load := l }

/-- Moves that may or may not be made in this cycle (R437): a free choice for each. -/
def State.chance (s : State) (l : List Move) : State × List Move :=
  ({ s with free := s.free + l.length }, (l.zipIdx.filter (fun e => Config.go (s.free + e.2))).map (·.1))

/-- A list when a condition holds. -/
def when_ (b : Bool) (l : List α) : List α := if b then l else []

/-- Time and power (R28–R44): what is due. The cycle of the epoch is stamp 0, so that what falls on its multiples is due there too. -/
def State.timeMoves (s : State) : List Move :=
  let epoch := s.tm.arm && !s.tm.run && s.tm.pre == s.tm.start.toNat
  when_ epoch [onIdx .epochStart 0] ++
  when_ (epoch || (if s.tm.run then s.stamp else s.tm.pre) % 1024 == 0) [onIdx .timeFreqApply 0] ++
  when_ (epoch || (s.tm.run && s.stamp % 700 == 0)) [onIdx .weirWindow 0] ++
  when_ (epoch || (s.tm.run && s.stamp % 700000 == 0)) [onIdx .telemetrySample 0] ++
  (s.gangs.filter (fun g => match g.hold with | some e => decide (e ≤ s.stamp) | none => false)).map (fun g => onIdx .throttleHoldEnd g.base)

/-- The neighbour watch (R239–R249): beats, judgements and evaluations at their counts of TIME.PRE. -/
def State.watchMoves (s : State) : List Move :=
  let k := s.tm.pre % 4096
  let dies := (List.range 4).filter (fun d => (s.die d).watchEn)
  let tiles := dies.flatMap (fun d => (List.range 128).map (128 * d + ·))
  when_ (k == 0) ((List.range 512).map (fun n => onTile .beat n)) ++ when_ (k == 2048) (tiles.map (fun n => onTile .judgement n)) ++
  when_ (k == 3072) (dies.map (fun d => onDie .evaluation d)) ++
  when_ (k == 3072) ((s.tiles.filter (fun t => t.2.wa.health == .fenced)).map (fun t => onTile .appealStart t.1)) ++
  (s.tiles.filter (fun t => t.2.wa.health == .testing)).flatMap (fun t =>
    when_ t.2.ct.halted [.ev .selfTestEnd { Arg.zero with tile := t.1, flag := true }] ++ [onTile .selfTestTimeout t.1])

/-- Gangs (R129, R155, R307): what is due. -/
def State.gangMoves (s : State) : List Move :=
  s.gangs.flatMap (fun g =>
    match g.phase with
    | .placed => [onIdx .gangStart g.base]
    | .out => []
    | _ =>
      when_ (match g.resumeAt with | some x => decide (x ≤ s.stamp) | none => false) [onIdx .stallWireResume g.base] ++
      when_ (!g.frozen && g.stands (s.tile g.base).cnt) [onIdx .stallWireFreeze g.base] ++
      when_ (!g.arrived.isEmpty) [onIdx .barrierComplete g.base])

/-- Slices (R135): what is due. A switch comes after the words of its cycle, which are the last that a gang it pre-empts issues. -/
def State.sliceMoves (s : State) : List Move :=
  s.parts.flatMap (fun e => when_ (e.2.slice.getLsbD 48 && decide (e.2.next.toNat ≤ s.stamp)) [onPart .sliceSwitch e.1] ++
    when_ (e.2.lastSwitch != 0 && decide (e.2.lastSwitch + wfld e.2.slice 0 18 ≤ s.stamp)) [onPart .sliceResume e.1])

/-- What waits in a tile before its words issue: traps, misses, and sub-arrays that have been idle (R44, R154, R161). -/
def Tile.earlyMoves (t : Tile) (n : Nat) : List Move :=
  when_ (!t.ct.reqs.isEmpty) [onTile .trapEntry n] ++
  t.fe.cols.flatMap (fun c => match c.2.st with
    | .missed _ => [onTile .scheduleMissRecovery n c.1, onTile .schedmiss n c.1]
    | _ => []) ++
  when_ (match t.sq.flight with | some f => f.miss.isSome | none => false) [onTile .schedmiss n 9] ++
  when_ (t.run && t.mx.gated != 0xF) ((List.range 4).map (fun k => onTile .subarrayGate n k))

/-- The Flight levels, the highest rank first; twice, since the last level of `SUP` and `SXSC` falls due with the destination write
(R202). -/
def State.flightMoves (s : State) : List Move :=
  let l := ((s.tiles.filter (fun t => t.2.sq.flight.isSome)).map (fun t => onTile .flightLevel t.1)).reverse
  l ++ l

/-- The word at the head of a column. -/
def Tile.headMove (t : Tile) (n : Nat) (c : Col) : List Move :=
  match t.iq c with
  | q :: _ => [.word ⟨n, c, q, false⟩]
  | [] => []

/-- Does `WFE` stand at the head of CT? It samples the latch after every event of its cycle (R151). -/
def Tile.atWfe (t : Tile) : Bool := match t.iq .ct with
  | q :: _ => decode .ct q.word q.ext == .wfe
  | [] => false

/-- The words of a tile, in the order in which columns pop queues (R148); the sequencer's words come after CT's. -/
def Tile.wordMoves (t : Tile) (n : Nat) : List Move :=
  when_ (!t.atWfe) (t.headMove n .ct) ++ when_ (t.fe.seqr.run && t.fe.seqr.lines == 0) [onTile .sequencerAdvance n] ++
  ([Col.ld, .vx, .mx, .sq, .st, .lk, .ce].flatMap (t.headMove n))

/-- Is a spill or fill under way? It moves at a fixed rate (R212). -/
def Tile.spilling (t : Tile) : Bool := t.en.spq.any (·.open_)
/-- The asynchronous engines of a tile. -/
def Tile.engineMoves (t : Tile) (n : Nat) : List Move :=
  let col := fun (k : Nat) (c : Col) => when_ (!(t.cmds c).isEmpty) [onTile .commandEnd n k, .engine n c]
  col 0 .ce ++ col 1 .lk ++ when_ (!t.en.spq.isEmpty) [onTile .commandEnd n 2] ++ when_ (!t.en.spq.isEmpty && !t.spilling) [.engine n .sq]

/-- What is in flight on the links (R57–R64, R183, R207, R340, R401). Indices fall, so that an event that removes its own leaves the others
in place. -/
def State.linkMoves (s : State) : List Move :=
  let idx := fun (l : Nat) => (List.range l).reverse
  s.msgs.map (fun m => onLoad .messageArrival (.msg m)) ++
  s.blocks.map (fun d => onLoad (if d.mcast then .multicastLineArrival else .putArrival) (.delivery d)) ++
  s.carries.map (fun c => onLoad .towpathArrival (.carry c)) ++ s.contribs.map (fun c => onLoad .contributionArrival (.contrib c)) ++
  (idx s.reds.length).map (fun k => onIdx .collectiveCommit k) ++
  s.tiles.flatMap (fun t => (t.2.en.lkq.filter (fun c => isRecvCmd c && c.started && decide (0 < c.left))).map (fun c =>
    let p := cmdPeer t.2 c
    onTile .sendMatch t.1 (p.pkg * 512 + p.tile))) ++
  s.tiles.flatMap (fun t => (t.2.en.lkq.filter (fun c => isSendCmd c && c.started && decide (0 < c.left) && (cmdPeer t.2 c).pkg != s.pkg)).map (fun c =>
    let p := cmdPeer t.2 c
    .ev .sendMatch { Arg.zero with tile := t.1, idx := p.pkg * 512 + p.tile, flag := true }))
/-- Resending and time-outs (R59, R63), and the protocol errors of packets that a port has refused (R65): what is due. -/
def State.linkTimers (s : State) : List Move :=
  let idx := fun (l : Nat) => (List.range l).reverse
  let out := ((s.blocks.filter (fun d => d.src.pkg == s.pkg && !d.mcast)).map (fun d => (d.src.tile, d.key)) ++
    s.contribs.filterMap (·.ack) ++ s.refused.filterMap (·.2.ack)).eraseDups.filter (fun e => s.transferLate e.1 e.2)
  (idx s.refused.length).map (fun k => onIdx .contributionRetry k) ++ (idx s.reds.length).map (fun k => onIdx .collectiveTimeout k) ++
    out.map (fun e => .ev .collectiveTimeout { Arg.zero with tile := e.1, num := e.2, flag := true }) ++
    s.laneErrors.map (fun e => .ev .linkProtocolError { Arg.zero with idx := e.1, sub := e.2 })

/-- The memory system (R86–R93, R170, R189). -/
def State.memMoves (s : State) : List Move :=
  s.tiles.flatMap (fun t => t.2.cache.flatMap (fun c =>
    when_ (c.2.dirty != 0) [.ev .writeBack { Arg.zero with tile := t.1, num := c.1 * 32 }])) ++
  s.dies.flatMap (fun e =>
    let d := e.1
    let x := e.2
    x.lines.flatMap (fun l => (List.range 4).flatMap (fun k => when_ (!l.2.valid.getLsbD k)
      [.ev .lineFill { Arg.zero with die := d, part := l.1 / 2 ^ 50, num := l.1 % 2 ^ 50 * 128 + 32 * k }])) ++
    when_ x.mapBusy [onDie .basinMapApply d] ++ x.retiring.map (fun k => onDie .movedone d (k % 32)) ++
    (x.carve.filter (fun c => carveV c.2 && !c.2.getLsbD 14)).map (fun c => onDie .carveReady d c.1) ++
    when_ (x.shPhase == 1) [onDie .shootdownTileClean d] ++ when_ (x.shPhase == 2) [onDie .shootdownBasinClean d] ++
    when_ (x.shPhase == 3) [onDie .shootdownRelease d] ++
    (x.owner.filter (fun o => unclean o.2)).map (fun o =>
      .ev .clearDone { Arg.zero with flag := true, num := paKey d (if o.1 < 2 ^ 32 then o.1 * 65536 else (o.1 - 2 ^ 32) * 2 ^ 21) })) ++
  (s.tiles.filter (fun t => unclean t.2.ownByte)).map (fun t => onTile .clearDone t.1)

/-- The kinds of nodes: the walker's node decides which takes place (R132). -/
def nodeKinds : List Instr := [.bargeNode, .engineNode, .waitNode, .raiseNode, .condNode, .loopNode, .switchNode, .rearmNode, .endNode]

/-- Partitions and the scheduler (R105, R109, R122, R131–R136). -/
def State.hostMoves (s : State) : List Move :=
  s.parts.flatMap (fun e =>
    let p := e.1
    when_ (e.2.phase == 3) [onPart .partitionQuiesceDone p] ++
    when_ (e.2.phase == 4) [onPart .partitionClearDone p] ++
    (e.2.queues.filter (fun q => q.2.en && q.2.head != q.2.tail && q.2.rec_.isNone)).map (fun q => onPart .bargeHeadRead p q.1) ++
    (e.2.walkers.filter (fun w => w.2.state == 1)).flatMap (fun w => nodeKinds.map (fun k => onPart k p w.1)) ++
    (s.restores p).map (fun g => onPart .gangRestore p g.base)) ++
  s.gangs.flatMap (fun g => match g.phase with
    | .placed => g.tiles.map (fun n => onTile .channelTableRead n)
    | .saving => g.tiles.map (fun n => onTile .contextSaveDone n)
    | .restoring => [onIdx .restoreDone g.base]
    | _ => []) ++
  ((List.range s.joins.length).reverse).map (fun k => onIdx .joinDecrement k)

/-- The jobs of the die engines (R217). -/
def State.jobMoves (s : State) : List Move :=
  s.dies.flatMap (fun e =>
    let d := e.1
    e.2.jobs.flatMap (fun j => (match j.kind with
      | 0 => [onDie .sluiceSequence d] ++ (List.range 4).map (fun k => Move.logit d k)
      | 1 => [onDie .acceptSequence d]
      | _ => [onDie .commitUnit d]) ++ [onDie .jobEnd d j.kind]))

/-- Timers of the host side (R108, R109, R237): what is due. -/
def State.hostTimers (s : State) : List Move :=
  s.parts.flatMap (fun e => when_ (e.2.phase == 2 && !e.2.awaitGo && decide (e.2.phaseAt + 64 ≤ s.tm.pre)) [onPart .partitionAbortDone e.1]) ++
  s.parts.flatMap (fun e => (e.2.rings.filter (fun r => 0 < r.2.pend)).map (fun r => onPart .coalesceTimer e.1 r.1)) ++
  s.parts.flatMap (fun e => (e.2.queues.filter (fun q => decide (wfld q.2.ctl 32 32 * 700 ≤ q.2.dog) && wfld q.2.ctl 32 32 != 0)).map (fun q => onPart .watchdogExpiry e.1 q.1))

/-- Self-tests that end, by a free choice; what the routine leaves in g2 is another. -/
def State.testMoves (s : State) : List Move :=
  (s.tiles.filter (fun t => t.2.wa.health == .testing)).flatMap (fun t =>
    [.ev .selfTestEnd { Arg.zero with tile := t.1, val := 0 }, .ev .selfTestEnd { Arg.zero with tile := t.1, val := 1 }])

/-- The moves of a cycle, in their order. Time-outs come before what a fencing ends, so that the lower CAUSE of a cycle stands (R64). Fetch comes after the words, so that a word that has been read issues in a later cycle
(R298); the watchdogs come last (R108). -/
def State.moves (s : State) : State × List Move :=
  let due := s.timeMoves ++ s.linkTimers ++ s.watchMoves ++ s.gangMoves ++ s.flightMoves ++ s.tiles.flatMap (fun t => t.2.earlyMoves t.1) ++
    s.tiles.flatMap (fun t => t.2.wordMoves t.1) ++ (s.tiles.filter (fun t => t.2.spilling)).map (fun t => .engine t.1 .sq) ++ s.sliceMoves
  let (s, open_) := s.chance (s.tiles.flatMap (fun t => t.2.engineMoves t.1) ++ s.linkMoves ++ s.memMoves ++ s.hostMoves ++ s.jobMoves ++ s.testMoves)
  ({ s with laneErrors := [] }, due ++ open_ ++ (s.tiles.filter (fun t => t.2.atWfe)).flatMap (fun t => t.2.headMove t.1 .ct) ++ when_ (s.parts.any (fun e => e.2.st == 2)) [onIdx .bargeSelect 0] ++
    (s.tiles.filter (fun t => t.2.fe.on)).map (fun t => onTile .fetchLine t.1) ++ s.hostTimers)

/-- Does the package stand in reset: while a thermal trip holds it (R28), and after a failed boot (R113)? -/
def State.inReset (s : State) : Bool := s.pw.held || wfld s.boot 0 3 == 4

/-- A cycle begins. DESIGN CHOICE (log 78): while the package stands in reset nothing counts, TIME.PRE included, and nothing falls due. -/
def State.tick (s : State) : State :=
  if s.inReset then s
  else
    let (s, l) := s.advance.moves
    { s with agenda := l }

/-! ### Making a move -/

/-- May a word make its attempt: its tile runs and does not stand, except for a word of the handler (R155); it still is the
head of its column; and the words behind a modulo body wait for the loop to end (R157). CT waits while the lines of a body are read, since a body that
is refused is a precise trap at its `MLOOP` (log 95). -/
def State.wordStands (s : State) (a : Acting) : Bool :=
  let t := s.tile a.tile
  let q := t.fe.seqr
  t.run && (!s.frozen a.tile || (a.col == .ct && t.ct.handler)) &&
    (if a.body then q.due.any (fun b => b.col == a.col && b.q == a.q)
     else (t.iq a.col).head? == some a.q &&
       (if a.col = .ct then !q.run || q.lines == 0 || t.ct.handler else !q.run || q.lines != 0 || get 0 q.ahead (colCode a.col) != 0))

/-- While a thermal trip holds the package in reset, only its release takes effect (R28); after a failed boot, while the dies stay in
reset (R113), only another reset does. -/
def State.hears (s : State) (i : Instr) : Bool :=
  if s.pw.held then i == .thermalRelease
  else wfld s.boot 0 3 != 4 || i == .packageReset || i == .thermalTrip || i == .securityCoreError

end Sys2Proof.Machine
end

