-- ==== Sys2Proof/Machine/Place.lean ====
section
/-! DEFINITION. An instruction placed where the machine takes its next one from: a word at the head of its column's instruction queue on
tile 0 (R142), or a word of a logit program in memory under a running Sluice engine of die 0 (R217, R272). -/
namespace Sys2Proof.Machine

open Sys2Proof

/-- The first column in which a bare word decodes to a row of the table; CT when none does. -/
def firstColumn (w : Lane) (e : Option Lane) : List Col → Col
  | [] => .ct
  | c :: cs => match decode c w e with
    | .unassignedOpcode _ _ _ => firstColumn w e cs
    | _ => c

/-- The words of an instruction of `nbits` bits, and the column that decodes them, as `decodeTableWord` does. -/
def placedWord (w : Nat) : Lane := BitVec.ofNat 32 w
def placedExt (nbits w : Nat) : Option Lane := if nbits ≤ 32 then none else some (BitVec.ofNat 32 (w / 2 ^ 32))
def placedColumn (nbits w : Nat) : Col :=
  firstColumn (placedWord w) (placedExt nbits w)
    (if nbits ≤ 32 then tableColumns else [.ct, .ce, .vx, .mx, .sq, .lk, .logit])

/-- Tile 0 runs, at a gang count and a CT cycle at which the word is eligible whatever its delay count, with the word at the head of its
column. -/
def Tile.withWord (t : Tile) (c : Col) (q : QWord) : Tile :=
  let x := t.col c
  let t := { t with run := true, cnt := Nat.max t.cnt (Nat.max (x.after + 7) x.busy), ct := { t.ct with clk := Nat.max t.ct.clk t.ct.busy } }
  t.setIq c (q :: t.iq c)

/-- The word of a column other than the logit words. -/
def State.placeWord (s : State) (c : Col) (q : QWord) : State :=
  { s.modTile 0 (·.withWord c q) with agenda := [.word ⟨0, c, q, false⟩] }

/-- The job, the translation and the program of a placed logit word: one live sequence of a Sluice draw with one lane on die 0, whose
program lies in the page at offset 0 of that die. -/
def placedJob : Job := newJob 0 0 0 none [0x1000, 0, 0, 0, 0, 0, 0, 0]
def placedLeaf : Tlb := ⟨0, 0, 0, 16, 0, 0x1000000100C5#64⟩
def State.placeLogit (s : State) (w : Lane) (e : Option Lane) : State :=
  let prog := s.pkg * 2 ^ 47
  let desc := leBytes 8 (2 ^ 32) ++ leBytes 8 prog ++ List.replicate 112 0
  let bytes := leBytes 4 w.toNat ++ leBytes 4 (match e with | some x => x.toNat | none => 0)
  let s := s.modDie 0 (fun x => { x with
    tlb := placedLeaf :: x.tlb, jobs := placedJob :: x.jobs, sluices := { Sluice.reset with running := true, desc := desc } :: x.sluices.tail })
  { s with mem := s.mem.store 0x10000 bytes, agenda := [.logit 0 0] }

/-- The placed instruction. -/
def State.placed (s : State) (nbits w : Nat) : State :=
  match placedColumn nbits w with
  | .logit => s.placeLogit (placedWord w) (placedExt nbits w)
  | c => s.placeWord c ⟨0, placedWord w, placedExt nbits w⟩

end Sys2Proof.Machine
end

