-- ==== Sys2Proof/Machine/Step.lean ====
section
/-! DEFINITION. One step of the machine: the next move of the present cycle; when none is left, the next thing the outside world does or
the next cycle; and the placing of an instruction as the next one to run. -/
namespace Sys2Proof.Machine

open Sys2Proof

/-- Make one move of the agenda, which it has left. -/
def perform (m : Move) (s : State) : Host.Outcome State Fault Refusal :=
  match m with
  | .ev i a => exec i { s with arg := a }
  | .word a => if s.wordStands a then exec (decode a.col a.q.word a.q.ext) { s with cur := a } else .next s
  | .engine n c => .next (s.engineMove n c)
  | .logit d e => match s.logitFetch d e with
    | .moved s => .next s
    | .word s i => exec i s

/-- THE STEP. When the agenda is empty, whether the outside world acts before the next cycle is a free choice (R437). -/
def step (s : State) : Host.Outcome State Fault Refusal :=
  match s.agenda with
  | m :: r => perform m { s with agenda := r }
  | [] => match s.inputs with
    | [] => .next s.tick
    | (i, a) :: r =>
      let s := { s with free := s.free + 1 }
      if Config.go (s.free - 1) then
        (if s.hears i then exec i { s with inputs := r, arg := a } else .next { s with inputs := r })
      else .next s.tick

/-- The state with an instruction stored where the step takes its next one from. -/
def State.withFetchWord (s : State) (nbits w : Nat) : State := s.placed nbits w

end Sys2Proof.Machine
end

