-- ==== Sys2Proof/Safety.lean ====
section
/-! DEFINITION. The terms that claims use: what a safe run of the machine is (every memory of the state keeps its canonical form, and
no step stops), when a word of a column issues, and what a step leaves unchanged. -/
namespace Sys2Proof.Machine

open Sys2Proof

/-- Every memory of the state is in its canonical form: physical memory, the memory of other packages, host memory, the pager image, and
the scratchpads of the tiles and of the saved contexts. -/
def State.memOk (s : State) : Bool :=
  s.mem.wf && s.far.wf && s.host.wf && s.pager.wf && s.tiles.all (fun t => t.2.st.spad.wf) && s.saved.all (fun t => t.2.st.spad.wf)

/-- A step is safe when it answers a next state. -/
def State.stepSafe (s : State) : Prop := ∃ t, step s = .next t

/-- The state after n steps, if none of them stops. -/
def State.after (s : State) (n : Nat) : Option State :=
  match n with
  | 0 => some s
  | n + 1 => match step s with
    | .next t => t.after n
    | _ => none

/-- A run of n steps is safe when none of them stops and the memories keep their form. -/
def State.runSafe (s : State) (n : Nat) : Prop := ∃ t, s.after n = some t ∧ t.memOk = true

/-! ### Frames -/

/-- Nothing of the state but one tile has changed: every memory, die, partition, gang, link and package register is as before, and so is
every other tile. -/
def OnlyTile (s t : State) (n : Nat) : Prop := { t with tiles := s.tiles } = s ∧ ∀ m, m ≠ n → t.tile m = s.tile m

/-- What a CT word that only reads and writes registers and queues leaves of its tile: the stores, MX, SQ, the engines, the identity, the
watch, the gang count, the data cache, and of CT everything but the g registers, the loop stack, the time of its next word, what a release of
the word waited for, which ends with it, and what the words of the handler have still to write. -/
def CtFrame (s t : State) : Prop :=
  let x := s.tile s.cur.tile
  let y := t.tile s.cur.tile
  OnlyTile s t s.cur.tile ∧
    y.st = x.st ∧ y.mx = x.mx ∧ y.sq = x.sq ∧ y.en = x.en ∧ y.id = x.id ∧ y.wa = x.wa ∧ y.cnt = x.cnt ∧ y.run = x.run ∧ y.cache = x.cache ∧ y.old = x.old ∧
    { y.ct with g := x.ct.g, gReady := x.ct.gReady, busy := x.ct.busy, prior := x.ct.prior, loops := x.ct.loops, loopStart := x.ct.loopStart, lands := x.ct.lands } = x.ct ∧
    y.fe.store = x.fe.store ∧ y.fe.cols = x.fe.cols ∧ y.fe.seqr = x.fe.seqr

/-- CT has moved on, and its next word may issue `hold` CT cycles later. A word that is the end word of no entry on top of the loop stack leaves the stack as it
is, but that the first word behind a `LOOP` is the start of its entry; it has left the queue, and fetch stands where it stood. The end word of the top
entry takes one from its count and leads back to the start of its entry, or, with the last count, ends the entry and is tested against the next
(R160, R312; `loopEnd`). -/
def CtMoved (s t : State) (hold : Nat) : Prop :=
  let x := s.tile s.cur.tile
  let y := t.tile s.cur.tile
  let e := loopEnd s.cur.q.addr (x.ct.entered s.cur.q.addr)
  y.ct.busy = x.ct.clk + hold ∧ y.ct.loops = e.1 ∧ y.ct.loopStart = false ∧
    (e.2 = none → y.iq .ct = (x.iq .ct).tail ∧ y.fe.pc = x.fe.pc ∧ y.fe.buf = x.fe.buf) ∧
    ∀ start, e.2 = some start → y.iq .ct = [] ∧ y.fe.pc = start ∧ y.fe.buf = [] ∧ y.fe.on = true

/-- What a synchronous word leaves: everything but its own tile, and of its tile CT, the stores, the engines, the identity, the watch, the
semaphores, the gang count, the instruction store, the fetch position and the data cache; its results stand among what is due. -/
def SyncFrame (s t : State) : Prop :=
  let x := s.tile s.cur.tile
  let y := t.tile s.cur.tile
  OnlyTile s t s.cur.tile ∧
    y.ct = x.ct ∧ y.st = x.st ∧ y.en = x.en ∧ y.id = x.id ∧ y.wa = x.wa ∧ y.cnt = x.cnt ∧ y.run = x.run ∧ y.cache = x.cache ∧ y.old = x.old ∧
    y.qs.sm = x.qs.sm ∧ y.qs.raises = x.qs.raises ∧ y.fe.store = x.fe.store ∧ y.fe.pc = x.fe.pc

/-- What a list of landings makes of what is due (R146, R147). -/
def landAll (l : List Pend) (due : List Pend) : List Pend := l.foldl (fun m p => insertPend p m) due

/-- A synchronous word has issued: its frame holds, its column goes on to the word behind after `hold` counts at the earliest and counts its
delay from here (R145), and exactly the landings of a list have become due. -/
def SyncDone (s t : State) (hold : Nat) (l : List Pend) : Prop :=
  let x := s.tile s.cur.tile
  let y := t.tile s.cur.tile
  SyncFrame s t ∧ y.col s.cur.col = ⟨x.cnt + 1, x.cnt + Nat.max 1 hold, .untested, none, []⟩ ∧
    (s.cur.body = false → y.iq s.cur.col = (x.iq s.cur.col).tail) ∧ y.pend = landAll l x.pend

/-- The landings of the tokens a word pushes at issue + n, each to be popped one count later (R149). -/
def tokLandings (x : Tile) (k : Needs) (n : Nat) : List Pend := k.outs.map (fun f => ⟨x.cnt + n + 1, 0, .token f⟩)

/-! ### When a word issues -/

/-- A CT word at the head of its queue issues (R141, R145, R294, R312): no trap of CT waits, CT is not busy, its registers, entries and room
are there, and the word does not lie beyond the end of the top loop. -/
def CtStarts (s : State) (k : Needs) : Prop :=
  let t := s.tile s.cur.tile
  t.faulted .ct = false ∧ t.ct.busy ≤ t.ct.clk ∧ t.has k = true ∧
    ∀ e r, t.ct.loops = e :: r → s.cur.q.addr ≤ e.last

/-- The gang count from which a column's next word is eligible (R145). -/
def Tile.eligibleAt (t : Tile) (c : Col) (dly : BitVec 3) : Nat := Nat.max ((t.col c).after + dly.toNat) (t.col c).busy

/-- A synchronous word issues in this cycle, with its effect on s' (R145, R153, R157): in a modulo body, unstamped, stamped with the present
count, or stamped and already decided. What a decided word holds is given back to it in s'. -/
def SyncStarts (s : State) (dly : BitVec 3) (stamp : Option Lane) (k : Needs) (s' : State) : Prop :=
  let t := s.tile s.cur.tile
  let x := t.col s.cur.col
  t.faulted s.cur.col = false ∧ x.ackKey = none ∧
    ((s.cur.body = true ∧ x.busy ≤ t.cnt ∧ t.has k = true ∧ (k.arrays = true → t.mx.gated = 0) ∧ s' = s) ∨
     (s.cur.body = false ∧ t.eligibleAt s.cur.col dly ≤ t.cnt ∧ stamp = none ∧ t.has k = true ∧ (k.arrays = true → t.mx.gated = 0) ∧ s' = s) ∨
     (s.cur.body = false ∧ t.eligibleAt s.cur.col dly ≤ t.cnt ∧ x.st = .untested ∧ t.stampOk k t.cnt = true ∧ s' = s ∧
        ∃ w, stamp = some w ∧ stampTarget (t.eligibleAt s.cur.col dly) w = some t.cnt) ∨
     (s.cur.body = false ∧ t.eligibleAt s.cur.col dly ≤ t.cnt ∧ stamp.isSome = true ∧
        ∃ lim, x.st = .issueAt lim ∧ lim ≤ t.cnt ∧ s' = s.modTile s.cur.tile (fun t => (t.unhold k).setCol s.cur.col { t.col s.cur.col with st := .untested })))

/-- The prior set of a release of CT (R176): the one the word already waits for, or the one it meets now. -/
def Tile.priorSet (t : Tile) (now : Nat) (mask : BitVec 4) : List Nat := match t.ct.prior with | some l => l | none => t.priorKeys now mask
/-- The state in which a release of CT knows its prior set, and has that performed? -/
def State.knows (s : State) (n : Nat) (mask : BitVec 4) : State :=
  s.modTile n (fun t => { t with ct := { t.ct with prior := some ((s.tile n).priorSet s.tm.pre mask) } })
def State.priorMet (s : State) (n : Nat) (mask : BitVec 4) : Bool := (s.tile n).priorDone ((s.tile n).priorSet s.tm.pre mask)

/-! ### Results of CT words -/

/-- An instruction completes from a state with a next state that has a property. -/
def Completes (i : Instr) (s : State) (p : State → Prop) : Prop := ∃ t, exec i s = .next t ∧ p t

/-- The g registers of the acting tile are as before but for one, which holds v; g0 stays 0 (R294). The queues and what is due are as
before. -/
def GResult (s t : State) (d : Nat) (v : Word) : Prop :=
  let x := s.tile s.cur.tile
  let y := t.tile s.cur.tile
  (∀ r, y.g r = if r = d ∧ r ≠ 0 then v else x.g r) ∧ y.qs = x.qs ∧ y.pend = x.pend ∧ y.ct.lands = x.ct.lands

/-- A CT word that leaves every g register, every queue and what is due as they were. -/
def GSame (s t : State) : Prop :=
  let x := s.tile s.cur.tile
  let y := t.tile s.cur.tile
  (∀ r, y.g r = x.g r) ∧ y.qs = x.qs ∧ y.pend = x.pend ∧ y.ct.lands = x.ct.lands

/-- One more landing has become due by a CT word, n counts after issue; a word of the handler, whose gang count stands, lands n cycles of CT after it. That
is the model's reading (log entry 56): R295 counts from the issue, and R152 stops the count. -/
def CtLands (x y : Tile) (n ord : Nat) (a : Act) : Prop :=
  y.pend = (if x.ct.handler then x.pend else insertPend ⟨x.cnt + n, ord, a⟩ x.pend) ∧
    y.ct.lands = if x.ct.handler then insertPend ⟨x.ct.clk + n, ord, a⟩ x.ct.lands else x.ct.lands

/-- The tile after a CR word has popped its sources, S1 before S2, and the two source values (R294). -/
def Tile.crPair (t : Tile) (o : CrOp) : Tile × Word × Word :=
  (((t.crSrc o.qs o.s.toNat).1.crSrc o.qt o.t.toNat).1, (t.crSrc o.qs o.s.toNat).2, ((t.crSrc o.qs o.s.toNat).1.crSrc o.qt o.t.toNat).2)

/-- The result of a CR word: g[D] := f(S1, S2), readable `lat` CT cycles after issue, or a push of it into qD that lands `lat` counts after
issue; nothing else is written (R294–R296). -/
def CrResult (o : CrOp) (lat : Nat) (f : Word → Word → Word) (s t : State) : Prop :=
  let x := s.tile s.cur.tile
  let y := t.tile s.cur.tile
  let v := f (x.crPair o).2.1 (x.crPair o).2.2
  (∀ r, y.g r = if o.qd = false ∧ r = o.d.toNat ∧ r ≠ 0 then v else x.g r) ∧
    (o.qd = false → o.d ≠ 0 → get 0 y.ct.gReady o.d.toNat = x.ct.clk + lat) ∧
    (∀ q, y.queue q = (x.crPair o).1.queue q) ∧
    (o.qd = true → CtLands x y lat (landOrd .ct) (.qpush o.d.toNat (wordRow v))) ∧ (o.qd = false → y.pend = x.pend ∧ y.ct.lands = x.ct.lands)

/-- A jump or a taken branch has been made: the words behind are gone from the queue, fetch stands at the target and will check its header,
loops that do not hold the target are left (R144, R160, R298, R299), and a link register holds its link. -/
def Jumped (s t : State) (target : Nat) (link : Option (Nat × Word)) : Prop :=
  let x := s.tile s.cur.tile
  let y := t.tile s.cur.tile
  OnlyTile s t s.cur.tile ∧ y.iq .ct = [] ∧ y.fe.pc = target ∧ y.fe.tgt = true ∧ y.fe.on = true ∧ y.ct.busy = x.ct.clk + 1 ∧
    y.ct.loops = unwind target (x.ct.entered s.cur.q.addr) ∧
    (∀ r, y.g r = match link with | some (d, v) => if r = d ∧ r ≠ 0 then v else x.g r | none => x.g r) ∧
    y.qs = x.qs ∧ y.pend = x.pend ∧ y.st = x.st ∧ y.mx = x.mx ∧ y.sq = x.sq ∧ y.en = x.en ∧ y.id = x.id ∧ y.wa = x.wa ∧ y.cnt = x.cnt ∧
    y.run = x.run ∧ y.cache = x.cache ∧ y.old = x.old

/-- A record has been handed to the record writer (R140) in a state that differs from s only in tiles that have stopped and gangs that are gone. -/
def Reported (s t : State) (r : FaultRec) : Prop := ∃ u : State, { u with tiles := s.tiles, gangs := s.gangs } = s ∧ t = u.writeRecord r

/-! ### Results of the synchronous words -/

/-- A read that comes due has what a column writes with it come due n counts later, computed from the tile as it then is. -/
def ReadLands (a : Act) (c : Col) (n : Nat) (v : Tile → Act) : Prop := ∀ t : Tile, t.landed a = t.after c n (v t)

/-- Where a row of LD lands: in a row register under a quarter mask, or in a queue with zeros in the masked quarters (R324). -/
def ldWrites (rn : BitVec 8) (m : BitVec 4) (v : Row) : Act :=
  match qName rn with
  | some q => .qpush q (keepQuarters m 0 v)
  | none => .rowKeep rn.toNat v m

/-- The read of an LD word, at issue + 1. -/
def ldReading (x : Tile) (d : LdDst) (xs : List Nat) : Pend := ⟨x.cnt + 1, 1, .ldRead d xs⟩

/-- The landing of an address register's step by c elements at issue + 1 (R322). -/
def aregLanding (x : Tile) (c : Col) (a n : Nat) : Pend := ⟨x.cnt + 1, landOrd c, .areg a (x.areg a + BitVec.ofNat 64 n)⟩

/-- A local form of LD is done: c elements have been taken from its pattern, and its landings are due (R321–R325). -/
def LdDone (s t : State) (k : Needs) (a c lat hold : Nat) (l : List Pend) : Prop :=
  let x := s.tile s.cur.tile
  let y := t.tile s.cur.tile
  SyncDone s t hold (l ++ [aregLanding x .ld a c] ++ tokLandings x k lat) ∧ y.mx = x.mx ∧ y.sq = x.sq ∧ y.queue = x.queue

/-- A local form of ST is done: the tile p is the one its source has been taken from, and its landings are due (R321–R325, R331). -/
def StDone (s t : State) (k : Needs) (p : Tile) (a c lat : Nat) (l : List Pend) : Prop :=
  let x := s.tile s.cur.tile
  let y := t.tile s.cur.tile
  SyncDone s t 1 (l ++ [aregLanding x .st a c] ++ tokLandings x k lat) ∧ y.mx = x.mx ∧ y.sq = x.sq ∧ y.queue = p.queue

/-- The destination of a VX result: a queue, or the row that the rotating window gives for its name (R148, R158, R346). -/
def vxLanding (x : Tile) (lat : Nat) (d : BitVec 8) (v : Row) : Pend :=
  ⟨x.cnt + lat, landOrd .vx, match qName d with | some q => .qpush q v | none => .row (x.vrow d.toNat) v⟩

/-- A VX word completes with landings f of its source rows, taken in the order of `srcs`, and of the random words of its lanes; the random
counter advances by 256 when the word uses it (R346–R349). -/
def VxCompletes (i : Instr) (o : VxOp) (srcs : List (BitVec 8)) (pushes : List Nat) (lat : Nat) (rng : Bool)
    (f : Tile → List Row → (Nat → Nat) → List Pend) (s : State) : Prop :=
  let k := syncNeeds .vx o.tok (srcPops srcs) pushes
  SyncStarts s o.tok.dly none k s → wellFormed i = true →
    let x := s.tile s.cur.tile
    let p := x.vxSrcs srcs
    Completes i s (fun t =>
      SyncDone s t 1 (f x p.2 (x.vxRand (get 0 s.key x.id.part)) ++ tokLandings x k lat) ∧
        (t.tile s.cur.tile).queue = p.1.queue ∧ (t.tile s.cur.tile).mx = x.mx ∧
        (t.tile s.cur.tile).sq = if rng then { x.sq with rng := wset x.sq.rng 0 32 (wfld x.sq.rng 0 32 + 256) } else x.sq)

/-- A VX word whose only result is the row or queue D. -/
def VxRowCompletes (i : Instr) (o : VxOp) (srcs : List (BitVec 8)) (lat : Nat) (g : List Row → (Nat → Nat) → Row) (s : State) : Prop :=
  VxCompletes i o srcs (srcPops [o.d]) lat (o.rnd == 4) (fun x rows u => [vxLanding x lat o.d (g rows u)]) s

/-- A word of MX or SQ has issued: what a synchronous word leaves holds, MX and SQ hold m and u, the queues are as before, and exactly the
landings of a list have become due, the tokens it pushes at issue + lat behind them. -/
def ArrDone (s t : State) (k : Needs) (lat hold : Nat) (m : Mx) (u : Sq) (l : List Pend) : Prop :=
  let x := s.tile s.cur.tile
  let y := t.tile s.cur.tile
  SyncDone s t hold (l ++ tokLandings x k lat) ∧ y.mx = m ∧ y.sq = u ∧ y.queue = x.queue

/-- A landing of a column, n counts after issue. -/
def Tile.due (x : Tile) (c : Col) (n : Nat) (a : Act) : Pend := ⟨x.cnt + n, landOrd c, a⟩

/-- The landings of rows from row register r on, and from a row of a Pound slot on. -/
def Tile.rowsDue (x : Tile) (n r : Nat) (rows : List Row) : List Pend :=
  (List.range rows.length).map (fun i => x.due .sq n (.row (r + i) (rows.getD i 0)))
def Tile.poundDue (x : Tile) (n slot row : Nat) (rows : List Row) : List Pend :=
  (List.range rows.length).map (fun i => x.due .sq n (.pound slot (row + i) (rows.getD i 0)))

/-- What a word that hands a command to an engine leaves: everything but its own tile, and of its tile CT, the stores, MX, SQ, the identity, the
watch, the gang count, the data cache, the instruction store and the fetch position; its queues are those of the tile p that its operands have been popped from. -/
def EngineFrame (s t : State) (p : Tile) : Prop :=
  let x := s.tile s.cur.tile
  let y := t.tile s.cur.tile
  OnlyTile s t s.cur.tile ∧ y.ct = x.ct ∧ y.st = x.st ∧ y.mx = x.mx ∧ y.sq = x.sq ∧ y.id = x.id ∧ y.wa = x.wa ∧ y.cnt = x.cnt ∧ y.run = x.run ∧
    y.cache = x.cache ∧ y.old = x.old ∧ y.fe.store = x.fe.store ∧ y.fe.pc = x.fe.pc ∧ y.queue = p.queue

/-- A range lies in a space: in virtual memory any, in a scratchpad one inside it (R335, R390). -/
def InSpace (space a n : Nat) : Prop := space = 0 ∨ (a < 0x200000 ∧ a + n ≤ 0x200000)

/-- An operation of the memory system has changed only memory and the memory of other packages, each kept in its canonical form, the dies, what is told to
Wharf and Redric (a request on a lane that is shut counts in its port, R65), the data caches of the tiles, and how many free values have been used. -/
structure MemOnly (s t : State) : Prop where
  rest : { t with tiles := s.tiles, dies := s.dies, mem := s.mem, far := s.far, notices := s.notices, laneErrors := s.laneErrors, free := s.free } = s
  mem : s.mem.wf = true → t.mem.wf = true
  far : s.far.wf = true → t.far.wf = true
  tiles : ∀ n, { t.tile n with cache := (s.tile n).cache } = s.tile n
  spads : s.tiles.all (fun t => t.2.st.spad.wf) = true → t.tiles.all (fun t => t.2.st.spad.wf) = true

end Sys2Proof.Machine
end

