-- ==== Sys2Proof/Certificates/Slice0/Obligations.lean ====
section
/-! DEFINITION. The statements for the provers, from the numbered rules of the spec: encodings, the step, and for every family of the opcode
table when an instruction completes, what it then has done, and what it leaves. -/

open Sys2Proof Sys2Proof.Machine

/-! ### CT -/

/-- R294–R296: every register-form ALU word that starts completes; g[D] := f(S1, S2) with the function of its row and the write latency of its
class (1, MUL and MULH 3, DIV, DIVU and REM 18), and nothing else changes. That a push of a word of the handler, whose gang count stands, lands that many cycles
of CT after the issue is the model's reading (log entry 56). -/
def Obligations.AluWordsComplete : Prop :=
  ∀ (s : State) (o : CrOp), CtStarts s (crNeeds o) → crWf o = true →
    let done := fun (i : Instr) (lat : Nat) (f : Word → Word → Word) => Completes i s (fun t => CtFrame s t ∧ CtMoved s t 1 ∧ CrResult o lat f s t)
    done (.add o) 1 (fun a b => a + b) ∧ done (.sub o) 1 (fun a b => a - b) ∧ done (.and o) 1 (fun a b => a &&& b) ∧
    done (.or o) 1 (fun a b => a ||| b) ∧ done (.xor o) 1 (fun a b => a ^^^ b) ∧
    done (.sll o) 1 (fun a b => a <<< (b.toNat % 64)) ∧ done (.srl o) 1 (fun a b => a >>> (b.toNat % 64)) ∧
    done (.sra o) 1 (fun a b => a.sshiftRight (b.toNat % 64)) ∧
    done (.slt o) 1 (fun a b => if a.toInt < b.toInt then 1 else 0) ∧ done (.sltu o) 1 (fun a b => if a.toNat < b.toNat then 1 else 0) ∧
    done (.seq o) 1 (fun a b => if a = b then 1 else 0) ∧
    done (.mul o) 3 (fun a b => a * b) ∧ done (.mulh o) 3 (fun a b => BitVec.ofInt 64 (a.toInt * b.toInt / 2 ^ 64)) ∧
    done (.div o) 18 (fun a b => if b = 0 then BitVec.allOnes 64 else BitVec.ofInt 64 (a.toInt.tdiv b.toInt)) ∧
    done (.divu o) 18 (fun a b => if b = 0 then BitVec.allOnes 64 else BitVec.ofNat 64 (a.toNat / b.toNat)) ∧
    done (.rem o) 18 (fun a b => if b = 0 then a else BitVec.ofInt 64 (a.toInt.tmod b.toInt)) ∧
    done (.min o) 1 (fun a b => if b.toInt < a.toInt then b else a) ∧ done (.max o) 1 (fun a b => if a.toInt < b.toInt then b else a)

/-- R297: every immediate word that starts completes with the value of its row in g[D], and changes nothing else. -/
def Obligations.ImmediateWordsComplete : Prop :=
  (∀ (s : State) (o : CiOp), CtStarts s (gNeeds [o.s.toNat] [o.d.toNat]) →
    let a := (s.tile s.cur.tile).g o.s.toNat
    let done := fun (i : Instr) (v : Word) => Completes i s (fun t => CtFrame s t ∧ CtMoved s t 1 ∧ GResult s t o.d.toNat v)
    done (.addi o) (a + o.imm.signExtend 64) ∧ done (.andi o) (a &&& o.imm.setWidth 64) ∧ done (.ori o) (a ||| o.imm.setWidth 64) ∧
    done (.xori o) (a ^^^ o.imm.setWidth 64) ∧ done (.slti o) (if a.toInt < (o.imm.signExtend 64 : Word).toInt then 1 else 0)) ∧
  (∀ (s : State) (o : ShOp), CtStarts s (gNeeds [o.s.toNat] [o.d.toNat]) →
    let a := (s.tile s.cur.tile).g o.s.toNat
    let done := fun (i : Instr) (v : Word) => Completes i s (fun t => CtFrame s t ∧ CtMoved s t 1 ∧ GResult s t o.d.toNat v)
    done (.slli o) (a <<< o.k.toNat) ∧ done (.srli o) (a >>> o.k.toNat) ∧ done (.srai o) (a.sshiftRight o.k.toNat)) ∧
  (∀ (s : State) (d : BitVec 5) (imm : BitVec 21) (ext : Lane), CtStarts s (gNeeds [0] [d.toNat]) →
    let done := fun (i : Instr) (v : Word) => Completes i s (fun t => CtFrame s t ∧ CtMoved s t 1 ∧ GResult s t d.toNat v)
    done (.ldi d imm) (imm.signExtend 64) ∧ done (.ldiLong d imm ext) ((ext ++ imm : BitVec 53).signExtend 64)) ∧
  (∀ (s : State) (d : BitVec 5) (sh : BitVec 2) (imm : BitVec 16), CtStarts s (gNeeds [d.toNat] [d.toNat]) →
    Completes (.orhi d sh imm) s (fun t => CtFrame s t ∧ CtMoved s t 1 ∧
      GResult s t d.toNat ((s.tile s.cur.tile).g d.toNat ||| (imm.setWidth 64 <<< (16 * sh.toNat)))))

/-- R298: a branch that starts and whose condition holds goes to the address of its own word plus 4 · OFF; otherwise CT goes on to the word
behind. In the handler a target outside the locked region is the ILLINSN trap at the branch (R301). -/
def Obligations.BranchesComplete : Prop :=
  ∀ (s : State) (o : CbOp), CtStarts s (gNeeds [o.a.toNat, o.b.toNat] []) →
    let x := s.tile s.cur.tile
    let a := x.g o.a.toNat
    let b := x.g o.b.toNat
    let target := (BitVec.ofNat 64 s.cur.q.addr + (o.off.signExtend 64 <<< 2)).toNat
    let outside := x.ct.handler = true ∧ 0x2000 ≤ target
    let done := fun (i : Instr) (c : Prop) =>
      (c → ¬outside → Completes i s (fun t => Jumped s t target none)) ∧
      (c → outside → exec i s = .next (s.trapAt s.cur.tile .ct tILLINSN s.cur.q.addr 0)) ∧
      (¬c → Completes i s (fun t => CtFrame s t ∧ CtMoved s t 1 ∧ GSame s t))
    done (.beq o) (a = b) ∧ done (.bne o) (a ≠ b) ∧ done (.blt o) (a.toInt < b.toInt) ∧ done (.bge o) (b.toInt ≤ a.toInt) ∧
    done (.bltu o) (a.toNat < b.toNat) ∧ done (.bgeu o) (b.toNat ≤ a.toNat)

/-- R299: `JAL` goes to its own address plus 4 · OFF and `JALR` to g[S] + IMM, each with the address of lane 1 of the line behind in g[D];
a `JALR` target that is not a multiple of 4, and in the handler a target outside the locked region (R301), is the ILLINSN trap at the jump and writes no g
register. -/
def Obligations.JumpsComplete : Prop :=
  (∀ (s : State) (d : BitVec 5) (off : BitVec 21), CtStarts s (gNeeds [] [d.toNat]) →
    let target := (BitVec.ofNat 64 s.cur.q.addr + (off.signExtend 64 <<< 2)).toNat
    let outside := (s.tile s.cur.tile).ct.handler = true ∧ 0x2000 ≤ target
    (¬outside → Completes (.jal d off) s (fun t => Jumped s t target (some (d.toNat, BitVec.ofNat 64 (s.cur.q.addr / 32 * 32 + 36))))) ∧
    (outside → exec (.jal d off) s = .next (s.trapAt s.cur.tile .ct tILLINSN s.cur.q.addr 0))) ∧
  (∀ (s : State) (o : CiOp), CtStarts s (gNeeds [o.s.toNat] [o.d.toNat]) →
    let target := ((s.tile s.cur.tile).g o.s.toNat + o.imm.signExtend 64).toNat
    let outside := (s.tile s.cur.tile).ct.handler = true ∧ 0x2000 ≤ target
    (target % 4 = 0 → ¬outside →
      Completes (.jalr o) s (fun t => Jumped s t target (some (o.d.toNat, BitVec.ofNat 64 (s.cur.q.addr / 32 * 32 + 36))))) ∧
    (target % 4 ≠ 0 ∨ outside → exec (.jalr o) s = .next (s.trapAt s.cur.tile .ct tILLINSN s.cur.q.addr 0)))

/-- R166, R180, R302: `LDS` and `STS` of n = 2^SZ bytes at g[B] + OFF. An address that is no multiple of n is the ILLINSN trap. A read that the data cache
serves, with no store over its bytes that waits, gives the cached bytes 3 cycles after issue, extended as SX says, and changes nothing else; one that goes to the
slice gives the bytes the access returns, on the state it leaves, no earlier than that; one that faults is the TRANSLATION trap, and one that must wait leaves the
state as the access does. A store that stays in the cache leaves in it the low n bytes of g[V]; where the cache has room for its line, every other byte of it and
all other state stay as they were; one that goes to the coherence point (a page with ATTR = 2, R171) writes those bytes there, with what the cache held of them
written back before. All of this holds in the handler too, but for the 32 bytes of the mailbox window (R166), which are the tile's slot of its die's
pager mailbox: `LDS` gives its bytes and acquires, and `STS` waits for its prior set, releases, and leaves its bytes there (R180). That a read which the cache does
not serve takes a free number of further cycles is the model's form of what R295 leaves open; that a word waits while a slice holds dirty bytes that it must write
back is R87 and R90. -/
def Obligations.ScalarMemoryCompletes : Prop :=
  (∀ (s : State) (o : LdsOp), CtStarts s (gNeeds [o.b.toNat] [o.v.toNat]) → wellFormed (.lds o) = true →
    let n := s.cur.tile
    let x := s.tile n
    let len := 2 ^ o.sz.toNat
    let a := (x.g o.b.toNat + o.off.signExtend 64).toNat
    let val := fun (bs : List Byte) => if o.sx then sext (8 * len) (leNat bs) else BitVec.ofNat 64 (leNat bs)
    let mail := x.ct.handler = true ∧ inMailbox a = true
    (a % len ≠ 0 → exec (.lds o) s = .next (s.trapAt n .ct tILLINSN s.cur.q.addr 0)) ∧
    (a % len = 0 → ¬mail → x.storeWaits a len = false → x.hits a len = true →
      Completes (.lds o) s (fun t => CtFrame s t ∧ CtMoved s t 1 ∧ GResult s t o.v.toNat (val ((List.range len).map (fun i => x.cacheByte (a + i)))) ∧
        (o.v ≠ 0 → get 0 (t.tile n).ct.gReady o.v.toNat = x.ct.clk + 3))) ∧
    (∀ s' bs, a % len = 0 → ¬mail → s.tileRead n a len false = (s', .ok (bs, false)) →
      Completes (.lds o) s (fun t => CtFrame { s' with free := s'.free + 1 } t ∧ CtMoved { s' with free := s'.free + 1 } t 1 ∧
        GResult { s' with free := s'.free + 1 } t o.v.toNat (val bs) ∧ (o.v ≠ 0 → x.ct.clk + 3 ≤ get 0 (t.tile n).ct.gReady o.v.toNat))) ∧
    (∀ s' e, a % len = 0 → ¬mail → s.tileRead n a len false = (s', .fault e) → exec (.lds o) s = .next (s'.trapXlat n 1 s'.cur.q.addr a 0 e false)) ∧
    (∀ s', a % len = 0 → ¬mail → s.tileRead n a len false = (s', .wait) → exec (.lds o) s = .next s') ∧
    (a % len = 0 → mail → (s.acquireCache n 0xF 4).cacheHeld n 0xF 4 = false →
      Completes (.lds o) s (fun t => (t.tile n).g o.v.toNat = (if o.v = 0 then 0 else val (((s.slotBytes n).drop (a % 32)).take len)) ∧
        (t.tile n).cache = [] ∧ (t.tile n).qs = x.qs ∧ (t.tile n).pend = x.pend ∧ (t.tile n).st = x.st)) ∧
    (a % len = 0 → mail → (s.acquireCache n 0xF 4).cacheHeld n 0xF 4 = true → exec (.lds o) s = .next (s.acquireCache n 0xF 4))) ∧
  (∀ (s : State) (o : StsOp), CtStarts s (gNeeds [o.b.toNat, o.v.toNat] []) →
    let n := s.cur.tile
    let x := s.tile n
    let len := 2 ^ o.sz.toNat
    let a := (x.g o.b.toNat + o.off.signExtend 64).toNat
    let bytes := leBytes len (x.g o.v.toNat).toNat
    let mail := x.ct.handler = true ∧ inMailbox a = true
    (a % len ≠ 0 → exec (.sts o) s = .next (s.trapAt n .ct tILLINSN s.cur.q.addr 0)) ∧
    (∀ s' r w via, a % len = 0 → ¬mail → s.storeCheck n a len false noneWhole = (s', .ok (.cached r w via)) →
      (s'.roomWaits n a len = true → exec (.sts o) s = .next s') ∧
      (s'.roomWaits n a len = false → Completes (.sts o) s (fun t => GSame s t ∧ (t.tile n).st = x.st ∧
        (∀ i, i < len → (t.tile n).cacheByte (a + i) = BitVec.ofNat 8 ((x.g o.v.toNat).toNat / 256 ^ i)) ∧
        (s'.cacheRoom n (a / 32 * 32) a len = s' → OnlyTile s' t n ∧ ∀ c, c < a ∨ a + len ≤ c → (t.tile n).cacheByte c = (s'.tile n).cacheByte c)))) ∧
    (∀ s' pa attr, a % len = 0 → ¬mail → s.storeCheck n a len false noneWhole = (s', .ok (.direct pa attr)) →
      Completes (.sts o) s (fun t => t = ((s'.flushRange n a len).writeAt x.id.part a pa attr (bytes.map some)).ctNext 1 ∧ GSame s t ∧ (t.tile n).st = x.st)) ∧
    (∀ s', a % len = 0 → ¬mail → s.storeCheck n a len false noneWhole = (s', .wait) → exec (.sts o) s = .next s') ∧
    (∀ s' e, a % len = 0 → ¬mail → s.storeCheck n a len false noneWhole = (s', .fault e) →
      exec (.sts o) s = .next (s'.trapXlat n 1 s'.cur.q.addr a 1 e false)) ∧
    (a % len = 0 → mail → s.priorMet n 0xF = false → exec (.sts o) s = .next (s.knows n 0xF)) ∧
    (a % len = 0 → mail → s.priorMet n 0xF = true →
      let u := (s.knows n 0xF).releaseCache n 0xF 4
      (u.cacheHeld n 0xF 4 = true → exec (.sts o) s = .next u) ∧
      (u.cacheHeld n 0xF 4 = false → Completes (.sts o) s (fun t => ((t.slotBytes n).drop (a % 32)).take len = bytes ∧
        (x.wa.health.cut = false → ∀ e ∈ (t.tile n).cache, e.2.dirty = 0)))))

/-- R190, R191, R303, R304: `FENCE` with an empty mask does nothing; with one it waits until its prior set has performed, and then acquires, and at a
scope beyond the tile with class 0 or 1 in its mask no sector of the data cache is left; it waits while a slice holds dirty bytes of the cache (R87, R90). `CMO` of
no bytes does nothing; over a range that wraps or is not canonical it is the TRANSLATION trap with NONCANON; otherwise, when no slice holds dirty bytes of its
range, its maintenance is done, and one that drops leaves no cached sector of the range. -/
def Obligations.OrderingWordsComplete : Prop :=
  (∀ (s : State) (mask : BitVec 4) (scope : BitVec 3), CtStarts s Needs.none → scopeOk scope = true →
    let n := s.cur.tile
    let u := (s.knows n mask).acquireCache n mask scope.toNat
    (mask = 0 → Completes (.fence mask scope) s (fun t => CtFrame s t ∧ CtMoved s t 1 ∧ GSame s t)) ∧
    (mask ≠ 0 → s.priorMet n mask = false → exec (.fence mask scope) s = .next (s.knows n mask)) ∧
    (mask ≠ 0 → s.priorMet n mask = true → u.cacheHeld n mask scope.toNat = true → exec (.fence mask scope) s = .next u) ∧
    (mask ≠ 0 → s.priorMet n mask = true → u.cacheHeld n mask scope.toNat = false →
      Completes (.fence mask scope) s (fun t => t = u.ctNext 1 ∧ (touchesCache mask scope.toNat = true → (t.tile n).cache = [])))) ∧
  (∀ (s : State) (opc lvl : BitVec 2) (a n : BitVec 5), CtStarts s (gNeeds [a.toNat, n.toNat] []) → opc ≠ 3 →
    let k := s.cur.tile
    let x := ((s.tile k).g a.toNat).toNat
    let len := ((s.tile k).g n.toNat).toNat
    (len = 0 → Completes (.cmo opc lvl a n) s (fun t => CtFrame s t ∧ CtMoved s t 1 ∧ GSame s t)) ∧
    (0 < len → 2 ^ 57 ≤ x + len - 1 → exec (.cmo opc lvl a n) s = .next (s.trapXlat k 1 s.cur.q.addr x 0 ⟨1, 0⟩ false)) ∧
    (0 < len → x + len - 1 < 2 ^ 57 → s.maintainWaits k x len opc.toNat = true →
      exec (.cmo opc lvl a n) s = .next (s.cleanCache k (fun c => overlaps x len (c / 128)))) ∧
    (0 < len → x + len - 1 < 2 ^ 57 → s.maintainWaits k x len opc.toNat = false →
      Completes (.cmo opc lvl a n) s (fun t => t = (s.maintain k x len opc.toNat lvl.toNat).ctNext 1 ∧
        (opc ≠ 0 → ∀ e ∈ (t.tile k).cache, overlaps x len (32 * e.1 / 128) = false))))

/-- R305: `SEMW` completes when the count has reached the low half of g[S1], and acquires; `SEMR` gives the count; `SEMS` lands its addend at
issue + 1 once its prior set has performed, with its release first. Each waits while a slice holds dirty bytes of the cache that it must write back (R87, R90).
That the addend of a word of the handler, whose gang count stands, lands one cycle of CT after it is the model's reading (log entry 56). -/
def Obligations.SemaphoreWordsComplete : Prop :=
  (∀ (s : State) (o : SemOp), CtStarts s (gNeeds [o.s.toNat] []) → scopeOk o.scope = true →
    let n := s.cur.tile
    let x := s.tile n
    let u := s.acquireCache n o.mask o.scope.toNat
    let v := (s.knows n o.mask).releaseCache n o.mask o.scope.toNat
    let reached := (x.g o.s.toNat).toNat % 2 ^ 32 ≤ (x.sem o.sm.toNat).toNat
    (reached → u.cacheHeld n o.mask o.scope.toNat = false → Completes (.semw o) s (fun t => t = u.ctNext 1 ∧ ∀ k, (t.tile n).sem k = x.sem k)) ∧
    (reached → u.cacheHeld n o.mask o.scope.toNat = true → exec (.semw o) s = .next u) ∧
    (¬reached → exec (.semw o) s = .next s) ∧
    (s.priorMet n o.mask = false → exec (.sems o) s = .next (s.knows n o.mask)) ∧
    (s.priorMet n o.mask = true → v.cacheHeld n o.mask o.scope.toNat = true → exec (.sems o) s = .next v) ∧
    (s.priorMet n o.mask = true → v.cacheHeld n o.mask o.scope.toNat = false → Completes (.sems o) s (fun t =>
      CtLands x (t.tile n) 1 (landOrd .ct) (.raise o.sm.toNat (x.g o.s.toNat)) ∧
      (∀ r, (t.tile n).g r = x.g r) ∧ (t.tile n).qs = x.qs ∧ (t.tile n).st = x.st ∧ ∀ m, m ≠ n → { t.tile m with cache := (s.tile m).cache } = s.tile m))) ∧
  (∀ (s : State) (d : BitVec 5) (sm : BitVec 6), CtStarts s (gNeeds [] [d.toNat]) →
    Completes (.semr d sm) s (fun t => CtFrame s t ∧ CtMoved s t 1 ∧ GResult s t d.toNat (((s.tile s.cur.tile).sem sm.toNat).setWidth 64)))

/-- R306, R307: `WFE` takes the set latch and clears it; `SEV` sets the latch of every tile of the gang, or of its own tile outside a gang; a `GBAR`
in a gang of one is a `FENCE` at gang scope, the first of a larger gang's rank arrives with its release, and once the barrier has been completed it
acquires and goes on; each waits while a slice holds dirty bytes of the cache that it must write back (R87, R90). That the latches are set in the step of `SEV`
itself is the model's choice (log entry 118): R306 bounds the delay and does not fix it. -/
def Obligations.EventWordsComplete : Prop :=
  (∀ s : State, CtStarts s Needs.none → (s.tile s.cur.tile).ct.latch = true →
    Completes .wfe s (fun t => (t.tile s.cur.tile).ct.latch = false ∧ OnlyTile s t s.cur.tile ∧ GSame s t)) ∧
  (∀ s : State, CtStarts s Needs.none →
    Completes .sev s (fun t => (t.tile s.cur.tile).ct.latch = true ∧ ∀ g, s.gangOf s.cur.tile = some g → ∀ n ∈ g.tiles, (t.tile n).ct.latch = true)) ∧
  (∀ (s : State) (mask : BitVec 4) (g : Gang), CtStarts s Needs.none → (s.tile s.cur.tile).service = true → s.gangOf s.cur.tile = some g →
    let n := s.cur.tile
    let x := s.tile n
    let u := s.acquireCache n mask 1
    let v := (s.knows n mask).releaseCache n mask 1
    let w := (s.knows n mask).acquireCache n mask 1
    (g.log2 = 0 → mask = 0 → Completes (.gbar mask) s (fun t => t = s.ctNext 1)) ∧
    (g.log2 = 0 → mask ≠ 0 → s.priorMet n mask = true → w.cacheHeld n mask 1 = false → Completes (.gbar mask) s (fun t => t = w.ctNext 1)) ∧
    (g.log2 ≠ 0 → x.ct.released = true → u.cacheHeld n mask 1 = false →
      Completes (.gbar mask) s (fun t => (t.tile n).ct.joined = false ∧ (t.tile n).ct.released = false ∧
        (touchesCache mask 1 = true → (t.tile n).cache = []))) ∧
    (g.log2 ≠ 0 → x.ct.released = true → u.cacheHeld n mask 1 = true → exec (.gbar mask) s = .next u) ∧
    (g.log2 ≠ 0 → x.ct.released = false → x.ct.joined = false → v.cacheHeld n mask 1 = false →
      Completes (.gbar mask) s (fun t => (t.tile n).ct.joined = true ∧
        (t.tile n).ct.barPrior = x.priorSet s.tm.pre mask ∧ (t.tile n).iq .ct = x.iq .ct ∧
        ∃ h ∈ t.gangs, h.base = g.base ∧ h.arrived = g.arrived ++ [n - g.base] ∧ h.lastArrival = x.cnt)) ∧
    (g.log2 ≠ 0 → x.ct.released = false → x.ct.joined = false → v.cacheHeld n mask 1 = true → exec (.gbar mask) s = .next v))

/-- R108, R131, R139, R308, R309: with PROG = 0 `MARK` writes no memory, records its value for its rank and as the last mark, and restarts its queue's
watchdog; with PROG ≠ 0 it also stores the value there with system scope. `DONE` on a drained tile cleans and drops its data cache; with the last rank the
gang is gone, its tiles are idle, and its join, when it names one, waits to be decremented. Both wait while a slice holds dirty bytes of the cache (R87, R90). -/
def Obligations.ProgressWordsComplete : Prop :=
  (∀ (s : State) (r : BitVec 5) (g : Gang), CtStarts s (gNeeds [r.toNat] []) → (s.tile s.cur.tile).service = true → s.gangOf s.cur.tile = some g →
    let n := s.cur.tile
    let x := s.tile n
    let v := x.g r.toNat
    (x.id.prog = 0 → Completes (.mark r) s (fun t => t.mem = s.mem ∧ GSame s t ∧
      (∃ h ∈ t.gangs, h.base = g.base ∧ get 0 h.marks (n - g.base) = v ∧ h.lastMark = v) ∧
      (get Queue.reset (t.part g.part).queues g.queue).dog = 0)) ∧
    (∀ s' pa attr rd wr, x.id.prog ≠ 0 → s.priorMet n 0xF = true → s.cutOff (dieOf n) x.id.prog.toNat = false →
      (s.knows n 0xF).check x.id.part x.id.prog.toNat 8 .wr noneWhole = (s', .ok pa attr rd wr) →
      let u := (s'.markWrite x.id.part x.id.prog.toNat).releaseCache n 0xF 4
      (u.cacheHeld n 0xF 4 = true → exec (.mark r) s = .next u) ∧
      (u.cacheHeld n 0xF 4 = false → exec (.mark r) s = .next ((((u.flushRange n x.id.prog.toNat 8).writeAt x.id.part x.id.prog.toNat pa attr
        ((leBytes 8 v.toNat).map some)).recordMark n v).ctNext 1)))) ∧
  (∀ (s : State) (g : Gang), CtStarts s Needs.none → (s.tile s.cur.tile).service = true → s.gangOf s.cur.tile = some g → (s.tile s.cur.tile).drained = true →
    let n := s.cur.tile
    let held := (s.flushCache n).backHeld n (fun _ => true)
    (held = true → exec .done s = .next (s.flushCache n)) ∧
    (held = false → g.done.length + 1 = 2 ^ g.log2 → Completes .done s (fun t =>
      (∀ h ∈ t.gangs, h.base = g.base → h.onTiles = false) ∧ (∀ k ∈ g.tiles, (t.tile k).run = false ∧ (t.tile k).id.active = false) ∧
      t.joins = if g.word 2 = 0 then s.joins else s.joins ++ [g])) ∧
    (held = false → g.done.length + 1 ≠ 2 ^ g.log2 → Completes .done s (fun t => (t.tile n).id.ended = true ∧ (t.tile n).cache = [] ∧ (t.tile n).fe.on = false ∧
      ∃ h ∈ t.gangs, h.base = g.base ∧ h.done = g.done ++ [n - g.base])))

/-- R157, R160, R310–R312: `MLOOP` starts the modulo sequencer on the next B lines with its count, its interval and its stages, from g[S1] or from
the pending count, which it takes; bad parameters, a count of more than 32 bits and no pending count are the LOOP trap. `MLCB` takes the named count of a
block whose flag is not 0. `LOOP` with a count pushes an entry, and with 0 goes on behind its end word; a fifth entry is the LOOP trap. `UNLOOP` pops,
and on an empty stack is the LOOP trap. The last clauses say what the end word of the top entry does to the loop stack: with a count above 1 it takes one from
the count and leads back to the start of the entry; with the last count the entry ends and the next one is tested; any other word leaves the stack. The word
behind a `LOOP` is the start of its entry. -/
def Obligations.LoopWordsComplete : Prop :=
  (∀ (s : State) (b : BitVec 6) (ii : BitVec 7) (sc r : BitVec 5), CtStarts s (gNeeds [r.toNat] []) → (s.tile s.cur.tile).service = true →
    let x := s.tile s.cur.tile
    (mloopOk b.toNat ii.toNat sc.toNat = true → (x.g r.toNat).toNat < 2 ^ 32 → x.fe.seqr.run = false →
      Completes (.mloop b ii sc r) s (fun t => OnlyTile s t s.cur.tile ∧ GSame s t ∧ let q := (t.tile s.cur.tile).fe.seqr
        q.run = true ∧ q.mloop = s.cur.q.addr ∧ q.lines = b.toNat ∧ q.ii = ii.toNat ∧ q.sc = sc.toNat ∧ q.n = (x.g r.toNat).toNat ∧ q.body = [] ∧
        q.lcbValid = x.fe.seqr.lcbValid)) ∧
    ((mloopOk b.toNat ii.toNat sc.toNat = false ∨ 2 ^ 32 ≤ (x.g r.toNat).toNat) →
      exec (.mloop b ii sc r) s = .next (s.trapAt s.cur.tile .ct tLOOP s.cur.q.addr 0))) ∧
  (∀ (s : State) (b : BitVec 6) (ii : BitVec 7) (sc : BitVec 5), CtStarts s Needs.none → (s.tile s.cur.tile).service = true →
    let x := s.tile s.cur.tile
    (mloopOk b.toNat ii.toNat sc.toNat = true → x.fe.seqr.lcbValid = true → x.fe.seqr.run = false →
      Completes (.mloopLcb b ii sc) s (fun t => let q := (t.tile s.cur.tile).fe.seqr
        q.run = true ∧ q.lines = b.toNat ∧ q.ii = ii.toNat ∧ q.sc = sc.toNat ∧ q.n = x.fe.seqr.lcb.toNat ∧ q.lcbValid = false)) ∧
    (x.fe.seqr.lcbValid = false → exec (.mloopLcb b ii sc) s = .next (s.trapAt s.cur.tile .ct tLOOP s.cur.q.addr 0))) ∧
  (∀ (s : State) (idx : BitVec 3) (a : BitVec 5), CtStarts s (gNeeds [a.toNat] []) → (s.tile s.cur.tile).service = true → idx ≠ 0 →
    let n := s.cur.tile
    let x := ((s.tile n).g a.toNat).toNat
    (x % 64 ≠ 0 → exec (.mlcb idx a) s = .next (s.trapAt n .ct tILLINSN s.cur.q.addr 0)) ∧
    (∀ s1 s2 fl c h1 h2, x % 64 = 0 → s.tileRead n x 8 true = (s1, .ok (fl, h1)) → leNat fl ≠ 0 →
      (s1.acquireCache n 0x1 4).cacheHeld n 0x1 4 = false → (s1.acquireCache n 0x1 4).tileRead n (x + 8 * idx.toNat) 8 false = (s2, .ok (c, h2)) → leNat c < 2 ^ 32 →
      Completes (.mlcb idx a) s (fun t => (t.tile n).fe.seqr.lcb = BitVec.ofNat 32 (leNat c) ∧ (t.tile n).fe.seqr.lcbValid = true))) ∧
  (∀ (s : State) (r : BitVec 5) (e : BitVec 11), CtStarts s (gNeeds [r.toNat] []) → (s.tile s.cur.tile).maintenance = true → e ≠ 0 →
    let n := s.cur.tile
    let x := s.tile n
    let last := s.cur.q.addr + 4 * e.toNat
    (x.g r.toNat ≠ 0 → x.ct.loops.length < 4 →
      Completes (.loop r e) s (fun t => (t.tile n).ct.loops = ⟨0, last, (x.g r.toNat).toNat⟩ :: (loopEnd s.cur.q.addr (x.ct.entered s.cur.q.addr)).1 ∧
        (t.tile n).ct.loopStart = true ∧ GSame s t)) ∧
    (x.g r.toNat ≠ 0 → x.ct.loops.length = 4 → exec (.loop r e) s = .next (s.trapAt n .ct tLOOP s.cur.q.addr 0)) ∧
    (x.g r.toNat = 0 → Completes (.loop r e) s (fun t => (t.tile n).fe.pc = last + 4 ∧ (t.tile n).iq .ct = []))) ∧
  (∀ (s : State), CtStarts s Needs.none → (s.tile s.cur.tile).maintenance = true →
    let x := s.tile s.cur.tile
    (x.ct.loops = [] → exec .unloop s = .next (s.trapAt s.cur.tile .ct tLOOP s.cur.q.addr 0)) ∧
    (∀ e l, x.ct.loops = e :: l → Completes .unloop s (fun t => OnlyTile s t s.cur.tile ∧ GSame s t ∧
      let y := t.tile s.cur.tile
      y.ct.loops = (loopEnd s.cur.q.addr l).1 ∧ y.ct.loopStart = false ∧
      ((loopEnd s.cur.q.addr l).2 = none → y.iq .ct = (x.iq .ct).tail ∧ y.fe.pc = x.fe.pc) ∧
      ∀ start, (loopEnd s.cur.q.addr l).2 = some start → y.iq .ct = [] ∧ y.fe.pc = start))) ∧
  (∀ (a : Nat) (e : LoopEnt) (l : List LoopEnt), loopEnd a [] = ([], none) ∧ (e.last ≠ a → loopEnd a (e :: l) = (e :: l, none)) ∧
    (e.last = a → 1 < e.count → loopEnd a (e :: l) = ({ e with count := e.count - 1 } :: l, some e.first)) ∧
    (e.last = a → e.count ≤ 1 → loopEnd a (e :: l) = loopEnd a l)) ∧
  (∀ (c : Ct) (a : Nat) (e : LoopEnt) (l : List LoopEnt), (c.loopStart = false → c.entered a = c.loops) ∧
    (c.loopStart = true → c.loops = e :: l → c.entered a = { e with first := a } :: l))

/-- R19, R124, R271, R313–R316: `RDID`, `SRR` and `RDSTAMP` give the value of their register; `SRW` lands its value at issue + 1, and a read-only
register or a reserved value is the ILLSYSW trap; `MOVA` lands its value in the named address register or pattern field at issue + 1.
That the write of a word of the handler, whose gang count stands, lands one cycle of CT after it is the model's reading (log entry 56). -/
def Obligations.RegisterWordsComplete : Prop :=
  (∀ (s : State) (d : BitVec 5) (sel : BitVec 4), CtStarts s (gNeeds [] [d.toNat]) → sel.toNat < 7 →
    let n := s.cur.tile
    let x := s.tile n
    let v : Word := if sel = 0 then BitVec.ofNat 64 (n % 128) else if sel = 1 then BitVec.ofNat 64 x.id.rank else if sel = 2 then BitVec.ofNat 64 x.id.gsize
      else if sel = 3 then BitVec.ofNat 64 (n / 128) else if sel = 4 then BitVec.ofNat 64 s.pkg else if sel = 5 then BitVec.ofNat 64 x.id.part else x.id.barge
    Completes (.rdid d sel) s (fun t => CtFrame s t ∧ CtMoved s t 1 ∧ GResult s t d.toNat v)) ∧
  (∀ (s : State) (d : BitVec 5) (y : BitVec 12), CtStarts s (gNeeds [] [d.toNat]) → sysKnown y = true →
    Completes (.srr d y) s (fun t => CtFrame s t ∧ CtMoved s t 1 ∧ GResult s t d.toNat ((s.tile s.cur.tile).sysRead y.toNat))) ∧
  (∀ (s : State) (d : BitVec 5), CtStarts s (gNeeds [] [d.toNat]) →
    Completes (.rdstamp d) s (fun t => CtFrame s t ∧ CtMoved s t 1 ∧ GResult s t d.toNat (BitVec.ofNat 64 s.stamp))) ∧
  (∀ (s : State) (r : BitVec 5) (y : BitVec 12), CtStarts s (gNeeds [r.toNat] []) → sysKnown y = true →
    let x := s.tile s.cur.tile
    let v := x.g r.toNat
    (sysWritable y.toNat v = false → exec (.srw r y) s = .next (s.trapAt s.cur.tile .ct tILLSYSW s.cur.q.addr 0)) ∧
    (sysWritable y.toNat v = true → Completes (.srw r y) s (fun t => CtFrame s t ∧ CtMoved s t 1 ∧ (∀ k, (t.tile s.cur.tile).g k = x.g k) ∧
      (t.tile s.cur.tile).qs = x.qs ∧ CtLands x (t.tile s.cur.tile) 1 (landOrd .ct) (.sys y.toNat v)))) ∧
  (∀ (s : State) (tgt : BitVec 7) (r : BitVec 5), CtStarts s (gNeeds [r.toNat] []) → tgt.toNat < 88 →
    let x := s.tile s.cur.tile
    let v := x.g r.toNat
    Completes (.mova tgt r) s (fun t => CtFrame s t ∧ CtMoved s t 1 ∧ (∀ k, (t.tile s.cur.tile).g k = x.g k) ∧ (t.tile s.cur.tile).qs = x.qs ∧
      CtLands x (t.tile s.cur.tile) 1 90 (if tgt.toNat < 16 then .areg tgt.toNat v else .preg (tgt.toNat - 16) v)))

/-! ### Traps -/

/-- R143, R155, R161, R165, R203, R372: a trap taken while TRAP is 0 loads the trap registers, sets TRAP and MODE, puts CT's words and the loop stack into their
shadows and empties them, fetches from offset 0 of the locked region, and raises the stall wire of its gang; every register, queue, store and cached byte of the
tile, every other tile and every memory stays. EPC is the address of the next CT word, which is that of the first word in CT's queue when it holds one. During a level of
a Flight instruction or a K-row group of an `MTILE` every trap but SCHEDMISS waits, and nothing else changes; that SCHEDMISS waits for neither, and EPC where the
lines behind the queue hold no CT word, are the model's readings (log entries 110 and 111). -/
def Obligations.TrapEntry : Prop :=
  ∀ (s : State) (n : Nat) (q : TrapReq), (s.tile n).ct.handler = false →
    let x := s.tile n
    let t := s.takeTrap n q
    let y := t.tile n
    let inside := x.midLevel = true ∨ x.midGroup = true
    (inside → q.code ≠ tSCHEDMISS → t = s.modTile n (fun x => { x with ct := { x.ct with reqs := x.ct.reqs ++ [q] } })) ∧
    (¬inside ∨ q.code = tSCHEDMISS →
    y.ct.handler = true ∧ y.ct.mode = true ∧ y.ct.cause = causeWord x q ∧ y.ct.epc = BitVec.ofNat 64 (s.ctPc n) ∧
    (∀ w l, x.iq .ct = w :: l → y.ct.epc = BitVec.ofNat 64 w.addr) ∧ y.ct.xpc = BitVec.ofNat 64 q.xpc ∧
    y.ct.fpc = BitVec.ofNat 64 x.fe.pc ∧ (q.code = tTRANSLATION → y.ct.xva = q.va ∧ y.ct.xinfo = q.info) ∧
    (q.code ≠ tTRANSLATION → y.ct.xva = x.ct.xva ∧ y.ct.xinfo = x.ct.xinfo) ∧
    y.ct.shadow = x.ct.loops ∧ y.ct.loops = [] ∧ y.ct.saved = x.iq .ct ∧ y.ct.savedSkip = x.fe.skip ∧ y.iq .ct = [] ∧ y.fe.pc = 0 ∧ y.fe.on = true ∧
    y.fe.skip = [] ∧ y.g = x.g ∧ y.qs = x.qs ∧ y.st = x.st ∧ y.mx = x.mx ∧ y.sq = x.sq ∧ y.en = x.en ∧ y.id = x.id ∧ y.wa = x.wa ∧ y.cnt = x.cnt ∧
    y.pend = x.pend ∧ y.ct.lands = x.ct.lands ∧
    y.cache = x.cache ∧ y.run = x.run ∧ y.old = x.old ∧ y.fe.store = x.fe.store ∧ (∀ m, m ≠ n → t.tile m = s.tile m) ∧ { t with tiles := s.tiles, gangs := s.gangs } = s ∧
    (∀ g, s.gangOf n = some g →
      ∃ h ∈ t.gangs, h.base = g.base ∧ h.freeze = some (match g.freeze with | none => x.cnt + freezeDist g | some e => Nat.min e (x.cnt + freezeDist g))))

/-- R138, R140, R161, R165: a trap raised while TRAP is 1 does not enter: no trap register changes, the gang is gone, its tiles have stopped, and one
fault record has been reported, whose word 0x50 carries code DOUBLE. -/
def Obligations.TrapInHandlerAborts : Prop :=
  ∀ (s : State) (n : Nat) (q : TrapReq) (g : Gang), (s.tile n).ct.handler = true → s.gangOf n = some g →
    let x := s.tile n
    let t := s.takeTrap n q
    g ∉ t.gangs ∧ (t.tile n).ct.cause = x.ct.cause ∧ (t.tile n).ct.xpc = x.ct.xpc ∧ (t.tile n).ct.epc = x.ct.epc ∧
    (∀ k ∈ g.tiles, (t.tile k).run = false ∧ (t.tile k).id.active = false) ∧
    ∃ r : FaultRec, Reported s t r ∧ r.part = g.part ∧ r.cause = 2 ∧ r.tells = true ∧ wfld (r.words.getD 9 0) 0 8 = tDOUBLE

/-- R143, R162, R165, R317–R319: `TRAP` enters with SWTRAP and its own address, after CT has moved on, with the address of the next CT word in EPC; `ERET` in the handler restores the loop stack, the mode,
the fetch position and CT's words and clears TRAP; `HALT` in the handler aborts the gang, and in maintenance mode outside it CT stops. -/
def Obligations.TrapWordsComplete : Prop :=
  (∀ (s : State) (code : BitVec 16), CtStarts s Needs.none → (s.tile s.cur.tile).ct.handler = false →
    (s.tile s.cur.tile).midLevel = false → (s.tile s.cur.tile).midGroup = false →
    let n := s.cur.tile
    let x := s.tile n
    Completes (.trap code) s (fun t => let y := t.tile n
      y.ct.handler = true ∧ y.ct.mode = true ∧ y.ct.xpc = BitVec.ofNat 64 s.cur.q.addr ∧ y.ct.epc = BitVec.ofNat 64 ((s.ctNext 1).ctPc n) ∧
      (∀ w l, (loopEnd s.cur.q.addr (x.ct.entered s.cur.q.addr)).2 = none → (x.iq .ct).tail = w :: l → y.ct.epc = BitVec.ofNat 64 w.addr) ∧
      wfld y.ct.cause 0 8 = 0x0B ∧ wfld y.ct.cause 44 4 = 1 ∧ y.fe.pc = 0 ∧ y.g = x.g ∧ t.mem = s.mem)) ∧
  (∀ s : State, CtStarts s Needs.none → (s.tile s.cur.tile).ct.handler = true →
    let n := s.cur.tile
    let x := s.tile n
    Completes .eret s (fun t => let y := t.tile n
      y.ct.handler = false ∧ y.ct.mode = x.ct.cause.getLsbD 32 ∧ y.ct.loops = x.ct.shadow ∧ y.fe.pc = x.ct.fpc.toNat ∧ y.iq .ct = x.ct.saved ∧ y.fe.skip = x.ct.savedSkip ∧
      y.g = x.g ∧ y.qs = x.qs ∧ y.pend = x.pend ∧ y.cache = x.cache ∧ (∀ m, m ≠ n → t.tile m = s.tile m) ∧ { t with tiles := s.tiles, gangs := s.gangs } = s)) ∧
  (∀ (s : State) (g : Gang), CtStarts s Needs.none → (s.tile s.cur.tile).ct.mode = true → (s.tile s.cur.tile).ct.handler = true → s.gangOf s.cur.tile = some g →
    Completes .halt s (fun t => g ∉ t.gangs ∧ (∀ k ∈ g.tiles, (t.tile k).run = false) ∧ ∃ r : FaultRec, Reported s t r ∧ r.part = g.part ∧ r.tells = true)) ∧
  (∀ s : State, CtStarts s Needs.none → (s.tile s.cur.tile).ct.mode = true → (s.tile s.cur.tile).ct.handler = false →
    Completes .halt s (fun t => (t.tile s.cur.tile).ct.halted = true ∧ (t.tile s.cur.tile).fe.on = false ∧ (t.tile s.cur.tile).iq .ct = [] ∧ OnlyTile s t s.cur.tile))

/-- R310, R311, R314, R320: in a mode that the table of R320 does not give it, a CT word that issues is the ILLMODE trap, for every operand: MLOOP, MLCB, GBAR, MARK and
DONE outside service mode, LOOP, UNLOOP and HALT outside maintenance mode, ERET outside the handler. -/
def Obligations.ModeRestrictions : Prop :=
  ∀ s : State, let x := s.tile s.cur.tile
    x.faulted .ct = false → x.ct.busy ≤ x.ct.clk →
    let ill := fun (i : Instr) => exec i s = .next (s.trapAt s.cur.tile .ct tILLMODE s.cur.q.addr 0)
    let reads := fun (r : BitVec 5) => x.has (gNeeds [r.toNat] []) = true
    (x.service = false → (∀ b ii sc r, reads r → ill (.mloop b ii sc r)) ∧ (∀ b ii sc, ill (.mloopLcb b ii sc)) ∧
      (∀ idx a, idx ≠ 0 → reads a → ill (.mlcb idx a)) ∧ (∀ m, ill (.gbar m)) ∧ (∀ r, reads r → ill (.mark r)) ∧ ill .done) ∧
    (x.ct.mode = false → (∀ r e, e ≠ 0 → reads r → ill (.loop r e)) ∧ ill .unloop ∧ ill .halt) ∧
    (x.ct.handler = false → ill .eret)

/-- R145, R260: a word with a reserved field issues when what its valid fields name is there, and is the ILLINSN trap, in CT and in a synchronous column. A word
that no row of the opcode table matches completes by taking that trap, which is its own effect: in its column when what its valid fields name is there, in CE when the
commands before it have started, and in a logit program it fails the job with PROG. Where no handler runs and no level of a Flight instruction and no K-row group
of an `MTILE` is under way, the trap is entered, with code ILLINSN and the address of the word. An `MLOOP` in service mode whose B, II or SC is out of range is the LOOP
trap whatever its reserved bits are (R310). -/
def Obligations.IllegalWordsTrap : Prop :=
  (∀ (s : State), let x := s.tile s.cur.tile
    x.faulted .ct = false → x.ct.busy ≤ x.ct.clk →
    let ill := fun (i : Instr) (k : Needs) => x.has (k.named .ct) = true → wellFormed i = false → exec i s = .next (s.trapAt s.cur.tile .ct tILLINSN s.cur.q.addr 0)
    let rd := fun (r : BitVec 5) => gNeeds [r.toNat] []
    let wr := fun (d : BitVec 5) => gNeeds [] [d.toNat]
    (∀ o, ill (.add o) (crNeeds o)) ∧ (∀ o, ill (.div o) (crNeeds o)) ∧ (∀ o : LdsOp, ill (.lds o) (gNeeds [o.b.toNat] [o.v.toNat])) ∧
    (∀ m sc, ill (.fence m sc) .none) ∧ (∀ o : SemOp, ill (.semw o) (rd o.s)) ∧ (∀ o : SemOp, ill (.sems o) (rd o.s)) ∧
    (∀ i a, ill (.mlcb i a) (rd a)) ∧ (∀ r e, ill (.loop r e) (rd r)) ∧ (∀ d sel, ill (.rdid d sel) (wr d)) ∧ (∀ d y, ill (.srr d y) (wr d)) ∧
    (∀ r y, ill (.srw r y) (rd r)) ∧ (∀ g r, ill (.mova g r) (rd r))) ∧
  (∀ (s : State) (o : VxOp), let x := s.tile s.cur.tile
    x.faulted s.cur.col = false → (x.col s.cur.col).ackKey = none → s.cur.body = false → x.eligibleAt s.cur.col o.tok.dly ≤ x.cnt →
    let ill := fun (i : Instr) => x.has ((needsOf s s.cur.tile i).named s.cur.col) = true → wellFormed i = false →
      exec i s = .next (s.trapAt s.cur.tile s.cur.col tILLINSN s.cur.q.addr 0)
    ill (.vadd o) ∧ ill (.vcvt o) ∧ ill (.vred o) ∧ ill (.vperm o) ∧ ill (.vwin o)) ∧
  (∀ (s : State) (w : Lane) (e : Option Lane), let x := s.tile s.cur.tile
    let trap := fun (c : Col) => Completes (.unassignedOpcode c w e) s (fun t => t = s.trapAt s.cur.tile s.cur.col tILLINSN s.cur.q.addr 0 ∧
      (x.ct.handler = false → x.midLevel = false → x.midGroup = false → let y := t.tile s.cur.tile
        y.ct.handler = true ∧ y.ct.mode = true ∧ wfld y.ct.cause 0 8 = tILLINSN ∧ y.ct.xpc = BitVec.ofNat 64 s.cur.q.addr ∧ y.fe.pc = 0))
    let k := fun (c : Col) => (illNeeds s s.cur.tile c w e).named c
    (s.cur.col = .ct → x.faulted .ct = false → x.ct.busy ≤ x.ct.clk → x.has (k .ct) = true → mloopRange w e = false → trap .ct) ∧
    (CtStarts s (k .ct) → x.service = true → mloopRange w e = true →
      exec (.unassignedOpcode .ct w e) s = .next (s.trapAt s.cur.tile .ct tLOOP s.cur.q.addr 0)) ∧
    (x.faulted .ce = false → (∀ c ∈ x.en.ceq, c.started = true) → trap .ce) ∧
    (∀ c ∈ [Col.ld, .st, .vx, .mx, .sq, .lk], s.cur.col = c → (c = .mx ∨ c = .sq → e = none) →
      SyncStarts s (wordTok w).dly none (k c) s → trap c) ∧
    (∀ j, s.job (s.cur.tile / 4) 0 = some j →
      Completes (.unassignedOpcode .logit w e) s (fun t => t = s.logitFail ⟨s.cur.tile / 4, s.cur.tile % 4, j, s.sluice (s.cur.tile / 4) (s.cur.tile % 4)⟩ 4 0)))

/-! ### LD and ST -/

/-- R321–R325, R327–R329: every local form of LD that starts with a legal pattern and legal addresses completes. Its read of the scratchpad
is due at issue + 1, and what it has read then lands in its row, queue, scale row or Pound row at issue + 4; the 96 chunks of `LDB` are read from issue + 1 on; its address
register steps by the number of its elements, and nothing else changes. -/
def Obligations.LocalLoadsComplete : Prop :=
  ∀ (s : State) (dly : BitVec 3) (popR pushR : Bool) (m a : BitVec 4) (p : BitVec 3) (rn : BitVec 8),
    let o : LdOp := ⟨dly, popR, pushR, m, a, p, rn⟩
    let o' : LdNOp := ⟨dly, popR, pushR, a, p, rn⟩
    let x := s.tile s.cur.tile
    let xs := fun (c : Nat) => x.patAddrs p.toNat a.toNat c
    let kq := ldNeeds dly popR pushR (srcPops [rn])
    let kn := ldNeeds dly popR pushR []
    x.patOk p.toNat = true →
    (∀ y : Nat, ReadLands (.ldRead (rowDst rn m) [y]) .ld 3 (fun t => ldWrites rn m (t.spadRow y)) ∧
      ReadLands (.ldRead (.scale rn.toNat m) [y]) .ld 3 (fun t => .scale rn.toNat (t.spadRow y) m) ∧
      ReadLands (.ldRead (.pound rn.toNat m.toNat) [y]) .ld 3 (fun t => .pound rn.toNat m.toNat (t.spadRow y))) ∧
    ReadLands (.ldRead (rowDst rn 0) (xs 16)) .ld 3 (fun t => ldWrites rn 0 (gather t (xs 16))) ∧
    (SyncStarts s dly none kq s → wellFormed (.ldv o) = true → badRow x (xs 1) = false →
      Completes (.ldv o) s (fun t => LdDone s t kq a.toNat 1 4 1 [ldReading x (rowDst rn m) (xs 1)])) ∧
    (SyncStarts s dly none kq s → wellFormed (.ldt o') = true → piecesOk (xs 16) = true →
      Completes (.ldt o') s (fun t => LdDone s t kq a.toNat 16 4 1 [ldReading x (rowDst rn 0) (xs 16)])) ∧
    (SyncStarts s dly none kn s → wellFormed (.ldsc o) = true → badRow x (xs 1) = false →
      Completes (.ldsc o) s (fun t => LdDone s t kn a.toNat 1 4 1 [ldReading x (.scale rn.toNat m) (xs 1)])) ∧
    (SyncStarts s dly none kn s → wellFormed (.ldp o) = true → badRow x (xs 1) = false → x.slotFree rn.toNat = false →
      Completes (.ldp o) s (fun t => LdDone s t kn a.toNat 1 4 1 [ldReading x (.pound rn.toNat m.toNat) (xs 1)])) ∧
    (SyncStarts s dly none kn s → wellFormed (.ldb o') = true → badRow x (xs 96) = false →
      Completes (.ldb o') s (fun t => LdDone s t kn a.toNat 96 99 96
        ((List.range 96).map (fun j => ⟨x.cnt + 1 + j, 1, .ldbRead rn.toNat j ((xs 96).getD j 0)⟩))))

/-- R163, R321–R326: a memory form of LD or ST whose address is not a multiple of its size, and any LD or ST form with a bound out of range, is the ILLINSN trap; a
local form at an illegal row address, at colliding pieces or at a FREE Pound slot is the ADDR trap. Nothing is loaded, stored or popped. -/
def Obligations.LoadStoreTraps : Prop :=
  ∀ (s : State) (tok : Tok) (m a : BitVec 4) (p : BitVec 3) (rn : BitVec 8),
    let lo : LdOp := ⟨tok.dly, tok.popR, tok.pushR, m, a, p, rn⟩
    let so : StOp := ⟨tok, m, a, p, rn⟩
    let x := s.tile s.cur.tile
    let va := (x.patAddr p.toNat (x.areg a.toNat)).toNat
    let one := x.patAddrs p.toNat a.toNat 1
    let trap := fun (i : Instr) (code : Nat) => wellFormed i = true → exec i s = .next (s.trapAt s.cur.tile s.cur.col code s.cur.q.addr 0)
    let kl := fun (l : List Nat) => SyncStarts s tok.dly none (ldNeeds tok.dly tok.popR tok.pushR l) s
    let ks := fun (l : List Nat) => SyncStarts s tok.dly none (syncNeeds .st tok l []) s
    (x.patOk p.toNat = false →
      (kl (srcPops [rn]) → trap (.ldv lo) tILLINSN ∧ trap (.ldq lo) tILLINSN ∧ trap (.ldg lo) tILLINSN) ∧
      (ks (srcPops [rn]) → trap (.stv so) tILLINSN ∧ trap (.stq so) tILLINSN ∧ trap (.sct so) tILLINSN)) ∧
    (x.patOk p.toNat = true →
      (va % 8 ≠ 0 → (kl (srcPops [rn]) → trap (.ldq lo) tILLINSN) ∧ (ks (srcPops [rn]) → trap (.stq so) tILLINSN)) ∧
      (va % 512 ≠ 0 → (kl (srcPops [rn]) → trap (.ldg lo) tILLINSN) ∧ (ks (srcPops [rn]) → trap (.sct so) tILLINSN) ∧
        (ks (srcPops [rn, rn]) → trap (.stm so) tILLINSN)) ∧
      (va % 64 ≠ 0 → kl ((srcPops [rn]).flatMap (List.replicate 8)) → trap (.ldx lo) tILLINSN) ∧
      (va % 32 ≠ 0 → kl (srcPops [rn]) → trap (.ldbc lo) tILLINSN) ∧
      (rowAddrOk (first one) = false → (kl (srcPops [rn]) → trap (.ldv lo) tADDR) ∧ (ks (srcPops [rn]) → trap (.stv so) tADDR) ∧
        (kl [] → trap (.ldsc lo) tADDR)) ∧
      (x.slotFree rn.toNat = true → (kl [] → trap (.ldp lo) tADDR) ∧ (ks [] → trap (.stp so) tADDR)))

/-- R322, R325–R327, R330: a memory form of LD whose access returns its bytes completes: its entries have become due, at issue + 4 when the data cache has served
the access and no push is due, its address register steps by 1, and everything but what the access itself has changed stays; an entry of an address that another
package owns comes through a port until it is pushed (R50). An acquire waits while a slice holds dirty bytes of the cache (R87, R90). `LPF`
completes whether its access faults or not, and writes nothing but its address register.
The order of LD pushes into one queue is the model's reading (log entry 21). -/
def Obligations.MemoryLoadsComplete : Prop :=
  (∀ (s : State) (o : LdOp), let n := s.cur.tile
    let x := s.tile n
    let va := (x.patAddr o.p.toNat (x.areg o.a.toNat)).toNat
    x.patOk o.p.toNat = true →
    let loads := fun (i : Instr) (pushes : List Nat) (size : Nat) (rows : List Byte → List Row) =>
      let k := ldNeeds o.dly o.popR o.pushR pushes
      let u := if o.m = 0 then s else s.acquireCache n o.m 4
      SyncStarts s o.dly none k s → wellFormed i = true → va % size = 0 →
      (o.m ≠ 0 → u.cacheHeld n o.m 4 = true → exec i s = .next u) ∧
      ∀ s' bs hit, (o.m = 0 ∨ u.cacheHeld n o.m 4 = false) → u.tileRead n va size (o.m != 0) = (s', .ok (bs, hit)) →
        Completes i s (fun t => MemOnly s s' ∧ ∃ d, x.cnt + 4 ≤ d ∧ (hit = true → (∀ e ∈ x.pend, e.push = none) → d = x.cnt + 4) ∧
          SyncDone s'.fresh.1 t 1 ((rows bs).map (fun r => ⟨d, landOrd .ld, s'.fresh.1.pushOf va (o.rn.toNat - 128) r⟩) ++ [aregLanding x .ld o.a.toNat 1] ++
            k.outs.map (fun f => ⟨d + 1, 0, .token f⟩)))
    (∀ (u : State) (q : Nat) (r : Row), (u.localDie va).isSome = true → u.pushOf va q r = .qpush q r) ∧
    loads (.ldq o) (srcPops [o.rn]) 8 (fun bs => [bytesRow bs]) ∧ loads (.ldg o) (srcPops [o.rn]) 512 (fun bs => [bytesRow bs]) ∧
    loads (.ldx o) ((srcPops [o.rn]).flatMap (List.replicate 8)) 64 (fun bs => (List.range 8).map (fun i => bytesRow ((bs.drop (8 * i)).take 8))) ∧
    loads (.ldbc o) (srcPops [o.rn]) 32 (fun bs => [bytesRow ((List.replicate 16 bs).flatten)])) ∧
  (∀ (s s' : State) (o : LdPOp) (r : Ans (List Byte × Bool)), let n := s.cur.tile
    let x := s.tile n
    let k := ldNeeds o.dly o.popR o.pushR []
    SyncStarts s o.dly none k s → wellFormed (.lpf o) = true → x.patOk o.p.toNat = true →
    s.tileRead n ((x.patAddr o.p.toNat (x.areg o.a.toNat)).toNat / 128 * 128) 128 false = (s', r) → r ≠ .wait →
    let u := match r with | .fault _ => s | _ => s'
    Completes (.lpf o) s (fun t => MemOnly s u ∧ SyncDone u t 1 ([aregLanding x .ld o.a.toNat 1] ++ tokLandings x k 1)))

/-- R321–R325, R329, R331: every local form of ST that starts with a legal pattern and legal addresses completes: its source has been popped or read, the
scratchpad row, the sixteen pieces or the zeros have become due at issue + 1, the row that `STP` reads at issue + 1 lands at issue + 2, its address register steps by
its number of elements, and nothing else changes. -/
def Obligations.LocalStoresComplete : Prop :=
  ∀ (s : State) (tok : Tok) (m a : BitVec 4) (p : BitVec 3) (rn : BitVec 8),
    let o : StOp := ⟨tok, m, a, p, rn⟩
    let x := s.tile s.cur.tile
    let xs := fun (c : Nat) => x.patAddrs p.toNat a.toNat c
    let src := x.physSrc rn
    let kq := syncNeeds .st tok (srcPops [rn]) []
    let kn := syncNeeds .st tok [] []
    let spad := fun (keep : BitVec 4) (r : Row) => (⟨x.cnt + 1, landOrd .st, .spad (first (xs 1)) r keep⟩ : Pend)
    x.patOk p.toNat = true →
    ReadLands (.stpRead rn.toNat m.toNat (first (xs 1))) .st 1 (fun t => .spad (first (xs 1)) (t.poundRow rn.toNat m.toNat) 0) ∧
    (SyncStarts s tok.dly none kq s → wellFormed (.stv o) = true → badRow x (xs 1) = false →
      Completes (.stv o) s (fun t => StDone s t kq src.1 a.toNat 1 1 [spad m src.2])) ∧
    (SyncStarts s tok.dly none kq s → wellFormed (.stt ⟨tok, a, p, rn⟩) = true → piecesOk (xs 16) = true →
      Completes (.stt ⟨tok, a, p, rn⟩) s (fun t => StDone s t kq src.1 a.toNat 16 1
        ((List.range 16).map (fun j => ⟨x.cnt + 1, landOrd .st, .piece ((xs 16).getD j 0) (BitVec.ofNat 256 (lane src.2 256 j))⟩)))) ∧
    (SyncStarts s tok.dly none kn s → wellFormed (.stp o) = true → badRow x (xs 1) = false → x.slotFree rn.toNat = false →
      Completes (.stp o) s (fun t => StDone s t kn x a.toNat 1 2 [⟨x.cnt + 1, 1, .stpRead rn.toNat m.toNat (first (xs 1))⟩])) ∧
    (SyncStarts s tok.dly none kq s → wellFormed (.stc o) = true → badRow x (xs 1) = false →
      Completes (.stc o) s (fun t => StDone s t kq src.1 a.toNat 1 1 [spad m (ofLanes 64 (List.replicate 64 (qWordOf src.2).toNat))])) ∧
    (SyncStarts s tok.dly none kn s → wellFormed (.stz ⟨tok, m, a, p⟩) = true → badRow x (xs 1) = false →
      Completes (.stz ⟨tok, m, a, p⟩) s (fun t => StDone s t kn x a.toNat 1 1 [spad m 0]))

/-- R323, R325, R326, R331, R332: a memory form of ST whose check passes completes: a store that stays in the data cache enters it at issue + 1 with
exactly its bytes at its address (for `STM` those whose mask byte has bit 7 set); a release, and a store to a page with ATTR = 2, is due at the coherence
point at issue + 1 with them, under a new key and with its prior set (R176). Its source has been popped, its address register steps by 1, and nothing else changes. -/
def Obligations.MemoryStoresComplete : Prop :=
  ∀ (s s' : State) (o : StOp), let n := s.cur.tile
    let x := s.tile n
    let va := (x.patAddr o.p.toNat (x.areg o.a.toNat)).toNat
    x.patOk o.p.toNat = true →
    let p1 := x.physSrc o.rn
    let p2 := p1.1.physSrc o.rn
    let stores := fun (i : Instr) (pops : List Nat) (size : Nat) (p : Tile) (bytes : List (Option Byte)) =>
      let k := syncNeeds .st o.tok pops []
      SyncStarts s o.tok.dly none k s → wellFormed i = true → va % size = 0 →
      (∀ rd wr via, s.storeCheck n va size (o.m != 0) (covers va bytes) = (s', .ok (.cached rd wr via)) → Completes i s (fun t => MemOnly s s' ∧
        SyncDone s' t 1 ([⟨x.cnt + 1, landOrd .st, .cacheWrite va bytes rd wr via⟩, aregLanding x .st o.a.toNat 1] ++ tokLandings x k 1) ∧
        (t.tile n).queue = p.queue)) ∧
      (∀ pa attr, s.storeCheck n va size (o.m != 0) (covers va bytes) = (s', .ok (.direct pa attr)) → Completes i s (fun t => MemOnly s s' ∧
        SyncDone (s'.modTile n (fun y => y.newKey.1)) t 1
          [⟨x.cnt + 1, landOrd .st, .coStore va pa attr bytes o.m k.outs x.newKey.2 (x.priorKeys s.tm.pre o.m)⟩, aregLanding x .st o.a.toNat 1] ∧
        (t.tile n).queue = p.queue))
    stores (.stq o) (srcPops [o.rn]) 8 p1.1 (allBytes 8 p1.2) ∧ stores (.sct o) (srcPops [o.rn]) 512 p1.1 (allBytes 512 p1.2) ∧
    stores (.stm o) (srcPops [o.rn, o.rn]) 512 (if (qName o.rn).isSome then p2.1 else x)
      (if (qName o.rn).isSome then maskedBytes p1.2 p2.2 else maskedBytes (x.row o.rn.toNat) (x.row (o.rn.toNat + 1)))

/-! ### VX -/

/-- R345–R350: the elementwise arithmetic words complete. Lane by lane, a float type gives the exact result rounded once under RND and SAT, an integer type the exact
integer wrapped or saturated; `VMAX` and `VMIN` pick a lane without rounding. The row or entry D has become due at issue + 3. -/
def Obligations.VxArithmeticCompletes : Prop :=
  ∀ (s : State) (o : VxOp),
    let l := fun (rows : List Row) (k i : Nat) => lane (src rows k) (width o.et) i
    let arith := fun (i : Instr) (srcs : List (BitVec 8)) (ff : Val → Val → Val → Val) (fi : Int → Int → Int → Int) =>
      VxRowCompletes i o srcs 3 (fun rows u => byLane o.et (fun j => arithLane o (fnBit o 0) (if o.rnd == 4 then u j else 0) ff fi (l rows 0 j) (l rows 1 j) (l rows 2 j))) s
    arith (.vadd o) [o.a, o.b] (fun a b _ => addV (o.rnd == 3) a b) (fun a b _ => a + b) ∧
    arith (.vsub o) [o.a, o.b] (fun a b _ => addV (o.rnd == 3) a b.neg) (fun a b _ => a - b) ∧
    arith (.vmul o) [o.a, o.b] (fun a b _ => mulV a b) (fun a b _ => a * b) ∧
    arith (.vfma o) [o.a, o.b, o.c] (fun a b c => addV (o.rnd == 3) (mulV a b) c) (fun a b c => a * b + c) ∧
    arith (.vfms o) [o.a, o.b, o.c] (fun a b c => addV (o.rnd == 3) (mulV a b) c.neg) (fun a b c => a * b - c) ∧
    arith (.vabs o) [o.a] (fun a _ _ => a.abs) (fun a _ _ => (a.natAbs : Int)) ∧ arith (.vneg o) [o.a] (fun a _ _ => a.neg) (fun a _ _ => -a) ∧
    VxRowCompletes (.vmax o) o [o.a, o.b] 3 (fun rows _ => byLane o.et (fun j => pickLane o.et true (l rows 0 j) (l rows 1 j))) s ∧
    VxRowCompletes (.vmin o) o [o.a, o.b] 3 (fun rows _ => byLane o.et (fun j => pickLane o.et false (l rows 0 j) (l rows 1 j))) s

/-- R351, R352: the logic, shift, compare, select and move words complete, their row or entry D due at issue + 3; a shift of a lane by its width or more gives 0, or the
sign for `VSRA`; a compare gives lanes of all ones or 0. -/
def Obligations.VxLogicCompletes : Prop :=
  ∀ (s : State) (o : VxOp),
    let w := width o.et
    let l := fun (rows : List Row) (k i : Nat) => lane (src rows k) w i
    let row := fun (i : Instr) (srcs : List (BitVec 8)) (g : List Row → Row) => VxRowCompletes i o srcs 3 (fun rows _ => g rows) s
    let ab := if fnBit o 11 then [o.a] else [o.a, o.b]
    let amount := fun (rows : List Row) (j : Nat) => if fnBit o 11 then fnFld o 0 6 else l rows 1 j
    row (.vand o) [o.a, o.b] (fun r => src r 0 &&& src r 1) ∧ row (.vor o) [o.a, o.b] (fun r => src r 0 ||| src r 1) ∧
    row (.vxor o) [o.a, o.b] (fun r => src r 0 ^^^ src r 1) ∧ row (.vmov o) [o.a] (fun r => src r 0) ∧
    row (.vshl o) ab (fun r => byLane o.et (fun j => if w ≤ amount r j then 0 else l r 0 j * 2 ^ amount r j % 2 ^ w)) ∧
    row (.vshr o) ab (fun r => byLane o.et (fun j => if w ≤ amount r j then 0 else l r 0 j / 2 ^ amount r j)) ∧
    row (.vsra o) ab (fun r => byLane o.et (fun j => wrapInt w (intOf true w (l r 0 j) / 2 ^ (Nat.min (amount r j) w)))) ∧
    row (.vcmp o) [o.a, o.b] (fun r => byLane o.et (fun j => if cmpLane o.et (fnFld o 0 3) (l r 0 j) (l r 1 j) then 2 ^ w - 1 else 0)) ∧
    row (.vsel o) [o.a, o.b, o.c] (fun r => byLane o.et (fun j => if l r 2 j ≠ 0 then l r 0 j else l r 1 j))

/-- R292, R293, R353–R357: the conversions, block quantisation, the functions of one lane and the table words complete: the destination and, for `VQBLK`, its four
scale bytes are due at issue + 6, with the amax update when the word asks for it, and a `VTLD` table row at issue + 3.
The precision of the functions and infinite knots of `VTIE` are the model's reading (log entries 19 and 27). -/
def Obligations.VxFunctionsComplete : Prop :=
  ∀ (s : State) (o : VxOp),
    let m := fmtOf o.et.toNat
    let rand := fun (u : Nat → Nat) (j : Nat) => if o.rnd == 4 then u j else 0
    let fn := fun (i : Instr) (f : Fmt → Nat → Bool → Nat → Val → Nat) =>
      VxRowCompletes i o [o.a] 6 (fun rows u => byLane o.et (fun j => f m o.rnd.toNat (fnBit o 4) (rand u j) (dec m (lane (src rows 0) m.w j)))) s
    let sr := fnFld o 0 4
    let ws := width (BitVec.ofNat 4 sr)
    let wd := width o.et
    let part := fnFld o 7 3
    let n := 4096 / Nat.max ws wd
    let narrow := decide (wd < ws)
    let lo := if narrow then part * n else 0
    let amax := fun (x : Tile) (l : List Val) => if fnBit o 5 then [(⟨x.cnt + 6, landOrd .vx, amaxAct l⟩ : Pend)] else []
    fn (.vrcp o) rcp ∧ fn (.vrsq o) rsq ∧ fn (.vexp2 o) exp2V ∧ fn (.vlog2 o) log2V ∧
    VxCompletes (.vcvt o) o (if narrow then [o.a, o.b] else [o.a]) (srcPops [o.d]) 6 (o.rnd == 4) (fun x rows u =>
      let a := (List.range n).map (fun i => lane (src rows 0) ws (if narrow then i else part * n + i))
      amax x (a.map (valOf sr)) ++ [vxLanding x 6 o.d (replaceLanes wd lo (if narrow then src rows 1 else 0)
        ((List.range n).map (fun i => convert sr o.et.toNat o.rnd.toNat (fnBit o 4) (rand u (lo + i)) (a.getD i 0))))]) s ∧
    VxCompletes (.vqblk o) o [o.a, o.b] (srcPops [o.d] ++ [fnFld o 10 2]) 6 (o.rnd == 4) (fun x rows u =>
      let a := lanesOf (src rows 0) 32
      let bl := (List.range 4).map (fun b => quantBlock m o.rnd.toNat (fun j => rand u (32 * b + j)) ((a.drop (32 * b)).take 32))
      amax x (a.map (dec f32)) ++ [vxLanding x 6 o.d (replaceLanes m.w (128 * part) (src rows 1) (bl.flatMap (·.2))),
        ⟨x.cnt + 6, landOrd .vx, .qpush (fnFld o 10 2) (BitVec.ofNat 4096 (packLanes 8 (bl.map (·.1))))⟩]) s ∧
    VxCompletes (.vtie o) o [o.a] (srcPops [o.d]) 6 (o.rnd == 4) (fun x rows u => [vxLanding x 6 o.d (byLane o.et (fun j =>
      round m o.rnd.toNat (fnBit o 4) (rand u j) (tieV (o.rnd == 3) (x.tableEntry (fnFld o 0 2)) (dec m (lane (src rows 0) m.w j)))))]) s ∧
    VxCompletes (.vtld o) o [o.a] [] 3 false (fun x rows _ => [⟨x.cnt + 3, landOrd .vx, .scale (fnFld o 0 4) (src rows 0) 0⟩]) s

/-- R349, R358–R364: reductions, broadcasts, permutations, packing, constants, random rows, the amax update and the window write complete, each with its result due at
the write cycle of its row of R348. -/
def Obligations.VxMovementCompletes : Prop :=
  ∀ (s : State) (o : VxOp),
    let w := width o.et
    let row := fun (i : Instr) (srcs : List (BitVec 8)) (lat : Nat) (g : List Row → Row) => VxRowCompletes i o srcs lat (fun rows _ => g rows) s
    let c := fun (r : List Row) => if w = 8 then src r 2 else src r 1
    VxRowCompletes (.vred o) o [o.a] 8 (fun rows u =>
      let r := reduce o (if o.rnd == 4 then u 0 else 0) (src rows 0)
      if qWord o.d then wordRow (if isInt o.et && isSigned o.et.toNat then sext w r else BitVec.ofNat 64 r)
      else if fnBit o 3 then byLane o.et (fun _ => r) else BitVec.ofNat 4096 r) s ∧
    row (.vbcast o) [o.a] 3 (fun r => byLane o.et (fun _ => lane (src r 0) w (if qWord o.a then 0 else fnFld o 0 10))) ∧
    row (.vperm o) (if w = 8 then [o.a, o.b, o.c] else [o.a, o.c]) 8 (fun r => byLane o.et (fun i =>
      let j := if i < 256 then lane (c r) 16 i else lane (src r 1) 16 (i - 256)
      if lanes o.et ≤ j then 0 else lane (src r 0) w j)) ∧
    row (.vunpk o) [o.a, o.b, o.c] 6 (fun r => ofLanes w (expand (lanesOf (src r 0) w) (lanesOf (src r 1) w) (lanesOf (src r 2) w))) ∧
    row (.vidx o) [] 3 (fun _ => byLane o.et (fun i => if isFp o.et then rne32 (ofInt (o.fn.toInt + i) 0) else wrapInt w (o.fn.toInt + i))) ∧
    row (.vclr o) [] 3 (fun _ => 0) ∧
    VxCompletes (.vpack o) o [o.a, o.c] (srcPops [o.d] ++ (if fnBit o 11 then [fnFld o 9 2] else [])) 6 false (fun x r _ =>
      let l := picked w (src r 0) (src r 1)
      [vxLanding x 6 o.d (ofLanes w l)] ++ (if fnBit o 11 then [⟨x.cnt + 6, landOrd .vx, .qpush (fnFld o 9 2) (BitVec.ofNat 4096 l.length)⟩] else [])) s ∧
    VxCompletes (.vrng o) o [] (srcPops [o.d]) 3 true (fun x _ u => [vxLanding x 3 o.d (byLane o.et u)]) s ∧
    VxCompletes (.vamax o) o [o.a] [] 3 false (fun x r _ => [⟨x.cnt + 3, landOrd .vx, amaxAct ((lanesOf (src r 0) w).map (valOf o.et.toNat))⟩]) s ∧
    VxCompletes (.vwin o) o [] [] 1 false (fun x _ _ =>
      [⟨x.cnt + 1, landOrd .vx, .sys 0x080 (BitVec.ofNat 64 (o.d.toNat + o.a.toNat * 2 ^ 8 + fnFld o 0 7 * 2 ^ 16))⟩]) s

/-! ### MX -/

/-- R367–R370: an array form that starts, with a legal pattern and span and the sparsity of its form, completes: its span is read at issue + 1, and its columns' dot products over the
latch land at issue + 9, to overwrite the accumulator or to add to it; its span pointer steps by 1 and, for `MMAX`, the scale pointer by the scale bytes used; nothing else
changes.
That gated sub-arrays are woken first is the model's reading (log entry 23). -/
def Obligations.ArrayWordsComplete : Prop :=
  ∀ (s s' : State) (k : MTok) (acc : BitVec 7) (p et : BitVec 3) (ovw : Bool),
    let nd := mxNeeds k true
    SyncStarts s k.tok.dly k.stamp nd s' →
    let x := s'.tile s.cur.tile
    let r := 8 + p.toNat
    let a := (x.patAddr p.toNat (x.areg r)).toNat
    let float := (mxFmt et.toNat).isSome
    x.patOk p.toNat = true → (x.mx.mode = 2 → float = true) →
    let done := fun (i : Instr) (form : MxForm) (more : List Pend) =>
      wellFormed i = true → spanOk a (spanOf form x.mx.spn) = true →
      ReadLands (.arrRead form et.toNat acc.toNat a ovw) .mx 8 (fun t =>
        let span := leNat (t.st.spad.bytes a (spanOf form t.mx.spn))
        let n := t.live acc.toNat
        let d := ofLanes 32 ((List.range 128).map (fun c => if c < n then t.dotCol form et.toNat acc.toNat span (latchPlane t.mx.latch) c else 0))
        if ovw then .row acc.toNat d else if float then .accF acc.toNat n d else .accI acc.toNat n d) ∧
      Completes i s (fun t => ArrDone s' t nd 9 1 x.useArrays.mx x.sq
        ([⟨x.cnt + 1, 1, .arrRead form et.toNat acc.toNat a ovw⟩, ⟨x.cnt + 1, 3, .areg r (x.areg r + 1)⟩] ++ more))
    (x.mx.spn = 0 → done (.mma k acc p et ovw) .dense []) ∧
    (x.mx.spn ≠ 0 → x.masksOk et.toNat = true → done (.mmas k acc p et ovw) .sparse []) ∧
    (x.mx.spn = 0 → done (.mmax k acc p et ovw) .scaled [x.due .mx 1 (.aptr ((x.mx.aptr + kept et.toNat / 128) % 2048))])

/-- R366, R371, R372: an `MTILE` that starts, of M rows and KR groups with every span legal, completes: row i of group j has its array step in cycle 4 + j · H + i after
issue, overwriting only in the first group of an overwriting form, the select of a group takes place H cycles after the one before it, the span pointer steps by KR · M,
and MX is held for 4 + (KR − 1) · H + M cycles. Its macro-op step starts with group 0 and KR · M row steps to come; each row step takes one from them, and the last of group
k moves on to group k + 1, there being the end of a K-row group. -/
def Obligations.MatrixTileCompletes : Prop :=
  ∀ (s s' : State) (k : MTok) (acc : BitVec 7) (p et : BitVec 3) (ovw : Bool),
    let nd := mxNeeds k true
    SyncStarts s k.tok.dly k.stamp nd s' → wellFormed (.mtile k acc p et ovw) = true →
    let x := s'.tile s.cur.tile
    let r := 8 + p.toNat
    let m := x.bound p.toNat 0
    let kr := x.bound p.toNat 1
    let h := Nat.max m 4
    let xs := x.patAddrs p.toNat r (kr * m)
    let hold := 4 + (kr - 1) * h + m
    x.patOk p.toNat = true → x.mx.spn = 0 → x.mx.mode < 2 → m ≤ 128 → kr ≤ 16 → x.bound p.toNat 2 = 1 → x.bound p.toNat 3 = 1 →
    acc.toNat + m - 1 ≤ 127 → (∀ a ∈ xs, spanOk a 384 = true) →
    (∀ (t : Tile) (j left q y e : Nat) (edge w : Bool), let z := t.landed (.mtStep j left edge q y e w)
      z = { t.useArrays.land (t.cnt + 1) 1 (.arrRead .dense e q y w) with mx := z.mx } ∧
      z.mx = { t.useArrays.mx with group := if edge then some (j + 1) else t.mx.group, rows := left, edge := if edge then t.cnt else t.mx.edge } ∧
      (t.landed (.mtSel j)).pend = insertPend (t.due .mx 4 (.latch j 0 (t.kRow j))) t.pend ∧ { t.landed (.mtSel j) with pend := t.pend } = t) ∧
    Completes (.mtile k acc p et ovw) s (fun t => ArrDone s' t nd (12 + (kr - 1) * h + m) hold { x.useArrays.mx with group := some 0, rows := kr * m } x.sq
      ((List.range kr).flatMap (fun j => (if j = 0 then [] else [⟨x.cnt + j * h, 200, .mtSel j⟩]) ++
          (List.range m).map (fun i => ⟨x.cnt + 4 + j * h + i, 200,
            .mtStep j (kr * m - (j * m + i + 1)) (i + 1 == m) (acc.toNat + i) (xs.getD (j * m + i) 0) et.toNat (ovw && j == 0)⟩)) ++
        [⟨x.cnt + 1, 3, .areg r (x.areg r + BitVec.ofNat 64 (kr * m))⟩, x.due .mx 4 (.latch 0 0 (x.kRow 0)), ⟨x.cnt + hold, 201, .mtEnd⟩]))

/-- R367, R370, R371, R374: what an array form, an `MTILE` or an `MSPX` traps on once it starts: an invalid pattern, the wrong sparsity for the form, causal factors with an
integer type and masks that do not keep N elements are ILLINSN, as are a shape and an accumulator range that `MTILE` does not have; a span outside the
scratchpad or off a multiple of 32 is ADDR. -/
def Obligations.ArrayTraps : Prop :=
  (∀ (s s' : State) (k : MTok) (acc : BitVec 7) (p et : BitVec 3) (ovw : Bool),
    let x := s'.tile s.cur.tile
    let trap := fun (i : Instr) (code : Nat) => wellFormed i = true → exec i s = .next (s'.trapCur code 0)
    let mma := Instr.mma k acc p et ovw
    let mmas := Instr.mmas k acc p et ovw
    let mmax := Instr.mmax k acc p et ovw
    let mtile := Instr.mtile k acc p et ovw
    let a := (x.patAddr p.toNat (x.areg (8 + p.toNat))).toNat
    let float := (mxFmt et.toNat).isSome
    let m := x.bound p.toNat 0
    let kr := x.bound p.toNat 1
    let shape := x.mx.mode < 2 ∧ m ≤ 128 ∧ kr ≤ 16 ∧ x.bound p.toNat 2 = 1 ∧ x.bound p.toNat 3 = 1 ∧ acc.toNat + m - 1 ≤ 127
    (SyncStarts s k.tok.dly k.stamp (mxNeeds k true) s' →
      (x.patOk p.toNat = false → trap mma tILLINSN ∧ trap mmas tILLINSN ∧ trap mmax tILLINSN ∧ trap mtile tILLINSN) ∧
      (x.mx.spn ≠ 0 → trap mma tILLINSN ∧ trap mmax tILLINSN ∧ trap mtile tILLINSN) ∧ (x.mx.spn = 0 → trap mmas tILLINSN) ∧
      (x.mx.mode = 2 → float = false → trap mma tILLINSN ∧ trap mmas tILLINSN ∧ trap mmax tILLINSN) ∧ (¬shape → trap mtile tILLINSN) ∧
      (x.patOk p.toNat = true → (x.mx.mode = 2 → float = true) →
        (x.mx.spn = 0 → spanOk a 384 = false → trap mma tADDR ∧ trap mmax tADDR) ∧
        (x.mx.spn ≠ 0 → spanOk a (spanOf .sparse x.mx.spn) = false → trap mmas tADDR) ∧
        (x.mx.spn ≠ 0 → spanOk a (spanOf .sparse x.mx.spn) = true → x.masksOk et.toNat = false → trap mmas tILLINSN)) ∧
      (x.patOk p.toNat = true → x.mx.spn = 0 → shape → (∃ b ∈ x.patAddrs p.toNat (8 + p.toNat) (kr * m), spanOk b 384 = false) → trap mtile tADDR)) ∧
    (SyncStarts s k.tok.dly k.stamp (mxNeeds k false) s' →
      (x.patOk p.toNat = false → trap (.mspx k p) tILLINSN) ∧
      (x.patOk p.toNat = true → (∃ b ∈ x.patAddrs p.toNat (8 + p.toNat) 48, spanOk b 512 = false) → trap (.mspx k p) tADDR))) ∧
  (∀ (s s' : State) (k : MTok) (op : BitVec 3) (ps : BitVec 6),
    SyncStarts s k.tok.dly k.stamp (sqNeeds k) s' →
    let x := s'.tile s.cur.tile
    let n := imgK (x.op op.toNat)
    let trap := fun (i : Instr) (code : Nat) => wellFormed i = true → exec i s = .next (s'.trapCur code 0)
    let st := slotState (x.desc ps.toNat)
    (∀ va vb : BitVec 7, x.opValid op.toNat = false ∨ 128 < va.toNat + n ∨ 128 < vb.toNat + n → trap (.slbk k op va vb) tILLINSN) ∧
    (∀ (o : BitVec 4) (v : BitVec 6), x.opValid op.toNat = false ∨ st < 2 ∨ 16 < o.toNat + n ∨ 64 < v.toNat + n → trap (.step k ps o op v) tILLINSN) ∧
    (x.slotFree ps.toNat = false → trap (.pbind k ps) tILLINSN ∧ ∀ ph, trap (.pbindPair k ps ph) tILLINSN ∧ trap (.pbindPair k ph ps) tILLINSN) ∧
    trap (.pbindPair k ps ps) tILLINSN ∧ (st ≠ 1 → st ≠ 2 → trap (.punb k ps) tILLINSN) ∧ (st ≠ 2 → st ≠ 3 → trap (.pshd k ps) tILLINSN) ∧
    (∀ (r : BitVec 4) (v : BitVec 7), x.slotFree ps.toNat = true → trap (.pld k ps r v) tADDR ∧ trap (.pst k ps r v) tADDR))

/-- R373–R378: the selection, mask, scale, wake and accumulator words complete: the latch is due at issue + 4, the 48 mask rows are read from issue + 1 on, the pointers and the
causal mode change at issue + 1, the woken sub-arrays are ungated at issue + 24, cleared and copied accumulators are due at issue + 3 and a transposed block at
issue + 6, each computed from the registers at issue.
Reading at issue what the rule reads at issue + 1, and what wakes a gated sub-array, are the model's reading (log entries 16 and 23). -/
def Obligations.MatrixMovesComplete : Prop :=
  ∀ (s s' : State) (k : MTok),
    let x := s'.tile s.cur.tile
    let ready := fun (arrays : Bool) (i : Instr) => SyncStarts s k.tok.dly k.stamp (mxNeeds k arrays) s' ∧ wellFormed i = true
    let done := fun (i : Instr) (lat : Nat) (l : List Pend) =>
      ready false i → Completes i s (fun t => ArrDone s' t (mxNeeds k false) lat 1 x.mx x.sq l)
    (∀ (spn : BitVec 2) (ksel : BitVec 4), ready true (.mbsel k spn ksel) →
      Completes (.mbsel k spn ksel) s (fun t => ArrDone s' t (mxNeeds k true) 4 1 x.useArrays.mx x.sq [x.due .mx 4 (.latch ksel.toNat spn.toNat (x.kRow ksel.toNat))])) ∧
    (∀ p : BitVec 3, let r := 8 + p.toNat
      let xs := x.patAddrs p.toNat r 48
      ready false (.mspx k p) → x.patOk p.toNat = true → (∀ a ∈ xs, spanOk a 512 = true) →
      Completes (.mspx k p) s (fun t => ArrDone s' t (mxNeeds k false) 51 48 { x.mx with msrc := x.patternSnapshot p.toNat } x.sq
        ((List.range 48).map (fun j => ⟨x.cnt + 1 + j, 1, .mspxRead j (xs.getD j 0)⟩) ++ [⟨x.cnt + 1, 3, .areg r (x.areg r + 48)⟩]))) ∧
    (∀ (b : BitVec 1) (a : BitVec 11), done (.mscl k b a) 1 [x.due .mx 1 (.mscl b.toNat a.toNat)]) ∧
    (∀ (m : BitVec 2) (b : BitVec 7) (r q : BitVec 4), done (.mmsk k m b r q) 1 [x.due .mx 1 (.mmsk m.toNat b.toNat r.toNat q.toNat)]) ∧
    (∀ m : BitVec 4, ready false (.mwake k m) → Completes (.mwake k m) s (fun t =>
      ∃ idle, (∀ i, get 0 idle i = if i < 4 ∧ m.getLsbD i = true then x.cnt else get 0 x.mx.idle i) ∧
        ArrDone s' t (mxNeeds k false) 24 1 { x.mx with idle := idle } x.sq [⟨x.cnt + 24, 0, .ungate m⟩])) ∧
    (∀ (d : BitVec 7) (n : BitVec 5), done (.maclr k d n) 3 ((List.range (n.toNat + 1)).map (fun j => x.due .mx 3 (.row (d.toNat + j) 0)))) ∧
    (∀ (d r : BitVec 7) (n : BitVec 5), done (.macmv k d r n) 3 ((List.range (n.toNat + 1)).map (fun j => x.due .mx 3 (.row (d.toNat + j) (x.row (r.toNat + j)))))) ∧
    (∀ (d r : BitVec 7) (g : BitVec 2), done (.mtrn k d r g) 6 ((List.range 32).map (fun i => x.due .mx 6 (.laneG (d.toNat + i) g.toNat
      (BitVec.ofNat 1024 (packLanes 32 ((List.range 32).map (fun j => lane (x.row (r.toNat + j)) 32 (32 * g.toNat + i)))))))))

/-! ### SQ -/

/-- R193, R206, R211, R214, R381, R383, R385–R387: the words of SQ that stay in their tile complete: a valid image goes into its slot at issue + 2, `SLBK` and `STEP` put the combine of
their two elements into their destinations at issue + 5 + n, where `STEP` reads its elements at issue + 1, a `STEP` on a HELD pair writes nothing, a descriptor change is due
at issue + 1, a Pound row that is read at issue + 1 lands at issue + 4, and one is written at issue + 1. -/
def Obligations.ScanWordsComplete : Prop :=
  ∀ (s s' : State) (k : MTok) (op : BitVec 3) (ps : BitVec 6),
    let nd := sqNeeds k
    SyncStarts s k.tok.dly k.stamp nd s' →
    let x := s'.tile s.cur.tile
    let img := x.op op.toNat
    let n := imgK img
    let done := fun (i : Instr) (lat hold : Nat) (l : List Pend) =>
      wellFormed i = true → Completes i s (fun t => ArrDone s' t nd lat hold x.mx x.sq l)
    let st := slotState (x.desc ps.toNat)
    (∀ v : BitVec 7, imageOk (BitVec.ofNat 1024 (x.row v.toNat).toNat) = true →
      done (.sopdef k op v) 2 2 [x.due .sq 2 (.opslot op.toNat (BitVec.ofNat 1024 (x.row v.toNat).toNat))]) ∧
    (∀ va vb : BitVec 7, x.opValid op.toNat = true → va.toNat + n ≤ 128 → vb.toNat + n ≤ 128 →
      done (.slbk k op va vb) (5 + imgSteps img) 1 (x.rowsDue (5 + imgSteps img) vb.toNat (combine img (x.vrows va.toNat n) (x.vrows vb.toNat n)))) ∧
    (∀ (o : BitVec 4) (v : BitVec 6), x.opValid op.toNat = true → 2 ≤ st → o.toNat + n ≤ 16 → v.toNat + n ≤ 64 →
      let live := (x.livePair ps.toNat).1
      let shad := (x.livePair ps.toNat).2
      (∀ t : Tile, let r := combine img (t.prows live o.toNat n) (t.vrows v.toNat n)
        let lat := 4 + imgSteps img
        t.landed (.stepRead img live shad o.toNat v.toNat) = { t with pend := landAll (t.poundDue lat shad o.toNat r ++ t.rowsDue lat (64 + v.toNat) r) t.pend }) ∧
      done (.step k ps o op v) (5 + imgSteps img) 1 (if slotHeld (x.desc live) then [] else [⟨x.cnt + 1, 1, .stepRead img live shad o.toNat v.toNat⟩])) ∧
    (x.slotFree ps.toNat = true → done (.pbind k ps) 1 1 [⟨x.cnt + 1, 2, .pair 0 ps.toNat 0⟩]) ∧
    (∀ ph : BitVec 6, x.slotFree ps.toNat = true → x.slotFree ph.toNat = true → ps ≠ ph →
      done (.pbindPair k ps ph) 1 1 [⟨x.cnt + 1, 2, .pair 1 ps.toNat ph.toNat⟩]) ∧
    (st = 1 ∨ st = 2 → done (.punb k ps) 1 1 [⟨x.cnt + 1, 2, .pair 2 ps.toNat 0⟩]) ∧
    (st = 2 ∨ st = 3 → done (.pshd k ps) 1 1 [⟨x.cnt + 1, 2, .pair 3 ps.toNat 0⟩]) ∧
    (∀ (r : BitVec 4) (v : BitVec 7), x.slotFree ps.toNat = false →
      ReadLands (.pldRead ps.toNat r.toNat v.toNat) .sq 3 (fun t => .row v.toNat (t.poundRow ps.toNat r.toNat)) ∧
      done (.pld k ps r v) 4 1 [⟨x.cnt + 1, 1, .pldRead ps.toNat r.toNat v.toNat⟩] ∧
      done (.pst k ps r v) 1 1 [x.due .sq 1 (.pound ps.toNat r.toNat (x.row v.toNat))])

/-- R195–R204, R382: a Flight form that starts with a valid slot, a legal range and a legal leaf count completes: the unit is taken by the form with the image, the element and the
leaf count of this cycle, SQ.MSTEP shows its first phase, its destination rows are due at the latency of its form, and, but for `SDN`, the leaf (the identity beyond the
leaves) goes into the working slot at issue + 1 as tree value and as e(r). It traps on an invalid operator, a range beyond v127, a leaf count of 0 or above the gang, and a free working slot.
When SQ.MSTEP changes is the model's reading (log entry 52). -/
def Obligations.FlightsComplete : Prop :=
  ∀ (s s' : State) (k : MTok) (op : BitVec 3) (ws : BitVec 6) (v : BitVec 7),
    let nd := { sqNeeds k with unit := true }
    SyncStarts s k.tok.dly k.stamp nd s' →
    let x := s'.tile s.cur.tile
    let img := x.op op.toNat
    let n := imgK img
    let leaves := wfld x.sq.cfg 0 16
    let bad := x.opValid op.toNat = false ∨ 128 < v.toNat + n ∨ leaves = 0 ∨ x.id.gsize < leaves
    let rows := x.vrows v.toNat n
    let e := if x.id.rank < leaves then rows else identRows img
    let flight := fun (i : Instr) (form : FlightForm) (leaf : Bool) => wellFormed i = true →
      (bad → exec i s = .next (s'.trapCur tILLINSN 0)) ∧
      (¬bad → x.slotFree ws.toNat = true → exec i s = .next (s'.trapCur tADDR 0)) ∧
      (¬bad → x.slotFree ws.toNat = false → Completes i s (fun t =>
        SyncDone s' t 1 ((if leaf then x.poundDue 1 ws.toNat 0 e ++ x.poundDue 1 ws.toNat 8 e else []) ++
          [x.due .sq (flightLat form (s'.gangLog2 s.cur.tile) n (imgSteps img)) (.flightOut x.sq.flights)]) ∧
        (t.tile s.cur.tile).mx = x.mx ∧ (t.tile s.cur.tile).queue = x.queue ∧
        (t.tile s.cur.tile).sq = { x.sq with
          flight := some {
            form := form, img := img, k := n, nstep := imgSteps img, nleaf := leaves, ws := ws.toNat, v := v.toNat, issue := x.cnt, lev := 0,
            inbox := none, agg := none, seed := rows, miss := none, pushes := nd.outs, num := x.sq.flights, pc := s.cur.q.addr,
            fin := x.cnt + flightLat form (s'.gangLog2 s.cur.tile) n (imgSteps img), last := x.cnt + 4, stages := form.stages (s'.gangLog2 s.cur.tile),
            born := s.stamp, res := none, above := none },
          flights := x.sq.flights + 1, mstep := mstepWord true (flightPhase form (s'.gangLog2 s.cur.tile) 0).1 (flightPhase form (s'.gangLog2 s.cur.tile) 0).2 ws.toNat }))
    flight (.scan k op ws v) .scan true ∧ flight (.sup k op ws v) .sup true ∧ flight (.sdn k op ws v) .sdn false ∧ flight (.sxsc k op ws v) .sxsc true

/-- R54, R57, R105–R107, R207, R384: `SCSND` over a channel that allows it to a tile that can be reached, with allowance free, has handed its K rows to the network and holds SQ until the
arrival is acknowledged; between packages it takes any port of the route mask that is up and that the bridges reach (R13, R54). Without the allowance the column holds, a stamped word with what is held for it. A channel
check that fails is the CHANNEL trap with the subcause of the first, and a tile out of reach the TOWPATH trap. `SCRCV` takes the oldest entry of its source and tag, whose rows are due at
issue + 4. -/
def Obligations.CarriesComplete : Prop :=
  ∀ (s s' : State) (k : MTok) (ch tag : BitVec 8) (rb : BitVec 3),
    let m := s.cur.tile
    let x := s'.tile m
    let src := chPlace (x.chan ch.toNat)
    let n := wfld x.sq.cfg 16 2 + 1
    (SyncStarts s k.tok.dly k.stamp (sqNeeds k) s' → wellFormed (.scsnd k ch tag rb) = true →
      let check := s'.chanCheck m ch.toNat ⟨[1], permSend, [], 512 * n⟩
      (∀ sub, check = some sub → exec (.scsnd k ch tag rb) s = .next (s'.trapCur tCHANNEL sub)) ∧
      (check = none → s'.carryGoes m src = false → exec (.scsnd k ch tag rb) s = .next (s'.trapCur tTOWPATH 0)) ∧
      (check = none → s'.carryGoes m src = true → x.allowOk ch.toNat (512 * n) = false → ∃ u, exec (.scsnd k ch tag rb) s = .next u ∧ u.carries = s.carries ∧
        (k.stamp = none ∨ s.cur.body = true → u = s') ∧ (k.stamp ≠ none → s.cur.body = false → ((u.tile m).col s.cur.col).st = .issueAt x.cnt)) ∧
      (check = none → s'.carryGoes m src = true → x.allowOk ch.toNat (512 * n) = true → Completes (.scsnd k ch tag rb) s (fun t =>
        let y := t.tile m
        (∃ port, t.carries = s.carries ++ [⟨s.place m, src, tag, x.vrows (16 * rb.toNat) n, x.en.nextKey, ch.toNat, s.cur.q.addr, s.boundFor src,
            { s.hop src with port := port }, x.id.part⟩] ∧
          (src.pkg = s.pkg → port = none) ∧ ∀ p, port = some p → p ∈ s.outPorts src.pkg ∧ s.joined (dieOf m) (portDie p) = true) ∧
        (y.col .sq).ackKey = some x.en.nextKey ∧ (y.col .sq).ackToks = (sqNeeds k).outs ∧
        get 0 y.en.allow ch.toNat = get 0 x.en.allow ch.toNat + 512 * n ∧ { y.en with allow := x.en.allow, nextKey := x.en.nextKey } = x.en ∧
        { t with tiles := s.tiles, carries := s.carries, packets := s.packets, free := s.free } = s ∧ (∀ j, j ≠ m → t.tile j = s.tile j) ∧
        y.ct = x.ct ∧ y.st = x.st ∧ y.mx = x.mx ∧ y.sq = x.sq ∧ y.id = x.id ∧ y.wa = x.wa ∧ y.cnt = x.cnt ∧ y.pend = x.pend ∧ y.queue = x.queue ∧ y.cache = x.cache))) ∧
    (let check := s.chanCheck m ch.toNat ⟨[1], permRecv, [], 0⟩
      let nd := { sqNeeds k with carry := if check.isSome then none else some (src, tag) }
      SyncStarts s k.tok.dly k.stamp nd s' → wellFormed (.scrcv k ch tag rb) = true →
      (∀ sub, check = some sub → exec (.scrcv k ch tag rb) s = .next (s'.trapCur tCHANNEL sub)) ∧
      (check = none → let c := takeCarry src tag x.sq.carries
        Completes (.scrcv k ch tag rb) s (fun t => ArrDone s' t nd 4 1 x.mx { x.sq with carries := c.1 } (x.rowsDue 4 (16 * rb.toNat) c.2))))

/-- R388: `PSPILL` and `PFILL` with an address that is a multiple of 512, a bound slot and room in the queue of the state-spill engine pop their address and queue their command,
and the slot is BUSY; another address is ILLINSN, a free slot ADDR. With no room the column holds the word, a stamped one with what is held for it. -/
def Obligations.SpillWordsComplete : Prop :=
  ∀ (s s' : State) (k : MTok) (ps sw sr : BitVec 6) (now : Bool),
    let nd := { sqNeeds k with pops := [0] }
    SyncStarts s k.tok.dly k.stamp nd s' →
    let m := s.cur.tile
    let x := s'.tile m
    let a := qWordOf (x.front 0)
    let spill := fun (i : Instr) => wellFormed i = true →
      (a.toNat % 512 ≠ 0 → exec i s = .next (s'.trapCur tILLINSN 0)) ∧
      (a.toNat % 512 = 0 → x.slotFree ps.toNat = true → exec i s = .next (s'.trapCur tADDR 0)) ∧
      (a.toNat % 512 = 0 → x.slotFree ps.toNat = false → spillDepth ≤ x.en.spq.length → exec i s = .next (s'.keepWord nd k.stamp)) ∧
      (a.toNat % 512 = 0 → x.slotFree ps.toNat = false → x.en.spq.length < spillDepth → Completes i s (fun t =>
        let y := t.tile m
        (∃ c : Cmd, y.en = { x.en with spq := x.en.spq ++ [c], nextKey := x.en.nextKey + 1 } ∧ c.instr = i ∧ c.ops = [a] ∧ c.key = x.en.nextKey ∧ c.started = false ∧
          c.await = (if now then none else some (sw.toNat, 1)) ∧ c.raise = some sr.toNat) ∧
        slotBusy (y.desc ps.toNat) = true ∧ slotState (y.desc ps.toNat) = slotState (x.desc ps.toNat) ∧ slotPair (y.desc ps.toNat) = slotPair (x.desc ps.toNat) ∧
        slotHeld (y.desc ps.toNat) = slotHeld (x.desc ps.toNat) ∧ (∀ j, j ≠ ps.toNat → y.desc j = x.desc j) ∧
        (∀ q, y.queue q = if q = 0 then (x.queue 0).tail else x.queue q) ∧
        OnlyTile s t m ∧ y.ct = x.ct ∧ y.mx = x.mx ∧ y.sq = x.sq ∧ y.cnt = x.cnt ∧ y.pend = landAll (tokLandings x nd 1) x.pend))
    spill (.pspill k ps sw sr now) ∧ spill (.pfill k ps sw sr now)

/-! ### CE and LK -/

/-- R107, R163, R333–R343: a CE word whose earlier commands have all started and whose operands and room are there: an operand outside its limits is the ILLINSN trap, a scratchpad
range that does not lie inside the scratchpad ADDR, a failing channel or group check CHANNEL with the subcause of the first, in this order; otherwise it completes: its
operands have been popped, and its command, not yet started, stands last in the engine.
That reserved fields are checked before the pops, that the source of `ACCW` is aligned to its element, and that `MRECV` counts no bytes against the allowance, are the model's choice (log
entries 26, 74 and 91). -/
def Obligations.CopyEngineWordsComplete : Prop :=
  ∀ (s : State) (o : CeOp), let n := s.cur.tile
    let x := s.tile n
    x.faulted .ce = false → (∀ c ∈ x.en.ceq, c.started = true) →
    let word := fun (i : Instr) (ks pushes : List Nat) (alw : List Nat → Nat) (lim rng : List Nat → Prop) (chk : List Nat → Option Nat) =>
      let p := x.popOps ks
      let l := p.2.map (·.toNat)
      x.popsOk ks = true → x.pushesOk pushes = true → wellFormed i = true →
      (¬lim l → exec i s = .next (s.trapCur tILLINSN 0)) ∧ (lim l → ¬rng l → exec i s = .next (s.trapCur tADDR 0)) ∧
      (lim l → rng l → ∀ sub, chk l = some sub → exec i s = .next (s.trapCur tCHANNEL sub)) ∧
      (lim l → rng l → chk l = none → Completes i s (fun t => EngineFrame s t p.1 ∧
        (t.tile n).pend = x.pend ∧ (t.tile n).iq .ce = (x.iq .ce).tail ∧
        (t.tile n).en = { x.en with nextKey := x.en.nextKey + 1, ceq := x.en.ceq ++ [{ newCmd x.en.nextKey i s.cur.q.addr p.2 with
          await := if o.now then none else some (o.sw.toNat, o.thr.toNat), raise := if o.nor then none else some o.sr.toNat, scope := o.scope.toNat,
          rel := if o.rel then some o.rmask else none, chan := if o.chv then some o.ch.toNat else none, allow := if o.chv then alw l else 0, since := s.tm.pre }] }))
    let chan := fun (ranges : List (Nat × Nat)) (bytes : Nat) => if o.chv then
      s.chanCheck n o.ch.toNat ⟨if dsp o = 2 then [1] else if dsp o = 0 then [3] else [], permWrite, ranges, bytes⟩ else none
    let w := fun (l : List Nat) => lo32 (op' l 2)
    let h := fun (l : List Nat) => hi32 (op' l 2)
    let ss := fun (l : List Nat) => int32 (lo32 (op' l 3))
    let ds := fun (l : List Nat) => int32 (hi32 (op' l 3))
    let size := fun (l : List Nat) => if op' l 2 / 2 ^ 32 % 2 = 1 then 8 else 4
    word (.copy o) [0, 1, 2] [] (fun l => op' l 2) (fun l => op' l 2 < 2 ^ 32 ∧ op' l 2 % 4 = 0 ∧ op' l 0 % 4 = 0 ∧ op' l 1 % 4 = 0)
      (fun l => InSpace (ssp o) (op' l 0) (op' l 2) ∧ InSpace (dsp o) (op' l 1) (op' l 2)) (fun l => chan [(op' l 1, op' l 2)] (op' l 2)) ∧
    word (.copya o) [0, 1, 2, 3] [] (fun l => w l * h l)
      (fun l => w l % 4 = 0 ∧ op' l 0 % 4 = 0 ∧ op' l 1 % 4 = 0 ∧ ss l % 4 = 0 ∧ ds l % 4 = 0)
      (fun l => (∀ a ∈ rowEnds (op' l 0) (ss l) (h l), InSpace (ssp o) a (w l)) ∧ ∀ a ∈ rowEnds (op' l 1) (ds l) (h l), InSpace (dsp o) a (w l))
      (fun l => chan (if h l = 0 then [] else (rowEnds (op' l 1) (ds l) (h l)).map (fun a => (a, w l))) (w l * h l)) ∧
    word (.fill o) [0, 1, 2] [] (fun l => op' l 1) (fun l => op' l 1 < 2 ^ 32 ∧ op' l 1 % 4 = 0 ∧ op' l 0 % 4 = 0)
      (fun l => InSpace (dsp o) (op' l 0) (op' l 1)) (fun l => chan [(op' l 0, op' l 1)] (op' l 1)) ∧
    word (.accw o) [0, 1, 2] [] w
      (fun l => op' l 2 < 2 ^ 34 ∧ w l % size l = 0 ∧ op' l 0 % size l = 0 ∧ op' l 1 % size l = 0 ∧
        (op' l 2 / 2 ^ 33 % 2 = 1 → (opx o = 2 ∨ opx o = 3) ∧ size l = 4) ∧ (opx o = 1 → size l = 4))
      (fun l => InSpace (ssp o) (op' l 0) (w l) ∧ InSpace (dsp o) (op' l 1) (w l)) (fun l => chan [(op' l 1, w l)] (w l)) ∧
    word (.xadd o) [0, 1] [opx o % 4] (fun _ => 8) (fun l => op' l 0 % 8 = 0) (fun l => InSpace (dsp o) (op' l 0) 8) (fun l => chan [(op' l 0, 8)] 8) ∧
    word (.cas o) [0, 1, 2] [opx o % 4] (fun _ => 8) (fun l => op' l 0 % 8 = 0) (fun l => InSpace (dsp o) (op' l 0) 8) (fun l => chan [(op' l 0, 8)] 8) ∧
    word (.mcast o) [0, 1, 2] [] w (fun l => op' l 2 < 2 ^ 38 ∧ w l % 4 = 0 ∧ w l ≤ 0x200000 ∧ op' l 0 % 4 = 0 ∧ op' l 1 % 4 = 0)
      (fun l => InSpace (ssp o) (op' l 0) (w l) ∧ InSpace 1 (op' l 1) (w l))
      (fun l => s.chanCheck n o.ch.toNat ⟨[2], permWrite, [], w l⟩ (some ⟨false, false⟩)) ∧
    word (.msend o) [0, 1] [] (fun l => lo32 (op' l 1)) (fun l => op' l 1 < 2 ^ 48 ∧ lo32 (op' l 1) % 4 = 0 ∧ lo32 (op' l 1) ≤ 2 ^ 20 ∧ op' l 0 % 4 = 0)
      (fun l => InSpace (ssp o) (op' l 0) (lo32 (op' l 1))) (fun l => s.chanCheck n o.ch.toNat ⟨[1], permSend, [], lo32 (op' l 1)⟩) ∧
    word (.mrecv o) [0, 1, 2] [] (fun _ => 0) (fun l => op' l 1 < 2 ^ 49 ∧ lo32 (op' l 1) % 4 = 0 ∧ op' l 0 % 4 = 0 ∧ op' l 2 % 16 = 0)
      (fun l => InSpace (dsp o) (op' l 0) (lo32 (op' l 1))) (fun _ => s.chanCheck n o.ch.toNat ⟨[1], permRecv, [], 0⟩) ∧
    word (.cmoa o) [0, 1] [] (fun _ => 0) (fun l => op' l 1 < 2 ^ 32 ∧ op' l 1 % 4 = 0) (fun _ => True) (fun _ => none) ∧
    word (.pfb o) [0, 1] [] (fun _ => 0) (fun l => op' l 1 < 2 ^ 32 ∧ op' l 1 % 4 = 0) (fun _ => True) (fun _ => none) ∧
    word (.ceflush o) [] [] (fun _ => 0) (fun _ => True) (fun _ => True) (fun _ => if o.chv then s.chanCheck n o.ch.toNat ⟨[3], permNone, [], 0⟩ else none)

/-- R107, R389–R404: an LK word that starts with room in its engine takes its checks in the order limits, ranges and channel, those of a group with it; when all pass it completes: its operands have
been popped, its tokens are due behind issue + 1, and its command, not yet started, stands last in the engine. `COLL` also reads its record, which a fault stops with the
TRANSLATION trap.
That reserved fields are checked before the pops, and that `GET`, `RECV`, `RADD` and `GRPDEF` count no bytes against the allowance, are the model's choice (log entries 26 and 91). -/
def Obligations.LinkEngineWordsComplete : Prop :=
  ∀ (s : State) (o : LkOp), let n := s.cur.tile
    let x := s.tile n
    x.en.lkq.length < lkDepth →
    let queued := fun (s : State) (i : Instr) (k : Needs) (ks : List Nat) (allow : Nat) (buf : List Byte) => fun (t : State) =>
      let x := s.tile n
      EngineFrame s t (x.popOps ks).1 ∧ (t.tile n).pend = landAll (tokLandings x k 1) x.pend ∧
      (t.tile n).col s.cur.col = ⟨x.cnt + 1, x.cnt + 1, .untested, none, []⟩ ∧
      (t.tile n).en = { x.en with nextKey := x.en.nextKey + 1, lkq := x.en.lkq ++ [{ newCmd x.en.nextKey i s.cur.q.addr (x.popOps ks).2 with
        await := if o.now then none else some (o.sw.toNat, o.thr.toNat), raise := if o.nor then none else some o.sr.toNat, scope := o.scope.toNat,
        rel := if o.rel then some o.rmask else none, chan := if o.chv then some o.ch.toNat else none, allow := if o.chv then allow else 0, buf := buf,
        since := s.tm.pre }] }
    let word := fun (i : Instr) (ks pushes : List Nat) (alw : List Nat → Nat) (lim rng : List Nat → Prop) (chk : List Nat → Option Nat) =>
      let k := syncNeeds .lk o.tok ks pushes
      let l := (x.popOps ks).2.map (·.toNat)
      SyncStarts s o.tok.dly none k s → wellFormed i = true →
      (¬lim l → exec i s = .next (s.trapCur tILLINSN 0)) ∧ (lim l → ¬rng l → exec i s = .next (s.trapCur tADDR 0)) ∧
      (lim l → rng l → ∀ sub, chk l = some sub → exec i s = .next (s.trapCur tCHANNEL sub)) ∧
      (lim l → rng l → chk l = none → Completes i s (queued s i k ks (alw l) []))
    let chan := fun (kinds : List Nat) (perm : Nat) (ranges : List (Nat × Nat)) (bytes : Nat) => s.chanCheck n o.ch.toNat ⟨kinds, perm, ranges, bytes⟩
    let group := fun (perm bytes : Nat) => s.chanCheck n o.ch.toNat ⟨[2], perm, [], bytes⟩ (some ⟨true, false⟩)
    let kind := chKind (x.chan o.ch.toNat)
    let w := fun (l : List Nat) => lo32 (op' l 2)
    word (.send o) [0, 1] [] (fun l => op' l 1) (fun l => op' l 1 ≤ 2 ^ 20 ∧ op' l 1 % 4 = 0 ∧ op' l 0 % 4 = 0)
      (fun l => InSpace (lspBit o 0) (op' l 0) (op' l 1)) (fun l => chan [1] permSend [] (op' l 1)) ∧
    word (.recv o) [0, 1, 2] [] (fun _ => 0) (fun l => op' l 1 < 2 ^ 32 ∧ op' l 1 % 4 = 0 ∧ op' l 0 % 4 = 0 ∧ op' l 2 % 16 = 0)
      (fun l => InSpace (lspBit o 0) (op' l 0) (op' l 1)) (fun _ => chan [1] permRecv [] 0) ∧
    word (.put o) [0, 1, 2] [] w
      (fun l => op' l 2 < 2 ^ 39 ∧ w l % 4 = 0 ∧ op' l 0 % 4 = 0 ∧ op' l 1 % 4 = 0 ∧ (draiseOf (op' l 2) = true → kind ≠ 3) ∧
        (draiseOf (op' l 2) = false → dsemOf (op' l 2) = 0))
      (fun l => InSpace (lspBit o 0) (op' l 0) (w l) ∧ (kind = 1 → InSpace 1 (op' l 1) (w l))) (fun l => chan [1, 3] permWrite [(op' l 1, w l)] (w l)) ∧
    word (.get o) [0, 1, 2] [] (fun _ => 0) (fun l => op' l 2 < 2 ^ 32 ∧ op' l 2 % 4 = 0 ∧ op' l 0 % 4 = 0 ∧ op' l 1 % 4 = 0)
      (fun l => InSpace (lspBit o 0) (op' l 1) (op' l 2) ∧ (kind = 1 → InSpace 1 (op' l 0) (op' l 2))) (fun l => chan [1, 3] permRead [(op' l 0, op' l 2)] 0) ∧
    word (.append o) [0, 1, 2, 3] (appendQ o) (fun _ => 512) (fun l => op' l 3 ≤ 24 ∧ op' l 0 % 4 = 0 ∧ op' l 1 % 8 = 0 ∧ op' l 2 % 512 = 0)
      (fun l => InSpace (lspBit o 3) (op' l 0) 512) (fun l => chan [3] permSend [(op' l 1, 8), (op' l 2, 512 * 2 ^ op' l 3)] 512) ∧
    word (.radd o) [0, 1, 2, 3] [] (fun _ => 0)
      (fun l => op' l 2 < 2 ^ 34 ∧ w l % 4 = 0 ∧ w l % redSize o.fn.toNat = 0 ∧ op' l 0 % 4 = 0 ∧ op' l 1 % 4 = 0 ∧ op' l 3 % 8 = 0)
      (fun l => InSpace 1 (op' l 0) (w l) ∧ InSpace 1 (op' l 1) (w l)) (fun _ => group permRecv 0) ∧
    word (.pred o) [0, 1, 2, 3] [] (fun l => 8 * op' l 2) (fun l => op' l 2 ≤ 65536 ∧ op' l 0 % 4 = 0 ∧ op' l 1 % 4 = 0 ∧ op' l 3 % 8 = 0)
      (fun l => InSpace (lspBit o 0) (op' l 0) (8 * op' l 2) ∧ InSpace (lspBit o 0) (op' l 1) (8 * op' l 2))
      (fun l => group permWrite (8 * op' l 2)) ∧
    word (.lbar o) [0] [] (fun _ => 0) (fun l => op' l 0 % 8 = 0) (fun _ => True) (fun _ => group permNone 0) ∧
    word (.grpdef o) [0, 1] [] (fun _ => 0) (fun l => op' l 0 % 16 = 0 ∧ op' l 1 % 8 = 0) (fun _ => True) (fun _ => chan [2] permWrite [] 0) ∧
    word (.lquiet o) [] [] (fun _ => 0) (fun _ => True) (fun _ => True) (fun _ => none) ∧
    word (.lfence o) [] [] (fun _ => 0) (fun _ => True) (fun _ => True) (fun _ => none) ∧
    (let k := syncNeeds .lk o.tok [0, 1] []
      let r := (qWordOf (x.front 0)).toNat
      let st := (qWordOf (x.front 1)).toNat
      SyncStarts s o.tok.dly none k s → wellFormed (.coll o) = true →
      (r % 128 ≠ 0 ∨ st % 8 ≠ 0 → exec (.coll o) s = .next (s.trapCur tILLINSN 0)) ∧
      (r % 128 = 0 → st % 8 = 0 →
        (s.cutOff (dieOf n) r = true → exec (.coll o) s = .next (s.trapXlat n (colCode .lk) s.cur.q.addr r 0 ⟨2, 0⟩ false)) ∧
        (s.cutOff (dieOf n) r = false → ∀ s' f, s.coRead x.id.part r 128 .rd = (s', .fault f) → exec (.coll o) s = .next (s'.trapXlat n (colCode .lk) s.cur.q.addr r 0 f false)) ∧
        (s.cutOff (dieOf n) r = false → ∀ s' b, s.coRead x.id.part r 128 .rd = (s', .ok b) → collBad b = none →
          s'.chanCheck n o.ch.toNat ⟨[2], permWrite, [], collTotal b * collLen b⟩ (some ⟨true, false⟩) = none →
          Completes (.coll o) s (fun t => MemOnly s s' ∧ queued s' (.coll o) k [0, 1] (collTotal b * collLen b) b t))))

/-! ### Logit programs -/

/-- R407: the logit words that work on registers alone complete on every running program: lane x of D, or the k register, gets the value of its row, and the next word follows.
The precision at which the sampled functions are rounded and the zero of a logarithm are the model's reading (log entries 19 and 59). -/
def Obligations.LogitRegisterWordsComplete : Prop :=
  ∀ (s : State) (j : Job), let die := s.cur.tile / 4
    let eng := s.cur.tile % 4
    s.job die 0 = some j →
    let sl := s.sluice die eng
    let next := sl.pc + 1 + (match s.cur.q.ext with | some _ => 1 | none => 0)
    let l := fun (r : BitVec 4) => sl.lreg j.shn r
    let f := fun (r : BitVec 3) => valL (sl.kreg r)
    let done := fun (i : Instr) (x : Sluice) => wellFormed i = true → Completes i s (fun t => t = s.setSluice die eng { x with pc := next })
    let map := fun (i : Instr) (d a : BitVec 4) (g : Nat → Lane → Lane) => done i (sl.setL d ((l a).mapIdx g))
    (∀ (d a b c : BitVec 4) (k cmp : BitVec 3), let at' := fun (r : BitVec 4) (i : Nat) => (l r).getD i 0;
      map (.lsubx d a k) d a (fun _ v => rneL (addV false (valL v) (f k).neg)) ∧
      map (.ladd d a b) d a (fun i v => rneL (addV false (valL v) (valL (at' b i)))) ∧ map (.laddK d a k) d a (fun _ v => rneL (addV false (valL v) (f k))) ∧
      map (.lmov d a) d a (fun _ v => v) ∧ done (.lmovK d k) (sl.setL d (List.replicate j.shn (sl.kreg k))) ∧
      map (.lcmp d a b cmp) d a (fun i v => if cmpLane 0 cmp.toNat v.toNat (at' b i).toNat then 0x3F800000 else 0) ∧
      map (.lcmpK d a k cmp) d a (fun _ v => if cmpLane 0 cmp.toNat v.toNat (sl.kreg k).toNat then 0x3F800000 else 0) ∧
      map (.lsel d a b c) d a (fun i v => if (valL (at' c i)).isZero then at' b i else v) ∧
      map (.lgumb d a) d a (fun i v => rneL (addV false (valL v) (dec f32 (gumbelOf (philox (get 0 s.key j.part)
        (j.pos die * j.shn + i, sdStep sl.desc, sdSeq sl.desc, sdSalt sl.desc) 0))))) ∧
      done (.llogp d a) (sl.setL d ((l a).map (fun v => logpLane ((l a).map valL) (valL v)))) ∧
      done (.ltopk d a k) (sl.setL d (if j.shn ≤ (sl.kreg k).toNat then l a else keepLanes (l a) ((rankOrder (l a)).take (sl.kreg k).toNat))) ∧
      done (.larg a k) (sl.setK k (BitVec.ofNat 32 ((rankOrder (l a)).getD 0 0))) ∧
      (∀ v r, l a = v :: r → done (.lmax a k) (sl.setK k (laneOf (r.foldl (fun m w => maxF f32 m w.toNat) (maxF f32 v.toNat v.toNat))))) ∧
      done (.lsum a k 0) (sl.setK k (rneL (sumV false ((l a).map valL)))) ∧ done (.lsum a k 1) (sl.setK k (laneOf (lnSum ((l a).map valL))))) ∧
    (∀ (k c : BitVec 3) (m : BitVec 6) (int : BitVec 1), let v := sl.kreg k
      let x := valL v
      let holds := if int = 1 then (match c.toNat with | 0 => v = 0 | 1 => v ≠ 0 | 2 => v.toInt < 0 | 3 => 0 ≤ v.toInt | _ => True)
        else (match c.toNat with
          | 0 => x.isZero = true
          | 1 => x.isZero = false
          | 2 => ltV false x (.fin false 0 0) = true
          | 3 => ltV false x (.fin false 0 0) = false ∧ x.isNan = false
          | _ => True)
      (holds → done (.lskip k m int c) { sl with skip := m.toNat }) ∧ (¬holds → done (.lskip k m int c) sl))

/-- R222, R227, R407, R409: the logit words that read tables or records, or check a scalar, complete when their reads answer and the values are legal; a read that faults fails the job with
FAULT, and an illegal value with PROG (a malformed group record with BADSEQ).
The quotient of `LPEN` by zero or infinity is a free value, and the precision of the powers of `LTOPP` is the model's reading (log entries 29 and 19). -/
def Obligations.LogitTableWordsComplete : Prop :=
  ∀ (s : State) (j : Job), let die := s.cur.tile / 4
    let eng := s.cur.tile % 4
    s.job die 0 = some j →
    let sl := s.sluice die eng
    let x : LCtx := ⟨die, eng, j, sl⟩
    let n := j.shn
    let next := sl.pc + 1 + (match s.cur.q.ext with | some _ => 1 | none => 0)
    let l := fun (r : BitVec 4) => sl.lreg n r
    let done := fun (i : Instr) (s' : State) (y : Sluice) => wellFormed i = true → Completes i s (fun t => t = s'.setSluice die eng { y with pc := next })
    let fails := fun (i : Instr) (s' : State) (cause sub : Nat) => wellFormed i = true → exec i s = .next (s'.logitFail x cause sub)
    let reads := fun (s : State) (a size : Nat) (p : State → List Byte → Prop) (bad : State → Nat → Nat → Prop) =>
      (∀ s' b, jread s die j.part a size = (s', .ok b) → p s' b) ∧ ∀ s' c k, jread s die j.part a size = (s', .bad c k) → bad s' c k
    let counts := fun (i : Instr) (p : State → List Nat → Prop) => reads s (x.table s 0x20000) (2 * n) (fun s' b => p s' (elems 2 b)) (fails i)
    let header := fun (i : Instr) (p : State → Nat → Bool → Prop) => reads s (x.table s 0) 128 (fun s' b =>
      let ok := recFld b 0 4 ≤ 1024 ∧ recFld b 4 1 ≤ 1 ∧ leNat (b.drop 5) = 0
      (ok → p s' (recFld b 0 4) (recFld b 4 1 == 1)) ∧ (¬ok → fails i s' 4 0)) (fails i)
    let group := fun (i : Instr) (p : State → List Byte → Prop) => (sdGrpr sl.desc = 0 → fails i s 4 0) ∧
      (sdGrpr sl.desc ≠ 0 → reads s (sdGrpr sl.desc) 512 (fun s' g =>
        (groupOk g = true ∧ sflMemb (sdSfl sl.desc) < grN g → p s' g) ∧ (¬(groupOk g = true ∧ sflMemb (sdSfl sl.desc) < grN g) → fails i s' 2 0)) (fails i))
    let m := sflMemb (sdSfl sl.desc)
    ∀ (d a : BitVec 4) (k : BitVec 3), let v := valL (sl.kreg k)
      reads s (s.dieRel (sdLogit sl.desc) die) (4 * n) (fun s' b => done (.lldl d) s' (sl.setL d ((elems 4 b).map laneOf))) (fails (.lldl d)) ∧
      header (.lbias d a) (fun s' nb _ => reads s' (x.table s' 0x1000) (8 * nb) (fun s'' b =>
        let es := (elems 8 b).map (fun e => (e % 2 ^ 32, laneOf (e / 2 ^ 32)))
        ((∀ e ∈ es, e.1 < n) → done (.lbias d a) s'' (sl.setL d (es.foldl (fun r e => r.set e.1 (rneL (addV false (valL (r.getD e.1 0)) (valL e.2)))) (l a)))) ∧
        ((∃ e ∈ es, n ≤ e.1) → fails (.lbias d a) s'' 4 0)) (fails (.lbias d a))) ∧
      (∀ mode : BitVec 2, counts (.lpen d a k mode) (fun s' cs => ∃ free : Nat → Lane,
        done (.lpen d a k mode) { s' with free := s'.free + n } (sl.setL d ((l a).mapIdx (fun i w =>
          let c := cs.getD i 0
          if c = 0 then w
          else if mode = 0 then (if ltV false (.fin false 0 0) (valL w) then divL (free i) (valL w) v else rneL (mulV (valL w) v))
          else if mode = 1 then rneL (sumV false [valL w, (mulV (.fin false c 0) v).neg]) else rneL (sumV false [valL w, v.neg])))))) ∧
      counts (.lcnt d) (fun s' cs => done (.lcnt d) s' (sl.setL d (cs.map (fun c => rneL (.fin false c 0))))) ∧
      (let ok := v.isNan = false ∧ v.isInf = false ∧ v.isZero = false ∧ v.sign = false;
        (ok → done (.ltemp d a k) s (sl.setL d ((l a).map (fun w => divL 0 (valL w) v)))) ∧ (¬ok → fails (.ltemp d a k) s 4 0)) ∧
      header (.lmask d a) (fun s' _ gen => (gen = false → done (.lmask d a) s' (sl.setL d (l a))) ∧
        (gen = true → reads s' (x.table s' 0x4000) ((n + 7) / 8) (fun s'' b =>
          done (.lmask d a) s'' (sl.setL d ((l a).mapIdx (fun i w => if (b.getD (i / 8) 0).getLsbD (i % 8) then w else 0xFF800000)))) (fails (.lmask d a)))) ∧
      (unitOk v = false → fails (.ltopp d a k) s 4 0 ∧ fails (.lminp d a k) s 4 0) ∧
      (unitOk v = true → let vs := (l a).map valL;
        ((∃ w ∈ vs, w.isNan = true ∨ w = .inf false) ∨ (∀ w ∈ vs, w.isInf = true) → done (.ltopp d a k) s (sl.setL d (l a))) ∧
        (∀ c, (∀ w ∈ vs, w.isNan = false ∧ w ≠ .inf false) → (∃ w ∈ vs, w.isInf = false) → 1 ≤ c → c ≤ n →
          let sorted := (rankOrder (l a)).map (fun i => vs.getD i .nan)
          (l a).length = n → topEnough v sorted c = true → (∀ e, 1 ≤ e → e < c → topEnough v sorted e = false) →
          done (.ltopp d a k) s (sl.setL d (keepLanes (l a) ((rankOrder (l a)).take c)))) ∧
        ((∀ w ∈ vs, w.isNan = true) → done (.lminp d a k) s (sl.setL d ((l a).map (fun _ => 0xFF800000)))) ∧
        (∀ pre top post, vs = pre ++ top :: post → top.isNan = false → (∀ w ∈ pre, w.isNan = false → ltV false w top = true) → (∀ w ∈ post, w.isNan = false → ltV false top w = false) →
          done (.lminp d a k) s (sl.setL d (if top.isInf then l a else (l a).map (fun w => if (valL w).isNan = false ∧ minpKeep v top (valL w) = true then w else 0xFF800000))))) ∧
      done (.lldk k 1) s (sl.setK k (laneOf (sdStep sl.desc))) ∧ done (.lldk k 2) s (sl.setK k (laneOf (sdSeq sl.desc))) ∧
      done (.lldk k 3) s (sl.setK k (laneOf n)) ∧ done (.lldk k 4) s (sl.setK k (laneOf (j.pos die))) ∧
      header (.lldk k 5) (fun s' nb _ => done (.lldk k 5) s' (sl.setK k (laneOf nb))) ∧ (∀ lit, done (.lldkLit k 0 lit) s (sl.setK k lit)) ∧
      group (.lgrp k 0) (fun s' g => done (.lgrp k 0) s' (sl.setK k (laneOf (grCum g m)))) ∧
      group (.lgrp k 1) (fun s' g => done (.lgrp k 1) s' (sl.setK k (laneOf (grCum g (grLeader g))))) ∧
      group (.lgrp k 2) (fun s' g => done (.lgrp k 2) s' (sl.setK k (if grAlive g / 2 ^ m % 2 = 1 then 0x3F800000 else 0))) ∧
      group (.lgrp k 3) (fun s' g => done (.lgrp k 3) s' (sl.setK k (laneOf (grMargin g)))) ∧
      group (.lgrp k 4) (fun s' g => done (.lgrp k 4) s' (sl.setK k (rneL (.fin false (grN g) 0)))) ∧
      group (.lgrpAddcum d a) (fun s' g => done (.lgrpAddcum d a) s' (sl.setL d ((l a).map (fun w => rneL (addV false (valL w) (dec f32 (grCum g m)))))))

/-- R223, R225, R272, R407, R408: `LEMIT` as the last word but `LEND` writes the normaliser and the candidate of its sequence to AUX and keeps the pair of its first lane in rank order; `LEND`
ends the program, with the pair of a skipped sequence when nothing has been emitted; the pair that completes the part's pairs contributes them to the draw. A second `LEMIT`, one whose next
word is not `LEND` with every field 0, and a logit word with a reserved field fail the job with PROG. -/
def Obligations.LogitProgramsEnd : Prop :=
  ∀ (s : State) (j : Job), let die := s.cur.tile / 4
    let eng := s.cur.tile % 4
    s.job die 0 = some j →
    let sl := s.sluice die eng
    let x : LCtx := ⟨die, eng, j, sl⟩
    let next := sl.pc + 1 + (match s.cur.q.ext with | some _ => 1 | none => 0)
    (∀ a b, let l := sl.lreg j.shn a
      let n := sl.lreg j.shn b
      let k := (rankOrder l).getD 0 0
      wellFormed (.lemit a b) = true →
      (sl.emitted = true ∨ 2046 < sl.pc → exec (.lemit a b) s = .next (s.logitFail x 4 0)) ∧
      (sl.emitted = false → sl.pc ≤ 2046 → ∀ s' w, jread s die j.part (sdProg sl.desc + 4 * (sl.pc + 1)) 4 = (s', .ok w) →
        (leNat w ≠ 0x5C000000 → exec (.lemit a b) s = .next (s'.logitFail x 4 0)) ∧
        (leNat w = 0x5C000000 → ∀ s'', s'.putPair die j sl.seq (lnSum (n.map valL)) (n.getD k 0).toNat
            (BitVec.ofNat 64 ((j.pos die * j.shn + k) * 2 ^ 32 + (l.getD k 0).toNat)) = (s'', .ok ()) →
          Completes (.lemit a b) s (fun t => t = s''.setSluice die eng { sl with emitted := true, pc := next })))) ∧
    (sl.emitted = true → Completes .lend s (fun t => t = s.setSluice die eng { sl with running := false, pc := next })) ∧
    (sl.emitted = false → ∀ s', s.putPair die j sl.seq 0xFF800000 0x7FC00000 (BitVec.ofNat 64 (0xFFFFFFFF * 2 ^ 32 + 0x7FC00000)) = (s', .ok ()) →
      Completes .lend s (fun t => t = s'.setSluice die eng { sl with running := false, pc := next })) ∧
    (∀ i norm cand p, s.writesBehind j i = true → s.putPair die j i norm cand p = (s, .wait)) ∧
    (∀ i norm cand p s', s.writesBehind j i = false → jwrite s die j.part (j.aux + 8 * (j.nseq * j.pos die + i)) (leBytes 4 norm ++ leBytes 4 cand) = (s', .ok ()) →
      let ps := put j.pairs i p
      (ps.length < j.nseq → s.putPair die j i norm cand p = (s'.modJob die 0 (fun y => { y with pairs := ps }), .ok ())) ∧
      (j.nseq ≤ ps.length → j.drawn = none → s'.joined die (j.diem.headD die) = true → ∃ t, s.putPair die j i norm cand p = (t, .ok ()) ∧
        t.contribs = s'.contribs ++ [⟨3, j.part, j.grp, j.gen, 0, j.pos die, ps.flatMap (fun e => leBytes 8 e.2.toNat), none, s'.stamp, 0, ⟨s'.packets, none, 0⟩⟩])) ∧
    (∀ d a k, (∀ m, wellFormed (.lpen d a k m) = false → exec (.lpen d a k m) s = .next (s.logitFail x 4 0)) ∧
      (∀ c, wellFormed (.lcmpK d a k c) = false → exec (.lcmpK d a k c) s = .next (s.logitFail x 4 0)) ∧
      (∀ r, wellFormed (.lldk k r) = false → exec (.lldk k r) s = .next (s.logitFail x 4 0)) ∧
      (∀ m i c, wellFormed (.lskip k m i c) = false → exec (.lskip k m i c) s = .next (s.logitFail x 4 0)))

/-! ### Events of the package -/

/-- R28–R44: the events of power, time and telemetry take effect whenever they come. A window moves the limit toward the demand by at most one slope and is in one of the
modes of R31–R36; a telemetry register outside its rules sets BADW and stays as it is; the epoch starts when TIME.PRE reaches START; a sample
stores its 64 bytes in its slot of the ring and starts to count anew; the end of a thermal trip leaves the package as its boot does.
Estimates and readings are free values, SEQ and the memory that nothing has written, where the windows lie, and that a ring outside Wharf's own memory is neither set nor
written are the model's choice (log entries 2, 4, 5, 76 and 87). -/
def Obligations.PowerAndTimeEventsComplete : Prop :=
  ∀ s : State, let a := s.arg
    let p := s.pw
    let m := s.tm
    let becomes := fun (i : Instr) (t : State) => Completes i s (fun u => u = t)
    Completes .thermalTrip s (fun t => t.pw.held = true ∧ t.tm.run = false ∧ t.gangs = [] ∧ t.mem = [] ∧ (∀ n, (t.tile n).run = false) ∧ t.far = s.far ∧ t.host = s.host) ∧
    Completes .thermalRelease s (fun t => t.pw = Power.reset ∧ t.tm = State.reset.tm ∧ t.gangs = [] ∧ t.mem = [] ∧ t.boot = bootWord a.val ∧ t.far = s.far ∧ t.host = s.host) ∧
    (m.run = true → s.stamp % 700 = 0 → Completes .weirWindow s (fun t => ∃ l c, t.mem = s.mem ∧ t.tiles = s.tiles ∧
      l = (if p.en = true ∧ p.fresh = false then Nat.min (Nat.max t.pw.demand (p.lim - p.dn.toNat)) (p.lim + p.up.toNat) else t.pw.demand) ∧ t.pw.fresh = false ∧
      t.pw.up = p.up ∧ t.pw.dn = p.dn ∧ t.pw.seen = (if s.stamp % 700000 = 0 then 0 else p.seen) ||| BitVec.ofNat 4 (2 ^ t.pw.mode.toNat) ∧
      t.pw.seenMs = (if s.stamp % 700000 = 0 then p.seen else p.seenMs) ∧
      ((l < t.pw.demand ∧ t.pw.mode = 1 ∧ t.pw.lim = l ∧ t.pw.ballast = 0) ∨ (t.pw.demand = l ∧ t.pw.mode = 0 ∧ t.pw.lim = l ∧ t.pw.ballast = 0) ∨
        (t.pw.demand < l ∧ t.pw.mode = 2 ∧ t.pw.lim = l) ∨
        (t.pw.demand + c < l ∧ t.pw.mode = 3 ∧ t.pw.lim = t.pw.demand + c ∧ t.pw.dnExc = if p.dnExc = 0xFFFF then p.dnExc else p.dnExc + 1)))) ∧
    (m.run = false ∨ s.stamp % 700 ≠ 0 → becomes .weirWindow s) ∧
    (∀ g e, s.gangOf a.idx = some g → g.hold = some e → e ≤ s.stamp → Completes .throttleHoldEnd s (fun t =>
      t.mem = s.mem ∧ t.tiles = s.tiles ∧ (∀ h ∈ t.gangs, h.base = g.base → h.onTiles = true → h.hold = none))) ∧
    becomes .timeFreqApply { s with tm := if (if m.run then s.stamp else m.pre) % 1024 = 0 then { m with applied := m.freq } else m } ∧
    (m.arm = true → m.run = false → m.pre = m.start.toNat → becomes .epochStart { s with stamp := 0, tm := { m with run := true, arm := false } }) ∧
    (¬(m.arm = true ∧ m.run = false ∧ m.pre = m.start.toNat) → becomes .epochStart s) ∧
    becomes .ppsEdge { s with tm := { m with ppsStamp := s.stamp, ppsPre := m.pre } } ∧
    becomes .eventMessage { s with tm := { m with events := m.events ++ [if m.run then s.stamp else m.pre] } } ∧
    (m.run = true → s.stamp % 700000 = 0 → s.te.en = true → s.mem.wf = true → s.wharfRing s.te.base.toNat s.te.log2n = true → Completes .telemetrySample s (fun t =>
      let slot := s.te.base.toNat + 64 * (s.te.widx.toNat % 2 ^ s.te.log2n)
      t.mem.bytes (paKey 0 slot) 8 = leBytes 8 s.stamp ∧ t.mem.bytes (paKey 0 (slot + 8)) 6 = leBytes 6 (m.epoch.toNat + s.stamp / 700000000) ∧
      (∀ k, k < paKey 0 slot ∨ paKey 0 slot + 64 ≤ k → t.mem.read k = s.mem.read k) ∧
      t.te.widx = s.te.widx + 1 ∧ t.te.lost = (if s.te.count < 2 ^ s.te.log2n ∨ s.te.lost = 0xFFFFFFFF then s.te.lost else s.te.lost + 1) ∧
      t.pw = { p with gangCyc := 0, heldCyc := 0 } ∧ t.tiles = s.tiles ∧ t.tm = m)) ∧
    (m.run = true → s.stamp % 700000 = 0 → s.te.en = true → s.wharfRing s.te.base.toNat s.te.log2n = false → Completes .telemetrySample s (fun t => t.mem = s.mem ∧ t.tiles = s.tiles)) ∧
    (m.run = true → s.stamp % 700000 = 0 → s.te.en = false → becomes .telemetrySample { s with pw := { p with gangCyc := 0, heldCyc := 0 } }) ∧
    (a.idx = 0 → let pa := wfld a.val 6 37 * 64;
      becomes .teleWrite { s with te := if (s.te.en = true → BitVec.ofNat 64 pa = s.te.base) ∧ pa % 2 ^ (s.te.log2n + 6) = 0 then
          (if s.wharfRing pa s.te.log2n = true then { s.te with base := BitVec.ofNat 64 pa } else s.te) else { s.te with badw := true } }) ∧
    (a.idx = 1 → let n := wfld a.val 0 5;
      becomes .teleWrite { s with te := if 6 ≤ n ∧ n ≤ 16 ∧ (s.te.en = true → n = s.te.log2n) ∧ s.te.base.toNat % 2 ^ (n + 6) = 0 then
          { s.te with log2n := n, en := a.val.getLsbD 8, badw := s.te.badw && !a.val.getLsbD 9 } else { s.te with badw := true } }) ∧
    (let x := s.tile a.tile
      let idle := x.mx.idleMax ≠ 0 ∧ a.idx < 4 ∧ x.mx.idleMax.toNat ≤ x.cnt - get 0 x.mx.idle a.idx;
      Completes .subarrayGate s (fun t => OnlyTile s t a.tile ∧
        t.tile a.tile = { x with mx := { x.mx with gated := if idle then x.mx.gated ||| BitVec.ofNat 4 (2 ^ a.idx) else x.mx.gated } }))

/-- R32, R41: a write to WEIR.SLOPE with 0 or more than 10,000 in either field leaves the whole register unchanged and sets WEIR.STAT.BADW, and any other one is taken. A write to
TIME.FREQ outside ±109,951,162 leaves the register unchanged and sets TIME.CTL.BADW, and so does a write to TIME.START with ARM set of a value at or below TIME.PRE, which also clears
ARM; any other write to TIME.FREQ is taken, and one to TIME.START while RUN is 0 (R40); one while RUN is 1 leaves it unchanged (R435). -/
def Obligations.RefusedRegisterWrites : Prop :=
  ∀ s : State,
    let p := s.pw
    let m := s.tm
    let becomes := fun (i : Instr) (t : State) => Completes i s (fun u => u = t)
    (let up := wfld s.arg.val 16 14
      let dn := wfld s.arg.val 0 14;
      (up = 0 ∨ 10000 < up ∨ dn = 0 ∨ 10000 < dn → becomes .weirSlopeWrite { s with pw := { p with badw := true } }) ∧
      (up ≠ 0 → up ≤ 10000 → dn ≠ 0 → dn ≤ 10000 → becomes .weirSlopeWrite { s with pw := { p with up := BitVec.ofNat 14 up, dn := BitVec.ofNat 14 dn } })) ∧
    (let v := (s.arg.val.setWidth 32 : BitVec 32);
      (v.toInt < -109951162 ∨ 109951162 < v.toInt → becomes .timeFreqWrite { s with tm := { m with badw := true } }) ∧
      (-109951162 ≤ v.toInt → v.toInt ≤ 109951162 → becomes .timeFreqWrite { s with tm := { m with freq := v } })) ∧
    (let v := s.arg.val;
      (m.arm = true → v.toNat ≤ m.pre → becomes .timeStartWrite { s with tm := { m with badw := true, arm := false } }) ∧
      (m.arm = false ∨ m.pre < v.toNat → m.run = false → becomes .timeStartWrite { s with tm := { m with start := v } }) ∧
      (m.arm = false ∨ m.pre < v.toNat → m.run = true → (v = m.start → becomes .timeStartWrite s) ∧
        Completes .timeStartWrite s (fun t => t = { s with tm := { m with badw := t.tm.badw } })))

/-- R19, R22, R108, R109, R112, R113, R115, R116, R119, R167, R432: package reset leaves no gang, no job and no traffic, every partition, die and tile as after reset (but for the outcome of the tests at boot), and what lies outside the
package as it was. A trigger of a partition reset is ignored while DISABLED and counted during a sequence; otherwise the sequence starts: no gang of the partition is left, vector 15 is
signalled once (pending while it is masked), and the partition drains. The sequence waits for Wharf after its abort, 64 c after the trigger (R432), clears the owned tiles, translations and
groups once nothing is outstanding and no slice holds dirty bytes of their caches (R87, R90), and ends STOPPED.
What unwritten memory reads as, the registers without a stated reset value, that the package number and the state of bridges and CXL ports stay over a reset, the tests' outcome, the phases'
moments, that a masked signal sets its pending bit, and when a queue's watchdog runs are the model's choice (log entries 2, 3, 6, 38, 43, 61, 85 and 99). -/
def Obligations.ResetEventsComplete : Prop :=
  ∀ s : State, let a := s.arg
    let p := a.part
    let x := s.part p
    let becomes := fun (i : Instr) (t : State) => Completes i s (fun u => u = t)
    let boots := fun (t : State) => t.stamp = 0 ∧ t.tm = State.reset.tm ∧ t.gangs = [] ∧ t.mem = [] ∧ t.msgs = [] ∧ t.blocks = [] ∧ t.carries = [] ∧ t.contribs = [] ∧ t.reds = [] ∧
      (∀ k, t.part k = Part.reset) ∧ (∀ k, t.die k = Die.reset k) ∧
      (∀ n, { t.tile n with wa := Watch.reset, st := { (t.tile n).st with health := Stores.reset.health } } = Tile.reset) ∧
      t.boot = bootWord a.val ∧ t.pkg = s.pkg ∧ t.host = s.host ∧ t.far = s.far ∧ t.bridges = s.bridges ∧ t.cxlUp = s.cxlUp ∧ t.pw = { Power.reset with held := s.pw.held }
    let signalled := fun (t : State) => (s.masked p 15 = false → t.msi = s.msi ++ [(p, 15)]) ∧ (s.masked p 15 = true → t.msi = s.msi ∧ (p, 15) ∈ t.pba)
    let trigger := fun (i : Instr) (cause qn : Nat) =>
      (x.st = 0 → becomes i s) ∧ (x.st ≠ 0 → x.phase ≠ 0 → becomes i (s.modPart p (fun y => { y with trig := Nat.min 255 (y.trig + 1) }))) ∧
      (x.st ≠ 0 → x.phase = 0 → Completes i s (fun t => (∀ g ∈ t.gangs, g.part ≠ p) ∧ signalled t ∧ (t.part p).st = 3 ∧ (t.part p).phase = 2 ∧
        (t.part p).cause = cause ∧ (t.part p).causeQ = qn ∧ (t.part p).awaitGo = false ∧ (t.part p).reserve = none))
    Completes .packageReset s boots ∧ Completes .securityCoreError s boots ∧
    trigger .flr 6 0 ∧ (a.val.getLsbD 0 = true → a.sub ≠ 2 → trigger .partCtlRst 5 0) ∧ (a.val.getLsbD 0 = false ∨ a.sub = 2 → becomes .partCtlRst s) ∧
    (a.val.getLsbD 1 = true → trigger .partRstTrig (if a.flag = true ∧ [3, p] ∈ s.notices then 7 else 5) 0) ∧ (a.val.getLsbD 1 = false → becomes .partRstTrig s) ∧
    (let q := s.queue p a.idx
      let late := wfld q.ctl 32 32 ≠ 0 ∧ wfld q.ctl 32 32 * 700 ≤ q.dog ∧ x.st = 2 ∧ s.resident p a.idx = true;
      (late → trigger .watchdogExpiry 4 a.idx) ∧ (¬late → becomes .watchdogExpiry s)) ∧
    (x.phase = 2 → x.phaseAt + 64 ≤ s.tm.pre → (∀ g ∈ s.gangs, g.part ≠ p) → becomes .partitionAbortDone (s.modPart p (fun y => { y with awaitGo := true }))) ∧
    (a.val.getLsbD 0 = true → x.awaitGo = true → Completes .partRstGo s (fun t => t.mem = s.mem ∧ (t.part p).phase = 3 ∧ (t.part p).awaitGo = false ∧
      ∀ n, { t.tile n with ct := { (t.tile n).ct with latch := (s.tile n).ct.latch } } = s.tile n)) ∧
    let settled := (s.ownedBy p).foldl (fun u n => u.settleTile n p) s
    let held := (s.ownedBy p).any (fun n => settled.backHeld n (fun _ => true))
    (x.phase = 3 → s.outst p = 0 → held = true → becomes .partitionQuiesceDone settled) ∧
    (x.phase = 3 → s.outst p = 0 → held = false → Completes .partitionQuiesceDone s (fun t => (t.part p).phase = 4 ∧ (t.part p).groups = [] ∧
      (∀ n ∈ s.ownedBy p, (t.tile n).ct.g = [] ∧ (t.tile n).qs = Queues.reset ∧ (t.tile n).st.v = [] ∧ (t.tile n).st.spad = [] ∧ (t.tile n).st.pound = [] ∧
        { (t.tile n).en with nextKey := 0 } = Engines.reset) ∧
      (∀ d, d < 4 → ∀ e ∈ (t.die d).tlb, e.part ≠ p))) ∧
    (x.phase = 4 → Completes .partitionClearDone s (fun t => signalled t ∧ { t with msi := s.msi, pba := s.pba } = s.modPart p (fun y => { y with st := 1, phase := 5 })))

/-- R13, R49–R53, R65, R68: the events of the links take effect on their port: a replay counts, sixteen failed ones in a row and a second lane lost take the port down, which counts once; enabling
trains it; a route, a time-out and a CXL port are as written, a time-out below 100 being refused; packets that left before a route was written keep no order with those after it; a bridge that fails
stays failed. That messages and blocks in flight over the failed bridge are lost is the model's choice (log entry 69). -/
def Obligations.LinkEventsComplete : Prop :=
  ∀ s : State, let a := s.arg
    let p := a.idx
    let x := s.port p
    let becomes := fun (i : Instr) (t : State) => Completes i s (fun u => u = t)
    let sat := fun (v : BitVec 16) => if v = 0xFFFF then v else v + 1
    let down := fun (t : State) (y : Port) => t.port p = { y with up := false, fails := 0, downs := sat y.downs } ∧ (∀ k, k ≠ p → t.port k = s.port k) ∧ t.mem = s.mem ∧ t.routes = s.routes
    let falls := fun (i : Instr) => Completes i s (fun t => if x.up then down t x else t.port p = x)
    let n := if a.flag then x.fails + 1 else 0
    (x.up = false → becomes .flitReplay s) ∧
    (x.up = true → n < 16 → becomes .flitReplay (s.setPort p { x with replay := sat x.replay, fails := n })) ∧
    (x.up = true → 16 ≤ n → Completes .flitReplay s (fun t => down t { x with replay := sat x.replay })) ∧
    falls .portDown ∧ ((4 ≤ a.sub ∨ x.vlen.getLsbD a.sub = false) → falls .linkProtocolError) ∧ (a.sub < 4 → x.vlen.getLsbD a.sub = true → becomes .linkProtocolError s) ∧
    (x.up = true → x.lanes = 2 → becomes .laneLoss (s.setPort p { x with lanes := 1 })) ∧ (x.up = true → x.lanes ≠ 2 → falls .laneLoss) ∧ (x.up = false → becomes .laneLoss s) ∧
    (p < 128 → let y : Port := { x with vlen := BitVec.ofNat 4 (wfld (a.val ||| 1) 8 4), towq := BitVec.ofNat 2 (wfld (a.val ||| 1) 4 2), en := true };
      becomes .portEnable (s.setPort p (if x.up then y else { y with up := true, lanes := if a.flag then 1 else 2, fails := 0 }))) ∧
    (p < 128 → Completes .portDisable s (fun t => (t.port p).up = false ∧ (t.port p).en = false ∧ (∀ k, k ≠ p → t.port k = s.port k) ∧ t.mem = s.mem)) ∧
    (p < 1024 → Completes .routeWrite s (fun t => { t with routes := s.routes, routeNo := s.routeNo } = s ∧ get 0 t.routeNo p = get 0 s.routeNo p + 1 ∧ ∀ k, get 0 t.routes k = if k = p then BitVec.ofNat 128 a.num else get 0 s.routes k)) ∧
    (1024 ≤ p → becomes .routeWrite s) ∧
    (let v := wfld a.val 0 24;
      Completes .ctmoWrite s (fun t => { t with ctmo := s.ctmo } = s ∧
        wfld t.ctmo 0 24 = (if v < 100 then wfld s.ctmo 0 24 else v) ∧
        t.ctmo.getLsbD 63 = (if v < 100 then true else s.ctmo.getLsbD 63 && !a.val.getLsbD 63))) ∧
    becomes .cxlPortDown { s with cxlUp := s.cxlUp &&& ~~~(BitVec.ofNat 16 (2 ^ p)), remap := put s.remap p [] } ∧
    (p < 4 → Completes .bridgeFailure s (fun t => t.bridges = s.bridges ||| BitVec.ofNat 4 (2 ^ p) ∧ t.mem = s.mem ∧ t.ports = s.ports ∧
      (∀ m ∈ t.msgs, ¬(m.src.pkg = s.pkg ∧ m.dst.pkg = s.pkg ∧ p ∈ bridgePath (dieOf m.src.tile) (dieOf m.dst.tile))) ∧
      (∀ d ∈ t.blocks, ¬(d.src.pkg = s.pkg ∧ d.dst.pkg = s.pkg ∧ p ∈ bridgePath (dieOf d.src.tile) (dieOf d.dst.tile)))))

/-- R57–R64, R182, R183, R207, R339–R342, R394, R396, R400, R401: contributions, results and blocks, messages and carries arrive. A contribution enters its reduction once, unless the carve-out is too full for a rank other than the next; one for a fenced member and one of a
collective that has failed enter none, and one of a fenced rank of another package fails its reduction; only members that bridges still reach learn a result; a reduction of every rank commits its result into its members' commands; transfers of one `COLL` to one peer arrive in order, and one not acknowledged in time fails it; a reduction that has waited longer than its time-out, and one whose switch gives up, leaves with them failed; a block's bytes land and
then its semaphore rises; a message goes to the first receive that accepts it or into the overflow queue, and one that finds it full raises OVERFLOW once; a carry enters the receive buffer and frees its sender; what is bound for
a task that is switched out waits; a command that may end does, an `LBAR` once its acquire is done. A packet on a lane that its port does not enable is a link protocol error (R51, R65), and
a delivery that faults leaves its message in the network.
Which engine of a die takes a contribution, how full those of other packages are, when a payload is read, what tells the task that bytes are bound for, and what meets a packet at another
partition's tile, are the model's choice (log entries 20, 40, 68, 93 and 105). -/
def Obligations.ArrivalEventsComplete : Prop :=
  ∀ s : State, let a := s.arg
    let becomes := fun (i : Instr) (t : State) => Completes i s (fun u => u = t)
    (∀ (c : Contribution) p, a.load = .contrib c → s.shutOn c.hop [2] = some p → becomes .contributionArrival (s.portDown p)) ∧
    (∀ (d : Delivery) p, a.load = .delivery d → s.blockHere d = true → s.shutOn d.hop [0, 1] = some p → becomes (if d.mcast then .multicastLineArrival else .putArrival) (s.portDown p)) ∧
    (∀ (m : Msg) p, a.load = .msg m → s.shutOn m.hop [0, 1] = some p → becomes .messageArrival (s.portDown p)) ∧
    (∀ (c : Carry) p, a.load = .carry c → s.shutOn c.hop [3] = some p → becomes .towpathArrival (s.portDown p)) ∧
    (∀ c : Contribution, a.load = .contrib c → s.shutOn c.hop [2] = none → s.contribBehind c = true → becomes .contributionArrival s) ∧
    (∀ d : Delivery, a.load = .delivery d → s.shutOn d.hop [0, 1] = none → s.blockBehind d = true → becomes .putArrival s) ∧
    (∀ c : Contribution, a.load = .contrib c → s.shutOn c.hop [2] = none → s.contribBehind c = false →
      let ms := s.redMembers c.part c.group
      let m := ms.getD c.dest 0
      let abroad := fun (k : Nat) => (memberPlace (ms.getD k 0)).pkg ≠ s.pkg
      let lost := c.kind ≠ 3 ∧ a.flag = true ∧ (abroad c.src ∨ c.kind ≠ 0 ∧ abroad c.dest)
      let fenced := c.kind = 0 ∧ (s.memberFenced m = true ∨ a.flag = true ∧ abroad c.dest)
      let r := s.reds.find? (·.is c.kind c.part c.group c.gen c.dest)
      (lost → Completes .contributionArrival s (fun t => t.mem = s.mem ∧ t.contribs = s.contribs.filter (· != c) ∧ t.refused = s.refused ∧
        (∀ y ∈ t.reds, y.is c.kind c.part c.group c.gen c.dest = false) ∧
        (∀ g, find (s.part c.part).groups c.group = some g → ∃ g', find (t.part c.part).groups c.group = some g' ∧
          ∃ f ∈ g'.failed, f.kind = c.kind ∧ f.gen = c.gen ∧ f.dest = c.dest ∧ f.cause ≤ 2))) ∧
      (¬lost → (fenced ∨ s.stale c = true → Completes .contributionArrival s (fun t => t.mem = s.mem ∧ t.contribs = s.contribs.filter (· != c) ∧ t.reds = s.reds ∧ t.refused = s.refused))) ∧
      (¬lost → ¬fenced → s.stale c = false → Completes .contributionArrival s (fun t => t.mem = s.mem ∧
        t.contribs = s.contribs.filter (· != c) ∧ ((t.refused = s.refused ++ [(s.stamp + 700, c)] ∧ t.reds = s.reds ∧ (∀ y, r = some y → c.src ≠ y.ready ms.length)) ∨
          (t.refused = s.refused ∧ ∃ pg, ∃ y ∈ t.reds, y.is c.kind c.part c.group c.gen c.dest = true ∧
            y = (r.getD ⟨c.kind, c.part, c.group, c.gen, c.dest, none, [], none, [], pg⟩).take s.stamp c.src c.data))))) ∧
    (∀ t c, s.refused[a.idx]? = some (t, c) → t ≤ s.stamp →
      let at_ := fun (r : Nat) => memberDie ((s.redMembers c.part c.group).getD r 0)
      s.linked (dieOf (at_ c.src).tile) (at_ c.dest) = true → becomes .contributionRetry
        { s with refused := s.refused.eraseIdx a.idx, contribs := s.contribs ++ [{ c with hop := s.hop (at_ c.dest) }], packets := s.packets + 1 }) ∧
    (∀ r, s.reds[a.idx]? = some r → r.kind = 1 → let g := (s.redMembers r.part r.group).length;
      let reached := fun (n : Nat) => s.linked (dieOf n) (memberDie ((s.redMembers r.part r.group).getD r.dest 0)) = true
      (0 < g → g ≤ r.parts.length → Completes .collectiveCommit s (fun t => t.reds = s.reds.filter (· != r) ∧ t.mem = s.mem ∧ (∀ n, ¬reached n → t.tile n = s.tile n) ∧
        ∀ e ∈ r.regs, reached e.2.1 → s.awayHome e.2.1 e.2.2 = none → ∀ c ∈ (t.tile e.2.1).en.lkq, c.key = e.2.2 → c.buf = reducePairs (r.parts.map (·.2)) ∧ c.status = doneRec g r.gen.toNat ∧ c.left = 0)) ∧
      (r.parts.length < g → becomes .collectiveCommit s)) ∧
    (∀ r t, a.flag = false → s.reds[a.idx]? = some r → r.first = some t → t + 700 * wfld s.ctmo 0 24 ≤ s.stamp → r.parts.length < (s.redMembers r.part r.group).length →
      Completes .collectiveTimeout s (fun u => r ∉ u.reds ∧ (r.kind ≠ 3 → u.reds = s.reds.filter (· != r) ∧ u.mem = s.mem))) ∧
    (let n := a.tile
      let k := a.num
      a.flag = true → s.awayHome n k = none →
      (s.transferLate n k = false → becomes .collectiveTimeout s) ∧
      (s.transferLate n k = true → ∀ c o g, (s.tile n).en.lkq.find? (·.key == k) = some c → c.instr = .coll o → c.status = [] →
        s.group (s.tile n).id.part ((s.tile n).chan o.ch.toNat) = some g → Completes .collectiveTimeout s (fun t => OnlyTile s t n ∧
          (t.tile n).en.lkq = (s.tile n).en.lkq.map (fun y => if y.key = k then c.fail 1 g.members.length (collAcked s n g c) else y)))) ∧
    (∀ r g, s.reds[a.idx]? = some r → find (s.part r.part).groups r.group = some g → r.kind = 1 → g.switch = true →
      Completes .switchAbandon s (fun u => u.reds = s.reds.filter (· != r) ∧ u.mem = s.mem)) ∧
    (∀ d : Delivery, a.load = .delivery d → s.blockHere d = true → s.shutOn d.hop [0, 1] = none → d.dst.pkg = s.pkg → (s.tile d.dst.tile).isFenced = false →
      s.ownsTile d.part d.dst.tile = true → (s.tile d.dst.tile).st.spad.wf = true →
      s.heldBack d.src d.dst.tile d.bound = false → s.blockBehind d = false →
      Completes (if d.mcast then .multicastLineArrival else .putArrival) s (fun t => t.blocks = s.blocks.filter (· != d) ∧ t.mem = s.mem ∧
        (∀ k, (t.tile d.dst.tile).st.spad.read k = if d.addr ≤ k ∧ k < d.addr + d.data.length then d.data.getD (k - d.addr) 0 else (s.tile d.dst.tile).st.spad.read k) ∧
        (∀ sm, d.sem = some sm → (t.tile d.dst.tile).qs.raises = (s.tile d.dst.tile).qs.raises ++ [(sm, BitVec.ofNat 32 d.data.length)] ∧ (t.tile d.dst.tile).ct.latch = true))) ∧
    (∀ m : Msg, a.load = .msg m → s.msgs.find? (fun y => y.src == m.src && y.dst == m.dst) = some m → s.shutOn m.hop [0, 1] = none → m.dst.pkg = s.pkg →
      (s.tile m.dst.tile).isFenced = false → s.ownsTile m.part m.dst.tile = true →
      (∀ q ∈ (s.tile m.dst.tile).en.posted, q.accepts m = false) → s.heldBack m.src m.dst.tile m.bound = false → s.behind m.src m.dst m.hop none = false → let y := s.tile m.dst.tile;
      (y.en.overflow.length < 16 → Completes .messageArrival s (fun t => t.msgs = s.msgs.filter (· != m) ∧
        (t.tile m.dst.tile).en.overflow = y.en.overflow ++ [m] ∧ (t.tile m.dst.tile).ct.latch = true)) ∧
      (16 ≤ y.en.overflow.length → m.told = false → y.run = true → Completes .messageArrival s (fun t => OnlyTile { s with msgs := t.msgs } t m.dst.tile ∧
        t.msgs = s.msgs.map (fun z => if z = m then { z with told := true } else z) ∧
        t.tile m.dst.tile = { y with ct := { y.ct with reqs := y.ct.reqs ++ [trapReq tOVERFLOW (colCode .ce) (y.pc .ce) 0] } })) ∧
      (16 ≤ y.en.overflow.length → m.told = true ∨ y.run = false → becomes .messageArrival s)) ∧
    (∀ (m : Msg) q t' va w, a.load = .msg m → s.msgs.find? (fun y => y.src == m.src && y.dst == m.dst) = some m → s.shutOn m.hop [0, 1] = none → m.dst.pkg = s.pkg →
      (s.tile m.dst.tile).isFenced = false → s.ownsTile m.part m.dst.tile = true →
      s.heldBack m.src m.dst.tile m.bound = false → s.behind m.src m.dst m.hop none = false → (s.tile m.dst.tile).en.posted.find? (·.accepts m) = some q → { s with msgs := s.msgs.filter (· != m) }.deliver m.dst.tile q m = (t', va, w) →
      (w = .ok () → Completes .messageArrival s (fun t => (t.tile m.dst.tile).en.posted = (t'.tile m.dst.tile).en.posted.filter (· != q) ∧ t.mem = t'.mem ∧ t.msgs = t'.msgs)) ∧
      (w = .wait → becomes .messageArrival s) ∧
      (∀ f, w = .fault f → Completes .messageArrival s (fun t => (t.tile m.dst.tile).en.posted = (t'.tile m.dst.tile).en.posted ∧ t.mem = t'.mem ∧ t.msgs = s.msgs))) ∧
    (∀ c : Carry, a.load = .carry c → s.carries.find? (fun y => y.src == c.src && y.dst == c.dst) = some c → s.shutOn c.hop [3] = none → c.src.pkg = s.pkg → c.dst.pkg = s.pkg →
      s.reachable c.src.tile c.dst = true → s.ownsTile c.part c.dst.tile = true →
      (s.tile c.dst.tile).sq.carries.length < 8 → s.heldBack c.src c.dst.tile c.bound = false → s.awayHome c.src.tile c.key = none → Completes .towpathArrival s (fun t => t.carries = s.carries.filter (· != c) ∧ t.mem = s.mem ∧
        (t.tile c.dst.tile).sq.carries = (s.tile c.dst.tile).sq.carries ++ [c] ∧ (((s.tile c.src.tile).col .sq).ackKey = some c.key → ((t.tile c.src.tile).col .sq).ackKey = none))) ∧
    (∀ d : Delivery, a.load = .delivery d → s.shutOn d.hop [0, 1] = none → d.dst.pkg = s.pkg → (s.tile d.dst.tile).isFenced = false → s.ownsTile d.part d.dst.tile = true → s.heldBack d.src d.dst.tile d.bound = true →
      becomes .putArrival s ∧ becomes .multicastLineArrival s) ∧
    (∀ m : Msg, a.load = .msg m → s.shutOn m.hop [0, 1] = none → m.dst.pkg = s.pkg → (s.tile m.dst.tile).isFenced = false → s.ownsTile m.part m.dst.tile = true → s.heldBack m.src m.dst.tile m.bound = true →
      becomes .messageArrival s) ∧
    (∀ r : Cmd, let n := a.tile
      let src : Place := ⟨a.idx / 512, a.idx % 512⟩;
      a.flag = false → (s.tile n).en.lkq.find? (fun c => isRecvCmd c && c.started && !c.performed && decide (0 < c.left) && cmdPeer (s.tile n) c == src) = some r → src.pkg ≠ s.pkg →
      ∀ m : Msg, a.load = .msg m → Completes .sendMatch s (fun t => OnlyTile s t n ∧ ∀ c ∈ (t.tile n).en.lkq, c.key = r.key →
        c.buf = m.data.take (Nat.min m.data.length (r.opnd 1)) ∧ c.left = 0)) ∧
    (let n := a.tile
      let dst : Place := ⟨a.idx / 512, a.idx % 512⟩
      ∀ c b u va, a.flag = true → dst.pkg ≠ s.pkg →
      (s.tile n).en.lkq.find? (fun c => isSendCmd c && c.started && !c.performed && decide (0 < c.left) && c.peer.isNone && cmdPeer (s.tile n) c == dst) = some c →
      (s.tile n).faulted .lk = false → s.mayRead n .lk c.key (startRead s n c) = true → s.leaves (dieOf n) dst = true →
      s.spRead (s.tile n).id.part (startRead s n c).1 (c.opnd 0) (c.opnd 1) = (u, va, .ok b) →
      Completes .sendMatch s (fun t => t.mem = u.mem ∧ ∀ k ∈ (t.tile n).en.lkq, k.key = c.key → k.left = 0 ∧ k.peer = some (n, c.key))) ∧
    (let n := a.tile
      let col := engineCol a.idx;
      ∀ c, (s.tile n).faulted col = false → ((s.tile n).cmds col).find? (fun c => (s.tile n).mayEnd col c) = some c → (∀ o, c.instr ≠ .recv o) →
        let mask := match c.instr with | .lbar o => o.fn | _ => 0
        ((s.acquireCache n mask 4).cacheHeld n mask 4 = true → becomes .commandEnd (s.acquireCache n mask 4)) ∧
        ((s.acquireCache n mask 4).cacheHeld n mask 4 = false → Completes .commandEnd s (fun t => ((t.tile n).cmds col) = ((s.tile n).cmds col).filter (fun y => y.key != c.key) ∧
          (∀ sm, c.raise = some sm → (t.tile n).qs.raises = (s.tile n).qs.raises ++ [(sm, 1)] ∧ (t.tile n).ct.latch = true) ∧
          (∀ ch, c.chan = some ch → get 0 (t.tile n).en.allow ch = get 0 (s.tile n).en.allow ch - c.allow))))

/-- R25, R76–R93, R151, R189: the events of the memory system. An access from outside is answered after its checks or comes again; a fill arrives beneath the bytes already
written; from the frame that the page has; an evicted sector is written back unless a slice holds it; the scrubber reports an uncorrectable sector; a map write takes effect when none is in
distribution; a retiring slice's lines are gone with its MOVEDONE; a carve-out is created as R88 allows, when the slices give up the lines that no longer fit, reads zero once ready and is gone with its
release, and a write that changes SIZE or BASE while V is 1 is refused whole; a shootdown runs through its phases; a migration moves the bytes of a
frame, out of Redric's region; a pager reply sets the latch of the tile that asked. That the errors of the stores come with `DRAM_SCRUB`, and that a slice has retired with its
MOVEDONE, are the model's choice (log entries 22 and 104). -/
def Obligations.MemoryEventsComplete : Prop :=
  ∀ s : State, let a := s.arg
    let d := a.die
    let x := s.die d
    let becomes := fun (i : Instr) (t : State) => Completes i s (fun u => u = t)
    let die := fun (f : Die → Die) => s.modDie d f;
    (a.flag = true → s.shutLanes a.sub ≠ [] → becomes .sliceAccess (s.portDown a.sub)) ∧
    (a.flag = false ∨ s.shutLanes a.sub = [] → a.bytes = [] → ∀ t r, s.coRead a.part a.num a.idx .rd = (t, r) →
      (r = .wait → becomes .sliceAccess { s with inputs := (.sliceAccess, a) :: s.inputs }) ∧ (r ≠ .wait → becomes .sliceAccess t ∧ MemOnly s t)) ∧
    (a.flag = false ∨ s.shutLanes a.sub = [] → a.bytes ≠ [] → ∀ t r, s.coWrite a.part a.num (a.bytes.map some) = (t, r) →
      (r = .wait → becomes .sliceAccess { s with inputs := (.sliceAccess, a) :: s.inputs }) ∧ (r ≠ .wait → becomes .sliceAccess t ∧ MemOnly s t)) ∧
    (let key := lineKey a.part a.num
      let k := a.num % 128 / 32;
      (find x.lines key = none → becomes .lineFill s) ∧
      ∀ l, find x.lines key = some l → (l.valid.getLsbD k = true ∨ l.pa / 32 + k ∈ x.bad ∨ s.frameStands d a.part a.num l.pa = false ∨ s.portUp d l.pa = false → becomes .lineFill s) ∧
        (l.valid.getLsbD k = false → l.pa / 32 + k ∉ x.bad → s.frameStands d a.part a.num l.pa = true → s.portUp d l.pa = true → Completes .lineFill s (fun t => MemOnly s t ∧ t.mem = s.mem ∧
          ∃ n, find (t.die d).lines key = some n ∧ n.pa = l.pa ∧ n.dirty = l.dirty ∧ n.valid = l.valid ||| BitVec.ofNat 4 (2 ^ k) ∧
            ∀ i, i < 128 → n.data.extractLsb' (8 * i) 8 =
              if i / 32 = k ∧ l.dirty.getLsbD i = false then s.mem.read (paKey d (l.pa + i)) else l.data.extractLsb' (8 * i) 8))) ∧
    (let va := a.num / 32 * 32
      let y := s.tile a.tile;
      (find y.cache (sectorKey va) = none → becomes .writeBack s) ∧
      (∀ c, find y.cache (sectorKey va) = some c → let held := c.dirty ≠ 0 ∧ y.wa.health.cut = false ∧ s.holdsBack y.id.part va = true;
        (held → becomes .writeBack s) ∧
        (¬held → Completes .writeBack s (fun t => MemOnly s t ∧
          find (t.tile a.tile).cache (sectorKey va) =
            if a.flag then none else some { c with dirty := 0, valid := c.valid || c.dirty == 0xFFFFFFFF })))) ∧
    (a.idx = 0 → let b := if a.flag = true ∧ a.num / 32 ∉ x.bad then x.bad ++ [a.num / 32] else x.bad
      let t := if a.flag then die (fun y => { y with bad := b }) else s;
      becomes .dramScrub (if a.num / 32 ∈ b then { t with notices := s.notices ++ [[4, d, a.num / 32]] } else t)) ∧
    (let h := (s.tile a.tile).st.health;
      (a.idx = 1 → Completes .dramScrub s (fun t => OnlyTile s t a.tile ∧ wfld (t.tile a.tile).st.health 16 8 = Nat.min 255 (wfld h 16 8 + 1))) ∧
      (a.idx = 2 → a.sub < 18 → s.gangOf a.tile = none → Completes .dramScrub s (fun t => OnlyTile { s with gangs := t.gangs } t a.tile ∧
        t.gangs = (if (t.tile a.tile).st.health.getLsbD 30 then (s.loseSaved a.tile).gangs else s.gangs) ∧
        wfld (t.tile a.tile).st.health 32 8 = Nat.min 255 (wfld h 32 8 + 1) ∧
        (3 ≤ get 0 (s.tile a.tile).st.events a.sub → h.getLsbD 31 = true → wfld h 24 5 ≠ a.sub → (t.tile a.tile).st.health.getLsbD 30 = true))) ∧
      (a.idx = 3 → s.gangOf a.tile = none → Completes .dramScrub s (fun t => OnlyTile { s with gangs := t.gangs } t a.tile ∧ t.gangs = (s.loseSaved a.tile).gangs ∧ (t.tile a.tile).st.health.getLsbD 30 = true)) ∧
      (a.idx = 3 → ∀ g, s.gangOf a.tile = some g → Completes .dramScrub s (fun t => g ∉ t.gangs))) ∧
    (a.idx = 4 → ∀ l, find x.lines (lineKey a.part a.num) = some l → l.dirty ≠ 0 → Completes .dramScrub s (fun t => MemOnly s t ∧ t.mem = s.mem ∧
      find (t.die d).lines (lineKey a.part a.num) = none ∧ (lineKey a.part a.num ∈ (t.die d).lost ∨
        64 ≤ x.lostIn (x.sliceOf (lineKey a.part a.num)) ∧ t.notices = s.notices ++ [[3, lineKey a.part a.num / 2 ^ 50]]))) ∧
    (a.idx = 7 → let y := s.tile a.tile
      let c := (codeCol a.sub).getD .ce
      ∀ k, (y.cmds c).find? (fun k => k.started && !k.performed) = some k → y.faulted c = false → Completes .dramScrub s (fun t => OnlyTile s t a.tile ∧
        t.tile a.tile = { y with ct := { y.ct with reqs := y.ct.reqs ++ [trapReq tUNCORR (colCode c) k.pc 0] } })) ∧
    (5 ≤ a.idx → a.idx ≠ 7 → let y := s.tile a.tile
      let c := (codeCol a.sub).getD .ct;
      (y.run = false ∨ y.faulted c = true → becomes .dramScrub s) ∧
      (y.run = true → y.faulted c = false → Completes .dramScrub s (fun t => OnlyTile s t a.tile ∧
        (t.tile a.tile).ct.reqs = y.ct.reqs ++ [trapReq tUNCORR (colCode c) (y.pc c) 0] ∧
        (t.tile a.tile).cache = if a.idx = 6 then y.cache.filter (fun e => e.1 / 4 != a.num / 128) else y.cache))) ∧
    (x.mapBusy = true → Completes .basinMapWrite s (fun t => MemOnly s t ∧ t.die d = x)) ∧
    (x.mapBusy = false → Completes .basinMapWrite s (fun t => MemOnly s t ∧ t.mem = s.mem ∧ (∀ e, e ≠ d → t.die e = s.die e) ∧
      (t.die d).gen = wfld a.val 0 8 ∧ (t.die d).ents = x.mapStage ∧ (t.die d).mapBusy = true ∧
      ∀ i, i < 32 → (∀ e ∈ x.mapStage, e.2 ≠ get 0 x.ents i) → get 0 x.ents i ∉ x.retired → i * 32 + get 0 x.ents i ∈ (t.die d).retiring)) ∧
    becomes .basinMapApply (die (fun y => { y with mapBusy := false })) ∧
    (let mine := x.retiring.filter (fun e => e % 32 == a.idx);
      (mine = [] → becomes .movedone s) ∧
      (mine ≠ [] → Completes .movedone s (fun t => MemOnly s t ∧ (t.die d).retired = x.retired ++ [a.idx] ∧ (∀ e ∈ (t.die d).retiring, e % 32 ≠ a.idx) ∧
        ∀ l ∈ (t.die d).lines, sliceIndex (lineOff l.1) ∉ mine.map (· / 32)))) ∧
    (let n := 2 ^ a.sub
      let src := paKey d a.val.toNat
      let dst := paKey d a.num;
      (x.touchesRedric a.val.toNat n = true ∨ x.touchesRedric a.num n = true → becomes .migrationCopy s) ∧
      (x.touchesRedric a.val.toNat n = false → x.touchesRedric a.num n = false → s.mem.wf = true → Completes .migrationCopy s (fun t =>
        { t with mem := s.mem, dies := s.dies, free := s.free } = s ∧ t.mem.wf = true ∧ (∀ e, e ≠ d → t.die e = s.die e) ∧
        t.die d = { x with bad := x.bad.filter (fun k => !(decide (a.num / 32 ≤ k) && decide (k < (a.num + n) / 32))) } ∧
        ((∀ k ∈ x.bad, ¬(a.val.toNat / 32 ≤ k ∧ k < (a.val.toNat + n) / 32)) →
          ∀ k, t.mem.read k = if dst ≤ k ∧ k < dst + n then s.mem.read (src + (k - dst)) else s.mem.read k)))) ∧
    (let slot := a.tile % 128
      let who := 128 * d + (get 0 x.mailbox (4 * slot + 2)).toNat % 128;
      Completes .pagerReply s (fun t => OnlyTile { s with dies := t.dies } t who ∧ (∀ k, get 0 (t.die d).mailbox k = if k = 4 * slot + 3 then a.val else get 0 x.mailbox k) ∧
        { t.die d with mailbox := x.mailbox } = x ∧ (∀ e, e ≠ d → t.die e = s.die e) ∧ (t.tile who).ct = { (s.tile who).ct with latch := true })) ∧
    (let old := get 0 x.carve a.idx
      let base := wfld a.val 0 6
      let size := wfld a.val 6 7
      let stays := x.carveOverlap a.idx base size = false ∧ 0 < size ∧ base + size ≤ 64 ∧ x.carveTotal a.idx + size ≤ (if x.retired = [] then 64 else 32)
      let badw := if old.getLsbD 15 = true ∧ a.val.getLsbD 15 = false then 2 ^ 15 else 0
      let now := fun (w : Word) => Completes .carveCreate s (fun t => MemOnly s t ∧ (∀ e, e ≠ d → t.die e = s.die e) ∧
        (∀ k, get 0 (t.die d).carve k = if k = a.idx then w else get 0 x.carve k) ∧
        (x.lineCap ≤ (t.die d).lineCap → t.mem = s.mem ∧ (t.die d).lines = x.lines) ∧
        ((t.die d).lineCap < x.lineCap → ∀ sl, sl < 32 → ((t.die d).linesIn sl).length ≤ (t.die d).lineCap));
      (8 ≤ a.idx → becomes .carveCreate s) ∧
      (a.idx < 8 → old.getLsbD 13 = true → wfld old 0 13 = wfld a.val 0 13 →
        becomes .carveCreate (die (fun y => { y with carve := put y.carve a.idx (BitVec.ofNat 64 (badw + wfld old 0 15)) }))) ∧
      (a.idx < 8 → (old.getLsbD 13 = true ∧ wfld old 0 13 ≠ wfld a.val 0 13 ∨ old.getLsbD 13 = false ∧ ¬stays) →
        becomes .carveCreate (die (fun y => { y with carve := put y.carve a.idx (old ||| 0x8000#64) }))) ∧
      (a.idx < 8 → old.getLsbD 13 = false → stays → now (BitVec.ofNat 64 (badw + 2 ^ 13 + wfld a.val 0 13)))) ∧
    (let w := get 0 x.carve a.idx
      let lo := paKey d (0x8000000000 + wfld w 0 6 * 2 ^ 21)
      let n := wfld w 6 7 * 2 ^ 21
      let zeroed := fun (i : Instr) (v : Word) => Completes i s (fun t => MemOnly s t ∧ get 0 (t.die d).carve a.idx = v ∧ (t.die d).lines = x.lines ∧
        ∀ k, t.mem.read k = if lo ≤ k ∧ k < lo + n then 0 else s.mem.read k);
      let v := BitVec.ofNat 64 ((if w.getLsbD 15 = true ∧ a.val.getLsbD 15 = false then 2 ^ 15 else 0) + wfld a.val 0 13)
      (w.getLsbD 13 = true → (w.getLsbD 14 = false → zeroed .carveReady (w ||| 0x4000#64)) ∧ (w.getLsbD 14 = true → becomes .carveReady s)) ∧
      (w.getLsbD 13 = false → becomes .carveReady s) ∧ (8 ≤ a.idx → becomes .carveRelease s) ∧
      (a.idx < 8 → w.getLsbD 13 = true → wfld w 0 13 = wfld a.val 0 13 → zeroed .carveRelease v) ∧
      (a.idx < 8 → w.getLsbD 13 = true → wfld w 0 13 ≠ wfld a.val 0 13 → becomes .carveRelease (die (fun y => { y with carve := put y.carve a.idx (w ||| 0x8000#64) }))) ∧
      (a.idx < 8 → w.getLsbD 13 = false → becomes .carveRelease (die (fun y => { y with carve := put y.carve a.idx v })))) ∧
    (let idle := x.shctl.getLsbD 9 = true
      let legal := wfld a.val 4 2 < 2 ∧ x.shva.toNat % 65536 = 0 ∧ x.shva.toNat < 2 ^ 57 ∧ 0 < x.shn.toNat ∧ x.shn.toNat ≤ 2 ^ 29;
      (a.val.getLsbD 8 = true → ¬(idle ∧ legal) → becomes .shootdownGo (die (fun y => { y with shctl := y.shctl ||| 0x400#64 }))) ∧
      (a.val.getLsbD 8 = true → idle → legal → Completes .shootdownGo s (fun t => MemOnly s t ∧ t.mem = s.mem ∧ (t.die d).shPhase = 1 ∧
        (t.die d).shPart = wfld a.val 0 4 ∧ (t.die d).shClean = decide (wfld a.val 4 2 = 1) ∧ wfld (t.die d).shctl 0 4 = wfld a.val 0 4 ∧ wfld (t.die d).shctl 4 2 = wfld a.val 4 2 ∧ (t.die d).shctl.getLsbD 9 = false))) ∧
    (let part := x.shPart
      let waits := s.storesDue x = true ∨ x.retiring ≠ []
      let tiles := (s.tiles.filter (fun t => t.2.id.part == part && !t.2.cache.isEmpty)).map (·.1)
      let cleaned := tiles.foldl (fun u n => u.cleanCache n x.inRange) s
      let held := ∃ n ∈ tiles, cleaned.backHeld n x.inRange = true;
      (x.shPhase ≠ 1 ∨ waits → becomes .shootdownTileClean s) ∧ (x.shPhase = 1 → ¬waits → held → becomes .shootdownTileClean cleaned) ∧
      (x.shPhase = 1 → ¬waits → ¬held → Completes .shootdownTileClean s (fun t => (t.die d).shPhase = 2 ∧
        ∀ n, ((s.tile n).id.part = part → ∀ e ∈ (t.tile n).cache, x.inRange (32 * e.1) = false) ∧
          (∀ e ∈ (t.tile n).fe.store, ¬(e.1 / 2 ^ 57 = part ∧ x.inRange (e.1 % 2 ^ 57) = true)))) ∧
      (x.shPhase ≠ 2 → becomes .shootdownBasinClean s) ∧
      (x.shPhase = 2 → Completes .shootdownBasinClean s (fun t => MemOnly s t ∧ (t.die d).shPhase = 3 ∧
        (∀ e ∈ (t.die d).tlb, e.part = part → e.page < x.shva.toNat % 2 ^ 45 + x.shn.toNat * 65536 → e.page + 2 ^ e.log2 ≤ x.shva.toNat % 2 ^ 45) ∧
        (x.shClean = false → t.mem = s.mem ∧ (t.die d).lines = x.lines)))) ∧
    (x.shPhase ≠ 3 → becomes .shootdownRelease s) ∧
    (x.shPhase = 3 → Completes .shootdownRelease s (fun t => MemOnly s { t with remap := s.remap } ∧ (t.die d).shPhase = 0 ∧ (t.die d).shctl = x.shctl ||| 0x200#64 ∧
      t.mem = s.mem ∧ (t.die d).lines = x.lines))

/-- R7, R58, R66, R68, R73, R90, R95, R96, R101–R103, R111, R115–R119, R137: the accesses of the host. An aperture access goes through its window and the checks of its address, is counted and recorded when
it faults, and comes again when the address is held; a write of a queue, ring or partition register takes effect under its rule and otherwise sets the register's error bit and
changes nothing else; the registers of a DISABLED partition's page do not answer writes; a write of XLAT.ROOT or of a page table reaches Wharf's table region only (R111); the engine of
a port group is enabled when the carve-outs leave its buffer room (R58); a CXL port comes up with the memory attached to it (R66, R68).
A write of half a register, the die at which the host enters and the ignored write of XLAT.ROOT are the model's reading (log entries 48, 87 and 94). -/
def Obligations.HostEventsComplete : Prop :=
  ∀ s : State, let a := s.arg
    let p := a.part
    let x := s.part p
    let becomes := fun (i : Instr) (t : State) => Completes i s (fun u => u = t)
    let part := fun (f : Part → Part) => s.modPart p f
    (x.st = 0 → becomes .hostRead s ∧ becomes .hostWrite s ∧ becomes .qbaseWrite s ∧ becomes .qctlWrite s ∧ becomes .qctlFlush s ∧ becomes .qtailWrite s ∧
      becomes .ringConfigWrite s ∧ becomes .partSaveWrite s ∧ becomes .partHerrClear s ∧ becomes .partFrconsWrite s ∧ becomes .partFrctlClr s ∧ (a.idx = 0 → becomes .registerWrite s)) ∧
    (let w := get 0 x.hwin (a.num / 2 ^ 36 % 4)
      let va := wfld w 36 28 * 2 ^ 36 + a.num % 2 ^ 36
      let fault := fun (t : State) (sub : Nat) (wr : Bool) (u : State) => let y := t.part p
        { u with parts := t.parts } = t ∧ wfld (u.part p).herrInfo 32 32 = Nat.min (2 ^ 32 - 1) (wfld y.herrInfo 32 32 + 1) ∧
          (y.herrInfo.getLsbD 16 = true → (u.part p).herrVa = y.herrVa ∧ wfld (u.part p).herrInfo 0 32 = wfld y.herrInfo 0 32) ∧
          (y.herrInfo.getLsbD 16 = false → (u.part p).herrVa = BitVec.ofNat 64 va ∧ wfld (u.part p).herrInfo 0 32 = 2 ^ 16 + b2n wr * 2 ^ 8 + sub % 256)
      let rd := s.coReadVia hostDie p va a.idx .rd
      let wr := s.coWriteVia hostDie p va (a.bytes.map some)
      x.st ≠ 0 →
        (w.getLsbD 0 = false → Completes .hostRead s (fault s 4 false) ∧ Completes .hostWrite s (fault s 4 true)) ∧
        (w.getLsbD 0 = true →
          (rd.2 = .wait → becomes .hostRead { s with inputs := (.hostRead, a) :: s.inputs }) ∧ (∀ bs, rd.2 = .ok bs → MemOnly s rd.1 ∧ becomes .hostRead rd.1) ∧
          (∀ f, rd.2 = .fault f → MemOnly s rd.1 ∧ (f.sub < 256 → Completes .hostRead s (fault rd.1 f.sub false))) ∧
          (wr.2 = .wait → becomes .hostWrite { s with inputs := (.hostWrite, a) :: s.inputs }) ∧ (wr.2 = .ok () → MemOnly s wr.1 ∧ becomes .hostWrite wr.1) ∧
          (∀ f, wr.2 = .fault f → MemOnly s wr.1 ∧ (f.sub < 256 → Completes .hostWrite s (fault wr.1 f.sub true))))) ∧
    (x.st ≠ 0 → a.idx < 64 →
      let q := s.queue p a.idx
      let on := q.ctl.getLsbD 8 = true
      let set := fun (r : Queue) => s.modQueue p a.idx (fun _ => r)
      let v := halfWrite a.sub q.base 0 a.val
      let bad := { q with ctl := q.ctl ||| 0x2000 }
      (((on ∧ v ≠ q.base) ∨ v.toNat % 2 ^ (q.log2n + 6) ≠ 0) → becomes .qbaseWrite (set bad)) ∧
      (¬((on ∧ v ≠ q.base) ∨ v.toNat % 2 ^ (q.log2n + 6) ≠ 0) → becomes .qbaseWrite (set { q with base := v })) ∧
      (let ctl := fun (i : Instr) (v : Word) =>
          let n := wfld v 0 5
          let refused := n < 4 ∨ 16 < n ∨ q.base.toNat % 2 ^ (n + 6) ≠ 0 ∨ (on ∧ (n ≠ q.log2n ∨ v.getLsbD 9 ≠ q.ctl.getLsbD 9 ∨ v.getLsbD 11 = true)) ∨
            (v.getLsbD 8 = true ∧ x.st = 3)
          (refused → becomes i (set bad)) ∧
          (¬refused → Completes i s (fun t => { t with parts := s.parts } = s ∧ (∀ k, k ≠ p → t.part k = s.part k) ∧
            (∀ k, k ≠ a.idx → t.queue p k = s.queue p k) ∧
            (t.queue p a.idx).ctl = ((q.ctl &&& ~~~v) &&& 0x3000) ||| (v &&& 0xFFFFFFFF0000031F#64) ∧ (t.queue p a.idx).base = q.base ∧
            (t.queue p a.idx).head = (if v.getLsbD 11 then q.tail else q.head) ∧ (t.queue p a.idx).tail = q.tail ∧
            (t.part p).st = if v.getLsbD 8 = true ∧ x.st = 1 then 2 else x.st));
        ctl .qctlWrite (halfWrite a.sub q.ctl 0x3800 a.val) ∧ ctl .qctlFlush (halfWrite a.sub q.ctl 0x3800 a.val ||| (if a.sub = 2 then 0 else 0x800))) ∧
      (a.sub = 2 → becomes .qtailWrite s) ∧
      (a.sub ≠ 2 → let t := wfld a.val 0 32
        let badDb := 2 ^ q.log2n < q.used + (t + 2 ^ 32 - q.tail) % 2 ^ 32 ∨ q.ctl.getLsbD 9 = true ∨ x.st ≠ 2;
        (badDb → becomes .qtailWrite (set { q with ctl := q.ctl ||| 0x1000 })) ∧ (¬badDb → becomes .qtailWrite (set { q with tail := t })))) ∧
    (64 ≤ a.idx → becomes .qbaseWrite s ∧ becomes .qctlWrite s ∧ becomes .qctlFlush s ∧ becomes .qtailWrite s) ∧
    (4 ≤ a.idx → becomes .ringConfigWrite s ∧ becomes .partSaveWrite s ∧ becomes .partHwinWrite s) ∧
    (x.st ≠ 0 → a.idx < 4 →
      let r := s.ring p a.idx
      let old := if a.num = 0 then r.base else if a.num = 1 then r.paddr else r.ctl
      let v := halfWrite a.sub old (if a.num = 2 then 0x200 else 0) a.val
      let n := wfld v 0 5
      let on := r.ctl.getLsbD 8 = true
      let set := fun (r : Ring) => becomes .ringConfigWrite (s.setRing p a.idx r)
      let bad := { r with ctl := r.ctl ||| 0x200 }
      let b0 := (on ∧ v ≠ r.base) ∨ v.toNat % 2 ^ (r.log2n + 4) ≠ 0
      let b1 := (on ∧ v ≠ r.paddr) ∨ v.toNat % 8 ≠ 0
      let b2 := n < 8 ∨ 20 < n ∨ r.base.toNat % 2 ^ (n + 4) ≠ 0 ∨ (on ∧ n ≠ r.log2n) ∨ wfld v 40 8 = 0 ∨ wfld v 36 4 = 15;
      (a.num = 0 → (b0 → set bad) ∧ (¬b0 → set { r with base := v })) ∧ (a.num = 1 → (b1 → set bad) ∧ (¬b1 → set { r with paddr := v })) ∧
      (a.num = 2 → (b2 → set bad) ∧ (¬b2 → set { r with ctl := ((r.ctl &&& ~~~v) &&& 0x200) ||| (v &&& 0xFFFFFFF00000011F#64) }))) ∧
    (x.st ≠ 0 → a.val.getLsbD 16 = true → a.sub ≠ 2 → becomes .partHerrClear (part (fun y => { y with herrVa := 0, herrInfo := 0 }))) ∧
    (a.val.getLsbD 16 = false ∨ a.sub = 2 → becomes .partHerrClear s) ∧
    (x.st ≠ 0 → let v := wfld a.val 0 32
      let no := a.sub = 2 ∨ 16 < (x.frprod + 2 ^ 32 - v) % 2 ^ 32;
      (no → becomes .partFrconsWrite s) ∧ (¬no → becomes .partFrconsWrite (part (fun y => { y with frcons := v })))) ∧
    (x.st ≠ 0 → a.val.getLsbD 32 = true → a.sub ≠ 1 → becomes .partFrctlClr (part (fun y => { y with junder := 0, drop := 0 }))) ∧
    (a.val.getLsbD 32 = false ∨ a.sub = 1 → becomes .partFrctlClr s) ∧
    (x.st ≠ 0 → a.idx < 4 →
      let old := get 0 x.save a.idx
      let v := halfWrite a.sub old 0x8000 a.val
      let n := wfld v 0 4
      let bad := 8 < n ∨ (n ≠ 0 ∧ wfld v 45 12 ≠ 4 * s.pkg + a.idx) ∨ (s.savedOn p a.idx = true ∧ (n ≠ wfld old 0 4 ∨ wfld v 16 41 ≠ wfld old 16 41))
      let set := fun (w : Word) => becomes .partSaveWrite (part (fun y => { y with save := put y.save a.idx w }));
      (bad → set (old ||| 0x8000)) ∧ (¬bad → set ((v &&& 0x01FFFFFFFFFF000F#64) ||| ((old &&& ~~~v) &&& 0x8000)))) ∧
    (a.idx < 4 → (wfld a.val 57 7 ≠ 0 → becomes .partHwinWrite s) ∧
      (wfld a.val 57 7 = 0 → becomes .partHwinWrite (part (fun y => { y with hwin := put y.hwin a.idx (a.val &&& 0x01FFFFF000000001#64) })))) ∧
    (a.num % 8 ≠ 0 → a.idx ≠ 4 → a.idx ≠ 5 → becomes .registerWrite s) ∧
    (x.st ≠ 0 → a.idx = 0 → (a.num = 0xA20 → becomes .registerWrite (part (fun y => { y with chbase := halfWrite a.sub y.chbase 0 a.val &&& ~~~0xFFF#64 }))) ∧
      (a.num = 0xA28 → becomes .registerWrite (part (fun y => { y with frbase := halfWrite a.sub y.frbase 0 a.val &&& ~~~0xFFF#64 }))) ∧
      (∀ j, j < 4 → a.num = 0x818 + 0x40 * j → a.sub ≠ 2 → becomes .registerWrite (s.setRing p j { s.ring p j with cidx := wfld a.val 0 32 }))) ∧
    (a.idx = 3 → a.num % 8 = 0 → becomes .registerWrite
      (if (s.die a.die).inTables a.num 8 then { s with mem := s.mem.store (paKey a.die a.num) (leBytes 8 a.val.toNat) } else s)) ∧
    (a.idx = 4 → 4 ≤ a.num → becomes .registerWrite s) ∧
    (a.idx = 4 → a.num < 4 → let y := s.die a.die
      let bit := BitVec.ofNat 4 (2 ^ a.num)
      let fits := y.engOn.getLsbD a.num = false ∧ y.carveTotal 8 + 4 ≤ y.carveLimit
      (a.val.getLsbD 0 = false → becomes .registerWrite (s.modDie a.die (fun y => { y with engOn := y.engOn &&& ~~~bit }))) ∧
      (a.val.getLsbD 0 = true → ¬fits → becomes .registerWrite s) ∧
      (a.val.getLsbD 0 = true → fits → Completes .registerWrite s (fun t => MemOnly s t ∧ (t.die a.die).engOn = y.engOn ||| bit))) ∧
    (a.idx = 5 → becomes .registerWrite (if a.num < 16 then { s with cxlUp := s.cxlUp ||| BitVec.ofNat 16 (2 ^ a.num), cxlSize := put s.cxlSize a.num a.val.toNat } else s)) ∧
    (a.idx = 2 → (∀ k, k < 16 → a.num = 0x20000 + 8 * k → let v := a.val &&& 0x7FFFFFC0001#64
        becomes .registerWrite (s.modDie a.die (fun y =>
          if wfld v 18 25 = wfld (get 0 y.rootReg k) 18 25 ∨ y.inTables (wfld v 18 25 * 2 ^ 18) 262144 = true then { y with rootReg := put y.rootReg k v } else y))) ∧
      (a.num = 0x20100 → becomes .registerWrite (s.modDie a.die (fun y => if y.shctl.getLsbD 9 then { y with shva := a.val } else y))) ∧
      (∀ i, i < 4 → a.num = 0x20208 + 8 * i → Completes .registerWrite s (fun t => MemOnly s t ∧ t.mem = s.mem ∧
        ∀ k, get 0 (t.die a.die).mapStage k = if k / 8 = i then wfld a.val (8 * (k % 8)) 5 else get 0 (s.die a.die).mapStage k)) ∧
      (a.die = 0 → a.num = 0 → becomes .registerWrite { s with pw := { s.pw with
          en := a.val.getLsbD 0, fillEn := a.val.getLsbD 1, balEn := a.val.getLsbD 2,
          fresh := s.pw.fresh || (a.val.getLsbD 0 && !s.pw.en) } }))

/-- R127, R132–R134: a write of a walker's registers is taken or refused as a whole, a refused one only setting BADW; START with the partition in RUN starts the walk at ENTRY and STOP is
noted while it runs. The present node of a running walker has the effect of its kind when it is read, and the walk goes on to the node behind or to its target; a node whose record
breaks a rule fails with BADNODE, one whose target lies beyond the array with BADTGT, one that cannot be read with FAULT; a node that must wait changes nothing, and an ENGINE node waits for a visit of its partition that has deficit (R127).
The unused words of a node, a full queue at a BARGE node and a STOP that finds the END node current are the model's reading (log entries 41, 42 and 100). -/
def Obligations.GraphEventsComplete : Prop :=
  ∀ s : State, let a := s.arg
    let p := a.part
    let w := a.idx
    let x := s.walker p w
    let becomes := fun (i : Instr) (t : State) => Completes i s (fun u => u = t)
    let set := fun (y : Walker) => s.modWalker p w (fun _ => y)
    ((s.part p).st = 0 ∨ 4 ≤ w → becomes .gwConfigWrite s ∧ becomes .gwStart s ∧ becomes .gwStop s) ∧
    ((s.part p).st ≠ 0 → w < 4 →
      let bad := { x with ctl := x.ctl ||| 4 }
      let v := halfWrite a.sub x.base 0 a.val
      let no := v.toNat % 32 ≠ 0 ∨ (x.state = 1 ∧ v ≠ x.base)
      let ctl := fun (i : Instr) (v : Word) =>
        let len := wfld v 32 17
        let entry := wfld v 16 16
        let no := 65536 < len ∨ (x.state = 1 ∧ (len ≠ x.len ∨ entry ≠ wfld x.ctl 16 16)) ∨
          (v.getLsbD 0 = true ∧ (x.state = 1 ∨ len = 0 ∨ len ≤ entry ∨ (s.part p).st ≠ 2))
        (no → becomes i (set bad)) ∧
        (¬no → Completes i s (fun t => { t with parts := s.parts } = s ∧ (∀ k, k ≠ w → t.walker p k = s.walker p k) ∧ (t.walker p w).base = x.base ∧
          (t.walker p w).len = len ∧ wfld (t.walker p w).ctl 16 16 = entry ∧
          (v.getLsbD 0 = true → (t.walker p w).state = 1 ∧ (t.walker p w).node = entry ∧ (t.walker p w).stopping = false) ∧
          (v.getLsbD 0 = false → (t.walker p w).stat = x.stat ∧ (x.state = 1 → v.getLsbD 1 = true → (t.walker p w).stopping = true))));
      (a.num = 0 → (no → becomes .gwConfigWrite (set bad)) ∧ (¬no → becomes .gwConfigWrite (set { x with base := v }))) ∧
      (a.num ≠ 0 → ctl .gwConfigWrite (halfWrite a.sub x.ctl 7 a.val)) ∧
      ctl .gwStart (halfWrite a.sub x.ctl 7 a.val ||| (if a.sub = 2 then 0 else 1)) ∧ ctl .gwStop (halfWrite a.sub x.ctl 7 a.val ||| (if a.sub = 2 then 0 else 2))) ∧
    (let nodes : List (Nat × Instr) := [(1, .bargeNode), (2, .engineNode), (3, .waitNode), (4, .raiseNode), (5, .condNode), (6, .loopNode), (7, .switchNode), (8, .rearmNode), (9, .endNode)]
      let rd := s.coReadVia 0 p (x.base.toNat + 32 * x.node) 32 .rd
      ((s.part p).st ≠ 2 ∨ x.state ≠ 1 ∨ x.waiting = true ∨ 4 ≤ w → ∀ e ∈ nodes, becomes e.2 s) ∧
      ((s.part p).st = 2 → x.state = 1 → x.waiting = false → w < 4 →
        (rd.2 = .wait → ∀ e ∈ nodes, becomes e.2 s) ∧
        (∀ f, rd.2 = .fault f → f.sub < 256 → ∀ e ∈ nodes, becomes e.2 (rd.1.walkFail p w 3 f.sub)) ∧
        (∀ b u, rd = (u, .ok b) →
          let n : Node := ⟨leNat (b.take 8), leNat ((b.drop 8).take 8), leNat ((b.drop 16).take 8), leNat (b.drop 24)⟩
          let on := fun (v : State) => v.walkGo p w (x.node + 1)
          (n.bad = true → ∀ e ∈ nodes, becomes e.2 (u.walkFail p w 1 0)) ∧
          (n.bad = false → (∀ e ∈ nodes, e.1 ≠ n.kind → becomes e.2 s) ∧
            (n.kind = 1 → let q := u.queue p n.imm
              (q.ctl.getLsbD 9 = false → becomes .bargeNode (u.walkFail p w 4 0)) ∧
              (q.ctl.getLsbD 9 = true → 2 ^ q.log2n ≤ q.used → becomes .bargeNode s) ∧
              (∀ v r z, q.ctl.getLsbD 9 = true → q.used < 2 ^ q.log2n → u.coReadVia 0 p n.w1 64 .rd = (v, .ok r) →
                v.coWriteVia 0 p (q.base.toNat + 64 * (q.tail % 2 ^ q.log2n)) (r.map some) = (z, .ok ()) →
                becomes .bargeNode (on (z.modQueue p n.imm (fun q => { q with tail := (q.tail + 1) % 2 ^ 32 }))))) ∧
            (n.kind = 2 → ((s.part p).deficit = 0 ∨ s.visiting = false ∨ s.visit ≠ p → becomes .engineNode s) ∧
              (∀ v, 0 < (s.part p).deficit → s.visiting = true → s.visit = p → n.fl % 2 = 0 → u.startJob (n.imm % 4) p (n.imm / 16 % 4) none n.w1 = (v, true) →
                becomes .engineNode (on (v.modPart p (fun y => { y with deficit := y.deficit - 1 })))) ∧
              (∀ v, 0 < (s.part p).deficit → s.visiting = true → s.visit = p → n.fl % 2 = 1 →
                (u.modWalker p w (fun y => { y with waiting := true })).startJob (n.imm % 4) p (n.imm / 16 % 4) (some w) n.w1 = (v, true) →
                becomes .engineNode (v.modPart p (fun y => { y with deficit := y.deficit - 1 })))) ∧
            (n.kind = 3 → ∀ v r, u.coReadVia 0 p n.w1 8 .rd = (v, .ok r) →
              let holds := if n.fl = 1 then leNat r = n.w2 else n.w2 ≤ leNat r;
              (holds → becomes .waitNode (on v)) ∧ (¬holds → x.stopping = true → becomes .waitNode (v.walkFail p w 5 0)) ∧
              (¬holds → x.stopping = false → becomes .waitNode v)) ∧
            (n.kind = 4 → ∀ v r z, u.coReadVia 0 p n.w1 8 .rmw = (v, .ok r) → v.coWriteVia 0 p n.w1 ((leBytes 8 ((leNat r + n.w2) % 2 ^ 64)).map some) = (z, .ok ()) →
              becomes .raiseNode (on z)) ∧
            (n.kind = 5 → (x.len ≤ n.tgt → becomes .condNode (u.walkFail p w 2 0)) ∧
              (∀ v r, n.tgt < x.len → u.coReadVia 0 p n.w1 8 .rd = (v, .ok r) →
                becomes .condNode (if condHolds n.fl (leNat r &&& n.w3) n.w2 then v.walkGo p w n.tgt else on v))) ∧
            (n.kind = 6 → (x.len ≤ n.tgt → becomes .loopNode (u.walkFail p w 2 0)) ∧
              (∀ v r z, n.tgt < x.len → u.coReadVia 0 p n.w1 8 .rmw = (v, .ok r) →
                v.coWriteVia 0 p n.w1 ((leBytes 8 (if leNat r + 1 < n.w2 then leNat r + 1 else 0)).map some) = (z, .ok ()) →
                becomes .loopNode (if leNat r + 1 < n.w2 then z.walkGo p w n.tgt else on z))) ∧
            (n.kind = 7 → ∀ v t0, u.coReadVia 0 p n.w2 (2 * n.imm) .rd = (v, .ok t0) →
              let far := ∃ k, k < n.imm ∧ x.len ≤ leNat ((t0.drop (2 * k)).take 2);
              (far → becomes .switchNode (v.walkFail p w 1 0)) ∧ (¬far → x.len ≤ n.tgt → becomes .switchNode (v.walkFail p w 2 0)) ∧
              (∀ v' t1 z r, ¬far → n.tgt < x.len → v.coReadVia 0 p n.w2 (2 * n.imm) .rd = (v', .ok t1) → v'.coReadVia 0 p n.w1 8 .rd = (z, .ok r) →
                becomes .switchNode (z.walkGo p w (if leNat r < n.imm then leNat ((t1.drop (2 * leNat r)).take 2) else n.tgt)))) ∧
            (n.kind = 8 → ∀ z, rearm u p n.w1 n.imm n.w2 (fun t => (t, none)) = (z, none) → becomes .rearmNode (on z)) ∧
            (n.kind = 9 → let fin := fun (t : State) => t.modWalker p w (fun y => { y with stat := walkStat x.node 0 0 2, stopping := false });
              (n.w1 = 0 → becomes .endNode (fin u)) ∧
              (∀ z, n.w1 ≠ 0 → u.coWriteVia 0 p n.w1 ((leBytes 8 n.w2).map some) = (z, .ok ()) → becomes .endNode (fin z)))))))

/-- R99, R100, R114: a command of Redric is completed in full or refused in full. `ASSIGN` takes unowned and clear items, `RELEASE` the partition's own that run no gang, and an item is
clear again when its clearing is done, its storage zero, whether Wharf's table region has taken it meanwhile or not; `SETWT` moves unowned frames that hold no table into the table region or out of it; `ENABLE` and `DISABLE` switch a partition; a
report is handed to Redric, with the digest of the ownership bitmaps at 0xE0.
That `ASSIGN` leaves CLR, SHA-384 itself, the layout of the bitmaps, and that `SETWT` refuses a frame of Redric's region, are the model's choice (log entries 49, 50, 86, 88 and 117). -/
def Obligations.OwnershipEventsComplete : Prop :=
  ∀ s : State, let a := s.arg
    let p := a.part
    let x := s.part p
    let becomes := fun (i : Instr) (t : State) => Completes i s (fun u => u = t)
    let own := fun (t : State) (k : Nat) => t.ownByte a.flag k
    let there := fun (k : Nat) => s.exists_ a.flag k = true
    let all := fun (i : Instr) (c : Nat → Prop) (b : Nat → BitVec 8) =>
      (¬(∀ k ∈ a.items, there k ∧ c k) → becomes i s) ∧
      ((∀ k ∈ a.items, there k ∧ c k) → Completes i s (fun t => t.mem = s.mem ∧ t.parts = s.parts ∧ (∀ k ∈ a.items, own t k = b k) ∧
        ∀ k, s.exists_ a.flag k = true → (if a.flag then ∀ i ∈ a.items, i / 2 ^ 43 ≠ k / 2 ^ 43 ∨ frameKey (i % 2 ^ 43) ≠ frameKey (k % 2 ^ 43) else k ∉ a.items) →
          own t k = own s k))
    all .assign (fun k => own s k &&& 0xF0 = 0x40) (fun _ => BitVec.ofNat 8 (0xC0 + p % 16)) ∧
    (x.st = 1 ∨ x.st = 2 → all .release (fun k => (own s k).getLsbD 7 = true ∧ (own s k).toNat % 16 = p ∧ (a.flag = false → s.gangOf k = none)) (fun _ => 0)) ∧
    (¬(x.st = 1 ∨ x.st = 2) → becomes .release s) ∧
    (a.flag = true → let d := a.num / 2 ^ 43
      let pa := a.num % 2 ^ 43
      let lo := paKey d (pa / frameSize pa * frameSize pa);
      (unclean ((s.die d).own pa) = true → Completes .clearDone s (fun t => t.tiles = s.tiles ∧ (t.die d).own pa = (s.die d).own pa ||| 0x40 ∧
        ∀ k, t.mem.read k = if lo ≤ k ∧ k < lo + frameSize pa then 0 else s.mem.read k)) ∧
      (unclean ((s.die d).own pa) = false → becomes .clearDone s)) ∧
    (a.flag = false → let y := s.tile a.tile;
      (y.ownByte ≠ 0 → becomes .clearDone s) ∧
      (y.ownByte = 0 → Completes .clearDone s (fun t => OnlyTile s t a.tile ∧ let z := t.tile a.tile
        z.ownByte = 0x40 ∧ z.st.v = [] ∧ z.st.spad = [] ∧ z.st.pound = [] ∧ z.st.pdesc = [] ∧ z.ct.g = [] ∧ z.qs = Queues.reset ∧ z.wa = y.wa))) ∧
    (let items := ({ a with flag := true } : Arg).items
      let ok := fun (k : Nat) => s.exists_ true k = true ∧ (s.ownByte true k).getLsbD 7 = false ∧ (s.ownByte true k).getLsbD 5 = false ∧
        s.holdsTable (k / 2 ^ 43) (k % 2 ^ 43) = false;
      (¬(∀ k ∈ items, ok k) → becomes .setwt s) ∧
      ((∀ k ∈ items, ok k) → Completes .setwt s (fun t => t.mem = s.mem ∧ t.parts = s.parts ∧ t.tiles = s.tiles ∧ ∀ k ∈ items,
        t.ownByte true k = if a.sub = 1 then s.ownByte true k ||| 0x10 else s.ownByte true k &&& 0xEF))) ∧
    (x.st = 0 → Completes .enable s (fun t => { t with key := s.key, parts := s.parts, boot := s.boot } = s ∧ get 0 t.key p = a.val ∧ t.part p = { x with st := 1 } ∧
      wfld t.boot 0 3 = 3)) ∧
    (x.st = 1 → becomes .enable { s with key := put s.key p a.val }) ∧
    (2 ≤ x.st → becomes .enable s) ∧
    (s.ownsAny p = true → becomes .disable s) ∧
    (s.ownsAny p = false → becomes .disable (s.modPart p (fun y => { y with st := 0, phase := 0, awaitGo := false }))) ∧
    Completes .attest s (fun t => { t with free := s.free, notices := s.notices } = s ∧ ∃ r : List Nat, t.notices = s.notices ++ [5 :: r] ∧
      r.take 2 = [1, 0] ∧ (r.drop 4).take 4 = (leBytes 4 a.idx).map BitVec.toNat ∧ (r.drop 0xE0).take 48 = (sha384 (s.ownBitmaps a.idx)).map BitVec.toNat ∧ r.length = 3653)

/-- R240–R243: a judgement of a lengthsman that beats finds the beat of a neighbour missed when none has arrived since the last judgement; at the third one in a row the verdict is SILENT (1), which
clears at the first judgement that finds a beat; a BABBLING verdict (2), from a report or from a tile that injected more than INJ · 4 KiB in each of its last eight beat periods, clears after
16 judgements in a row at which no case of R241 held; one that sends nothing judges nothing. How many bytes a tile injects in a period is a free value, and that SILENT stands before
BABBLING and what the first judgement takes in are the model's choice (log entries 39, 106 and 107). -/
def Obligations.JudgementVerdicts : Prop :=
  (∀ (x : Nbr) (q : BitVec 16) (h : Health), (x.beat q h).got = true) ∧
  (∀ (w : Watch) (inj : Nat), w.overInjects inj = true ↔ inj ≠ 0 ∧ w.injected.length = 8 ∧ ∀ b ∈ w.injected, inj * 4096 < b) ∧
  ∀ (s : State) (d m : Nat), let n := s.arg.tile
    (s.die (dieOf n)).watchEn = true → s.tm.pre % 4096 = 2048 → (s.tile n).wa.beating = true → d < 4 → neighbour n d = some m →
    let x := (s.tile n).nbr d
    let floods := (s.tile m).wa.overInjects (s.die (dieOf n)).inj
    Completes .judgement s (fun t => let y := (t.tile n).nbr d
      y.got = false ∧ y.missed = (if x.got then 0 else x.missed + 1) ∧ (3 ≤ y.missed → y.verdict = 1) ∧
        (x.verdict = 1 → x.got = true → y.verdict ≠ 1 ∧ (y.clear ≠ 0 → y.verdict = 0)) ∧
        y.clear = (if x.bad || floods then 0 else x.clear + 1) ∧ (y.missed < 3 → x.bad = true ∨ floods = true → y.verdict = 2) ∧
        (x.verdict = 2 → y.missed < 3 → (y.verdict = 0 ↔ 16 ≤ y.clear) ∧ (y.verdict ≠ 0 → y.verdict = 2)))

/-- R167, R239–R252: the events of the neighbour watch. A beat and a judgement take place at their places in the 4,096-cycle round, an evaluation counts the votes of every tile of the die
at once and fences the tiles that reach their threshold, that Wharf names or that failed the boot self-test; a fenced tile runs nothing and its gang is aborted; an appeal tests it, and the test's outcome goes on with the
appeal or fences it again, with a record for its owner (R248): it passes when its `HALT` finds g2 bit 0 set (R319); EN once set stays set.
Whether a lengthsman beats, which neighbours a beat reaches and what the routine of a self-test leaves in g2 are free values, and when an appeal starts is the model's reading (log entries
38, 39 and 97). -/
def Obligations.WatchEventsComplete : Prop :=
  ∀ s : State, let a := s.arg
    let n := a.tile
    let w := (s.tile n).wa
    let becomes := fun (i : Instr) (t : State) => Completes i s (fun u => u = t)
    let watchOnly := fun (t : State) => { t with tiles := s.tiles, free := s.free } = s ∧ ∀ m, { t.tile m with wa := (s.tile m).wa } = s.tile m
    (s.tm.pre % 4096 = 0 → Completes .beat s (fun t => watchOnly t ∧ (∀ m, m ≠ n → (∀ d, d < 4 → neighbour n d ≠ some m) → t.tile m = s.tile m) ∧
      ∀ d m, d < 4 → neighbour n d = some m → t.tile m = s.tile m ∨
        (t.tile n).wa.beating = true ∧ (t.tile n).wa.seq = w.seq + 1 ∧ t.tile m = (s.tile m).setNbr (opposite d) (((s.tile m).nbr (opposite d)).beat (w.seq + 1) w.health))) ∧
    (s.tm.pre % 4096 ≠ 0 → becomes .beat s) ∧
    ((s.die (dieOf n)).watchEn = true → s.tm.pre % 4096 = 2048 → w.beating = true → Completes .judgement s (fun t => watchOnly t ∧
      ∀ d m, d < 4 → neighbour n d = some m → let x := (s.tile n).nbr d
        let y := (t.tile n).nbr d
        y.got = false ∧ y.missed = (if x.got then 0 else x.missed + 1) ∧ (3 ≤ y.missed → y.verdict = 1) ∧ (y.missed < 3 → x.bad = true → y.verdict = 2) ∧
          find (t.tile m).wa.votes (opposite d) = some (y.verdict != 0))) ∧
    (¬((s.die (dieOf n)).watchEn = true ∧ s.tm.pre % 4096 = 2048 ∧ w.beating = true) → becomes .judgement s) ∧
    Completes .protocolViolation s (fun t => watchOnly t ∧ ∀ d m, d < 4 → neighbour n d = some m → ((t.tile m).nbr (opposite d)).bad = true) ∧
    ((s.die a.die).watchEn = true → s.tm.pre % 4096 = 3072 → (∀ k, k < 128 → let y := (s.tile (128 * a.die + k)).wa
        let c := s.countVotes (128 * a.die + k)
        (evalTile y (128 * a.die + k) c.1 c.2 s.tm.pre).2 = false) →
      Completes .evaluation s (fun t => watchOnly t ∧ ∀ k, k < 128 → let m := 128 * a.die + k
        let y := (s.tile m).wa
        let z := (t.tile m).wa
        z.votes = [] ∧ z.lastVotes = voteBits (s.countVotes m).1 ∧ z.verd = s.verdBits m (s.countVotes m).2 ∧ z.evalCnt = y.evalCnt + 1 ∧
          (y.health = .healthy → z.health = if (s.countVotes m).1 = [] then .healthy else .suspect) ∧
          (y.health = .suspect → z.health = if (s.countVotes m).1 = [] then .healthy else .suspect))) ∧
    ((s.die a.die).watchEn = true → s.tm.pre % 4096 = 3072 → Completes .evaluation s (fun t => ∀ k, k < 128 → let m := 128 * a.die + k
      let y := (s.tile m).wa
      (y.health = .healthy → y.bootFail = true → (t.tile m).wa.health = .fenced ∧ (t.tile m).wa.perm = true) ∧
      ((y.health = .healthy ∨ y.health = .suspect ∨ y.health = .readmitted) → threshold m ≤ (s.countVotes m).1.length ∨ y.fenceCmd = true →
        (t.tile m).wa.health = .fenced ∧ [1, m] ∈ t.notices ∧ ∀ g, s.gangOf m = some g → g ∉ t.gangs))) ∧
    (¬((s.die a.die).watchEn = true ∧ s.tm.pre % 4096 = 3072) → becomes .evaluation s) ∧
    (let due := w.health = .fenced ∧ 256 ≤ w.evalCnt ∧ w.perm = false ∧ w.beating = true ∧ (s.die (dieOf n)).appen = true;
      (due → Completes .appealStart s (fun t => { t with tiles := s.tiles, free := s.free } = s ∧ (∀ m, m ≠ n → t.tile m = s.tile m) ∧
        (t.tile n).wa.health = .testing ∧ (t.tile n).wa.testStart = s.tm.pre ∧ (t.tile n).ct = Ct.reset ∧ (t.tile n).qs = Queues.reset ∧ (t.tile n).st.spad = [] ∧
        (t.tile n).ownByte = (s.tile n).ownByte)) ∧
      (¬due → becomes .appealStart s)) ∧
    (w.health ≠ .testing → becomes .selfTestEnd s ∧ becomes .selfTestTimeout s) ∧
    (w.health = .testing → let u := if a.flag then s else s.modTile n (fun t => { t with ct := { t.ct with g := put t.ct.g 2 a.val, halted := true } })
      let ends := (u.tile n).ct.halted = true
      let pass := ((u.tile n).g 2).getLsbD 0 = true
      (¬ends → becomes .selfTestEnd s) ∧
      (ends → pass → becomes .selfTestEnd (u.modTile n (fun t => { t with wa := { t.wa with health := .appealing, clean := 0 } }))) ∧
      (let back := fun (t : State) => (t.tile n).wa.health = .fenced ∧ (t.tile n).wa.tfence = s.tm.pre ∧ (t.tile n).wa.evalCnt = 0 ∧ (t.tile n).wa.fsrc = w.fsrc ∧
          (s.gangOf n = none → (s.tile n).id.ownV = true → ∃ (u : State) (r : FaultRec), u.records = s.records ∧ [1, n] ∈ u.notices ∧ t = u.writeRecord r ∧
            r.part = (s.tile n).id.ownPart ∧ r.cause = 3);
        (ends → ¬pass → Completes .selfTestEnd s back) ∧ (w.testStart + 2 ^ 22 ≤ s.tm.pre → Completes .selfTestTimeout s back)) ∧
      (s.tm.pre < w.testStart + 2 ^ 22 → becomes .selfTestTimeout s)) ∧
    (a.val.getLsbD 8 = true → becomes .watchCmdFence (s.modTile (128 * a.die + wfld a.val 0 7) (fun t => { t with wa := { t.wa with fenceCmd := true } }))) ∧
    (a.val.getLsbD 8 = false → becomes .watchCmdFence s) ∧
    (let on := (s.die a.die).watchEn
      let c := BitVec.ofNat 64 (wfld a.val 32 8 * 2 ^ 32 + b2n (a.val.getLsbD 1) * 2 + b2n (on || a.val.getLsbD 0));
      becomes .watchCtlEn (s.modDie a.die (fun x => { x with wctl := c })))

/-- R105, R122–R131, R135–R137: the events of the scheduler. The record of a new head is read once, or the barge is popped with a fault record; a visit of a partition gains deficit and
dispatches what R128 selects: it drops a bad or unplaceable barge, places one on its first free candidate, or ends; a placed tile reads its channel table and the gang starts at S; a join is decremented
once; a slice switch pre-empts the gangs outside the new mask, whose contexts are saved and later restored, unless a tile has been fenced or withdrawn since.
How many of these a visit makes in one move, what is drained before a context is saved, when LATE is set, where the Weir's windows lie, the layout of the image and what comes back from the
model's own record, when a fenced tile is judged again, that an aborted head counts as served, that one throttled die throttles the package, and that a switch leaves alone a gang that has not
started or is being restored, are the model's choice (log entries 7, 45, 46, 76, 96, 97, 98, 101 and 109). -/
def Obligations.SchedulingEventsComplete : Prop :=
  ∀ s : State, let a := s.arg
    let p := a.part
    let x := s.part p
    let n := a.tile
    let becomes := fun (i : Instr) (t : State) => Completes i s (fun u => u = t)
    let records := fun (i : Instr) (u : State → Prop) (r : FaultRec → Prop) => Completes i s (fun t => ∃ w f, t = w.writeRecord f ∧ u w ∧ r f)
    (let q := s.queue p a.idx
      let va := q.base.toNat + 64 * (q.head % 2 ^ q.log2n)
      let due := x.st = 2 ∧ q.ctl.getLsbD 8 = true ∧ q.head ≠ q.tail ∧ q.rec_ = none ∧ a.idx < 64
      let rd := s.coReadVia 0 p va 64 .rd;
      (¬due → becomes .bargeHeadRead s) ∧
      (due → (rd.2 = .wait → becomes .bargeHeadRead s) ∧
        (∀ b, rd.2 = .ok b → Completes .bargeHeadRead s (fun t => MemOnly s { t with parts := s.parts } ∧
          ∃ r, (t.queue p a.idx).rec_ = some r ∧ r.length = 8 ∧ (∀ k, k < 8 → (r.getD k 0).toNat = leNat ((b.drop (8 * k)).take 8)) ∧
            (t.queue p a.idx).age = get 0 q.ages (shScls r) ∧ { t.queue p a.idx with rec_ := q.rec_, age := q.age, ages := q.ages } = q)) ∧
        (∀ f, rd.2 = .fault f → records .bargeHeadRead
          (fun w => { w with parts := rd.1.parts } = rd.1 ∧ w.queue p a.idx = { q with head := (q.head + 1) % 2 ^ 32, rec_ := none, age := 0, ages := [], dog := 0 })
          (fun r => r.cause = 1 ∧ r.sub = f.sub ∧ r.part = p ∧ r.words.getD 0 0 = BitVec.ofNat 64 (a.idx * 2 ^ 32 + q.head % 2 ^ 32) ∧ r.words.getD 7 0 = BitVec.ofNat 64 va)))) ∧
    (s.visiting = false → s.nextVisit = none → Completes .bargeSelect s (fun t => { t with parts := s.parts } = s ∧
      ∀ k, t.part k = { s.part k with deficit := if k < 16 ∧ s.eligible k = false then 0 else (s.part k).deficit })) ∧
    (s.visiting = false → ∀ k, s.nextVisit = some k → Completes .bargeSelect s (fun t => { t with parts := s.parts, visit := s.visit, visiting := s.visiting } = s ∧ t.visit = k ∧ t.visiting = true ∧
      (t.part k).deficit = (s.part k).deficit + 16 * (if (s.part k).wgt = 0 then 1 else (s.part k).wgt) ∧
      ∀ j, j ≠ k → t.part j = { s.part j with deficit :=
        if j ∈ (List.range ((k + 15 - s.visit) % 16)).map (fun i => (s.visit + 1 + i) % 16) ∧ s.eligible j = false then 0 else (s.part j).deficit })) ∧
    (s.visiting = true → let v := s.visit
      let hs := (s.part v).ordered (s.heads v)
      let back := (s.restores v).any (fun g => s.idleBlock g.base g.log2)
      let ends := fun (t : State) =>
        (t.engineReady v = true → becomes .bargeSelect t) ∧
        (t.engineReady v = false → Completes .bargeSelect s (fun u => { u with parts := t.parts, visiting := t.visiting } = t ∧ u.visiting = false ∧
          ∀ k, u.part k = { t.part k with deficit := if k = v ∧ t.eligible v = false then 0 else (t.part k).deficit }));
      (back = true → becomes .bargeSelect s) ∧
      (back = false →
        (∀ t q c, s.select v hs = (t, .drop q c) → Completes .bargeSelect s (fun u => ∃ (w : State) (r : FaultRec), u = (w.writeRecord r).modPart v (fun y => { y with served := put y.served ((hs.find? (·.q == q)).elim 0 (·.prio)) q }) ∧
          { w with parts := s.parts } = s ∧ w.queue v q = { s.queue v q with head := ((s.queue v q).head + 1) % 2 ^ 32, rec_ := none, age := 0, ages := [], dog := 0 } ∧
          r.cause = c ∧ r.sub = 0 ∧ r.part = v ∧ r.words.getD 0 0 = BitVec.ofNat 64 (q * 2 ^ 32 + (s.queue v q).head % 2 ^ 32))) ∧
        (∀ t, s.select v hs = (t, .idle) → { t with parts := s.parts } = s ∧ ends t) ∧
        (∀ t h b, s.select v hs = (t, .place h b) → let k := shLog h.rec_
          ((t.part v).deficit < 2 ^ k → ends t) ∧
          (2 ^ k ≤ (t.part v).deficit → (∃ z, s.placedAt = some z ∧ s.stamp < z + 8) → becomes .bargeSelect s) ∧
          (2 ^ k ≤ (t.part v).deficit → (∀ z, s.placedAt = some z → z + 8 ≤ s.stamp) → Completes .bargeSelect s (fun u =>
            (u.part v).deficit = (t.part v).deficit - 2 ^ k ∧ get 63 (u.part v).served h.prio = h.q ∧ (u.queue v h.q).head = ((s.queue v h.q).head + 1) % 2 ^ 32 ∧ (u.queue v h.q).rec_ = none ∧
            u.placedAt = some s.stamp ∧ u.mem = s.mem ∧
            (∃ g, u.gangs = s.gangs ++ [g] ∧ g.base = b ∧ g.log2 = k ∧ g.part = v ∧ g.queue = h.q ∧ g.phase = .placed ∧ g.rec_ = h.rec_ ∧ g.start = s.stamp + 128) ∧
            (∀ m, m ∉ blockTiles b k → u.tile m = s.tile m) ∧
            ∀ m ∈ blockTiles b k, let y := u.tile m
              y.id.part = v ∧ y.id.rank = m - b ∧ y.id.gsize = 2 ^ k ∧ y.id.barge = BitVec.ofNat 64 (h.q * 2 ^ 32 + (s.queue v h.q).head % 2 ^ 32) ∧ y.id.prog = h.rec_.getD 3 0 ∧
                y.fe.pc = recW h.rec_ 0 ∧ y.fe.on = true ∧ y.ct.handler = false ∧ y.st = (s.tile m).st ∧ y.run = (s.tile m).run))))) ∧
    (∀ g, s.gangOf n = some g → g.phase = .placed → (s.tile n).en.chansOk = false → let u := s.flushCache n
      let held := u.backHeld n (fun _ => true) = true
      let rd := u.coReadVia (dieOf n) g.part (u.part g.part).chbase.toNat 4096 .rd
      (held ∨ rd.2 = .wait → becomes .channelTableRead u) ∧
      (¬held → rd.2 ≠ .wait → Completes .channelTableRead s (fun t => (t.tile n).en.chansOk = true ∧ (∀ f, rd.2 = .fault f → (t.tile n).en.chans = []) ∧
        (∀ b, rd.2 = .ok b → (t.tile n).en.chans = chanTable b) ∧ (t.tile n).cache = [] ∧ { t.tile n with en := (s.tile n).en, cache := (s.tile n).cache } = s.tile n ∧ (∀ m, m ≠ n → t.tile m = s.tile m) ∧
        (∃ h ∈ t.gangs, h.base = g.base ∧ h.phase = .placed ∧ h.start = Nat.max g.start (s.stamp + 1))))) ∧
    ((s.gangOf n = none ∨ (∃ g, s.gangOf n = some g ∧ g.phase ≠ .placed)) → becomes .channelTableRead s) ∧
    (∀ g, s.gangOf n = some g → g.phase = .placed → (s.tile n).en.chansOk = true → becomes .channelTableRead (s.flushCache n)) ∧
    (∀ g z, s.gangOf a.idx = some g → g.phase = .placed → s.startStamp g = some z →
      (s.stamp < z → becomes .gangStart s) ∧
      (z ≤ s.stamp → s.pw.mode ≠ 1 → s.stamp % 64 = 0 → Completes .gangStart s (fun t => t.mem = s.mem ∧ (∀ m, m ∉ g.tiles → t.tile m = s.tile m) ∧
        (∀ m ∈ g.tiles, let y := t.tile m
          y.run = true ∧ y.cnt = s.stamp ∧ y.ct.mode = false ∧ (∀ r, y.g r = if r = 1 then g.word 1 else if r = 2 then g.word 5 else 0) ∧ y.qs = Queues.reset ∧ y.pend = [] ∧ y.mx = Mx.reset ∧
            y.sq = { Sq.reset with cfg := BitVec.ofNat 64 (2 ^ g.log2 % 2 ^ 16) } ∧ y.en.ceq = [] ∧ y.en.lkq = [] ∧ y.en.posted = [] ∧ y.en.overflow = [] ∧
            y.st = (s.tile m).st ∧ y.id = (s.tile m).id ∧ y.fe.pc = (s.tile m).fe.pc) ∧
        ∃ h ∈ t.gangs, h.base = g.base ∧ h.phase = .running ∧ h.start = s.stamp)) ∧
      (z ≤ s.stamp → s.pw.mode = 1 → Completes .gangStart s (fun t => t.tiles = s.tiles ∧ ∃ h ∈ t.gangs, h.base = g.base ∧ h.phase = .placed ∧ h.start = s.stamp / 700 * 700 + 701)) ∧
      (z ≤ s.stamp → s.pw.mode ≠ 1 → s.stamp % 64 ≠ 0 → becomes .gangStart s)) ∧
    (s.joins[a.idx]? = none → becomes .joinDecrement s) ∧
    (∀ g, s.joins[a.idx]? = some g → let va := (g.word 2).toNat
      let rd := s.coReadVia 0 g.part va 8 .rmw
      let gone := fun (t : State) => { t with joins := s.joins.eraseIdx a.idx }
      let failed := fun (t : State) (f : Flt) => records .joinDecrement (fun w => w = gone t) (fun r => r.cause = 1 ∧ r.sub = f.sub ∧ r.part = g.part ∧
        r.words.getD 0 0 = g.id ∧ r.words.getD 7 0 = g.word 2)
      let wr := fun (b : List Byte) => rd.1.coWriteVia 0 g.part va ((leBytes 8 (leNat b - 1)).map some)
      (rd.2 = .wait → becomes .joinDecrement s) ∧
      (∀ f, rd.2 = .fault f → failed rd.1 f) ∧
      ∀ b, rd.2 = .ok b →
        (leNat b = 0 → becomes .joinDecrement ((gone rd.1).modPart g.part (fun y => { y with junder := Nat.min 65535 (y.junder + 1) }))) ∧
        (leNat b ≠ 0 → ((wr b).2 = .wait → becomes .joinDecrement s) ∧ ((wr b).2 = .ok () → becomes .joinDecrement (gone (wr b).1)) ∧
          (∀ f, (wr b).2 = .fault f → failed (wr b).1 f))) ∧
    (let v := a.val
      let old := x.slice
      let armed := old.getLsbD 48 = true
      let bad := (armed ∧ (wfld v 40 8 ≠ wfld old 40 8 ∨ wfld v 0 18 ≠ wfld old 0 18)) ∨
        (v.getLsbD 48 = true ∧ ¬armed ∧ ((x.lastSwitch ≠ 0 ∧ x.next.toNat < x.lastSwitch + 700000) ∨ x.next.toNat < s.stamp + 700 ∨ wfld v 0 18 < 32768));
      (bad → becomes .sliceCtlWrite (s.modPart p (fun y => { y with slice := old ||| 0x4000000000000 }))) ∧
      (¬bad → Completes .sliceCtlWrite s (fun t => { t with parts := s.parts } = s ∧ { t.part p with slice := old } = x ∧ let w := (t.part p).slice
        wfld w 0 18 = wfld v 0 18 ∧ wfld w 32 8 = wfld old 32 8 ∧ wfld w 40 8 = wfld v 40 8 ∧ w.getLsbD 48 = v.getLsbD 48 ∧
          w.getLsbD 49 = (old.getLsbD 49 && !v.getLsbD 49) ∧ w.getLsbD 50 = (old.getLsbD 50 && !v.getLsbD 50)))) ∧
    (let due := x.slice.getLsbD 48 = true ∧ x.next.toNat ≤ s.stamp
      let on := fun (c : Nat) => x.slice.getLsbD (40 + c);
      (¬due → becomes .sliceSwitch s) ∧
      (due → Completes .sliceSwitch s (fun t => t.tiles = s.tiles ∧ t.mem = s.mem ∧ (t.part p).slice.getLsbD 48 = false ∧ wfld (t.part p).slice 32 8 = wfld x.slice 40 8 ∧
        (t.part p).lastSwitch = x.next.toNat ∧
        t.gangs.map (fun g => { g with phase := .out, ctx := 0, cand := none }) = s.gangs.map (fun g => { g with phase := .out, ctx := 0, cand := none }) ∧
        (∀ g, s.gangs = [g] → g.part = p → (g.phase = .out ∨ g.phase = .saving) → t.gangs = [if on g.scls then g else { g with cand := none }]) ∧
        ∀ g c, s.gangs = [g] → g.part = p → g.phase = .running → on g.scls = false → s.mayPreempt g = true → s.freeCtx g.part g.base g.log2 = some c →
          t.gangs = [{ g with phase := .saving, ctx := c, cand := none }]))) ∧
    (let at_ := x.lastSwitch + wfld x.slice 0 18;
      (x.lastSwitch = 0 ∨ s.stamp < at_ → becomes .sliceResume s) ∧
      (x.lastSwitch ≠ 0 → at_ ≤ s.stamp → becomes .sliceResume { s with gangs := s.gangs.map (fun g =>
        if g.part = p ∧ g.cand = none ∧ x.slice.getLsbD (32 + g.scls) = true ∧ (g.phase = .out ∨ g.phase = .saving) then { g with cand := some at_ } else g) })) ∧
    (let z := (s.drainStores n).flushCache n
      let y := z.tile n
      ∀ g, s.gangOf n = some g → g.phase = .saving →
        let ready := y.run = true ∧ z.backHeld n (fun _ => true) = false ∧ y.pend.any (·.act.toMemory) = false ∧ (∀ k ∈ g.tiles, z.levelRunning k = false) ∧ (∀ c ∈ [Col.ce, .lk, .sq], z.engineHeld n c = true) ∧
          (∀ k ∈ g.tiles, (z.tile k).ct.handler = false ∧ (z.tile k).ct.reqs = [])
        let wr := z.openBytes.1.putParts (dieOf n) g.part (z.ctxVa g.part g.ctx n) (y.image ++ z.openBytes.2);
        (¬ready → becomes .contextSaveDone z) ∧
        (ready → wr.2 = .wait → becomes .contextSaveDone z) ∧
        (ready → ∀ f, wr.2 = .fault f → records .contextSaveDone (fun w => g ∉ w.gangs ∧ w.mem = wr.1.mem) (fun r => r.cause = 1 ∧ r.sub = f.sub ∧ r.part = g.part)) ∧
        (ready → wr.2 = .ok () → Completes .contextSaveDone s (fun t =>
          (t.tile n).run = false ∧ (t.tile n).id.active = false ∧ (t.tile n).cache = [] ∧ (t.tile n).st.v = y.st.v ∧ (t.tile n).st.spad = y.st.spad ∧ (∀ m, m ≠ n → t.tile m = z.tile m) ∧
          get Tile.reset t.saved (8 * n + g.ctx) = y ∧ ((∀ k ∈ g.tiles, k ≠ n → (z.tile k).run = false) → ∃ h ∈ t.gangs, h.base = g.base ∧ h.phase = .out)))) ∧
    ((∀ g, s.gangOf n = some g → g.phase ≠ .saving) → becomes .contextSaveDone s) ∧
    (let cands := (s.restores p).filter (fun g => g.base == a.idx && s.idleBlock g.base g.log2)
      let lost := fun (g : Gang) => g.lost = true ∨ ∃ m ∈ g.tiles, (s.tile m).wa.health.cut = true ∨ (s.tile m).st.health.getLsbD 30 = true ∨ (s.tile m).id.ownV = false ∨ (s.tile m).id.ownPart ≠ g.part;
      (cands = [] → becomes .gangRestore s) ∧
      (∀ g l, cands = g :: l → lost g → records .gangRestore (fun w => w = { s.failReds 2 (s.gangJoins g) with gangs := s.gangs.filter (· != g) }) (fun r => r.cause = 3 ∧ r.sub = 0 ∧ r.part = g.part)) ∧
      (∀ g l, cands = g :: l → ¬lost g → becomes .gangRestore { s with gangs := s.gangs.map (fun h => if h = g then { h with phase := .restoring } else h) })) ∧
    (∀ g, s.gangOf a.idx = some g → g.phase = .restoring → let rt := s.restoreTiles g g.tiles
      (rt.2 = .wait → becomes .restoreDone s) ∧
      (rt.2 = .ok () → Completes .restoreDone s (fun u => u.tiles = rt.1.tiles ∧ u.mem = rt.1.mem ∧ (∃ h ∈ u.gangs, h.base = g.base ∧ h.phase = .running ∧ h.cand = none) ∧
        ((∃ c, g.cand = some c ∧ c < s.stamp) → (u.part g.part).slice.getLsbD 49 = true) ∧
        ∀ m ∈ g.tiles, (u.tile m).run = true ∧ (u.tile m).mx.gated = 0xF ∧ (u.tile m).cache = [] ∧ (u.tile m).wa = (s.tile m).wa ∧ (u.tile m).st.health = (s.tile m).st.health)) ∧
      (∀ f, rt.2 = .fault f → records .restoreDone (fun w => g ∉ w.gangs) (fun r => r.cause = 1 ∧ r.sub = f.sub ∧ r.part = g.part))) ∧
    ((∀ g, s.gangOf a.idx = some g → g.phase ≠ .restoring) → becomes .restoreDone s)

/-- R142–R144, R153–R158, R161, R184, R195–R203, R253–R257, R307: the events of a tile and of its gang. Fetch delivers the words of a legal line to the queues of their columns or refuses the line; CT enters the
handler for the trap that has waited longest, unless a level or a K-row group must end first; at F the counters stop and one freeze distance after the last source has gone they go on; a missed word keeps its operands when they are present and is a SCHEDMISS
trap after 65,536 c; the sequencer issues one position of the kernel at a time; a barrier releases the ranks once all have arrived; a Flight instruction takes its next level at its due
count, and the last one forms the rows that it writes at issue + L.
What a word reads at issue + 1, a body line with a word of CT, levels while a gang stands, SQ.MSTEP, a second trap, fetch before S, what holds a kernel slot, the words behind an `MLOOP`, and
that a SCHEDMISS waits for no level or group, are the model's reading (log entries 16, 24, 25, 51 to 54, 95 and 111). -/
def Obligations.TileEventsComplete : Prop :=
  ∀ s : State, let a := s.arg
    let n := a.tile
    let x := s.tile n
    let becomes := fun (i : Instr) (t : State) => Completes i s (fun u => u = t)
    let asks := fun (t : State) (q : TrapReq) => t.modTile n (fun y => { y with ct := { y.ct with reqs := y.ct.reqs ++ [q] } })
    let told := fun (c : Nat) => (∃ q ∈ x.ct.reqs ++ x.ct.early, q.col = c ∧ q.code = tSCHEDMISS) ∨ (x.ct.handler = true ∧ wfld x.ct.cause 44 4 = c ∧ wfld x.ct.cause 0 8 = tSCHEDMISS)
    (let waits := x.fe.on = false ∨ s.stamp < x.fe.at_ ∨ (∃ q ∈ x.ct.reqs, q.col = 0xF)
      let va := x.fe.pc / 32 * 32 + 32 * x.fe.buf.length
      let rd := s.readLine n va
      let u := s.readAhead n
      let y := u.tile n
      let at_ := y.fe.pc / 32 * 32
      let ill := fun (pc : Nat) => becomes .fetchLine (if y.run = true ∧ y.allIssued = true then asks u (trapReq tILLLINE 0xF pc 0) else u);
      (waits → becomes .fetchLine s) ∧
      (x.readsOn = false → u = s) ∧
      (x.readsOn = true → (rd.2 = .wait → u = s) ∧
        (∀ l, rd.2 = .line l → u = rd.1.modTile n (fun y => { y with fe := { y.fe with buf := y.fe.buf ++ [l] } })) ∧
        (∀ f, rd.2 = .fault f → u = if x.run = true ∧ x.fe.buf = [] ∧ x.allIssued = true then
          asks rd.1 ⟨tTRANSLATION, 0xF, va, f.sub, false, BitVec.ofNat 64 va, xfltInfo va (rd.1.tile n).id.part 0xF 3 f⟩ else rd.1)) ∧
      (¬waits → (y.fe.buf = [] → becomes .fetchLine u) ∧
        ∀ l r, y.fe.buf = l :: r → (lineWords l = none → ill at_) ∧
          (∀ ws, lineWords l = some ws → let q := (lineQueue at_ (y.fe.pc % 32 / 4) ws).filter (fun e => get 0 y.fe.skip (colCode e.1) ≤ e.2.addr)
            let lost := y.fe.tgt = true ∧ ¬∃ e ∈ q, e.1 = .ct ∧ e.2.addr = y.fe.pc
            let body := y.fe.seqr.run = true ∧ y.fe.seqr.lines ≠ 0 ∧ y.ct.handler = false;
            (lost → ill y.fe.pc) ∧
            (¬lost → body → Completes .fetchLine s (fun t => OnlyTile u t n ∧ let z := t.tile n
              z.fe.pc = at_ + 32 ∧ z.fe.buf = r ∧ z.fe.iq = y.fe.iq ∧
                ((∃ e ∈ q, e.1 = .ct) → z.fe.seqr.run = false ∧ z.ct.reqs = y.ct.reqs ++ [trapReq tILLLINE 1 y.fe.seqr.mloop 0]))) ∧
            (¬lost → ¬body → y.roomFor q = false → becomes .fetchLine u) ∧
            (¬lost → ¬body → y.roomFor q = true → Completes .fetchLine s (fun t => OnlyTile u t n ∧ let z := t.tile n
              (∀ c, z.iq c = y.iq c ++ (q.filter (fun e => e.1 == c)).map (·.2)) ∧ z.fe.pc = at_ + 32 ∧ z.fe.buf = r ∧ z.fe.tgt = false ∧ z.ct = y.ct ∧ z.qs = y.qs ∧ z.st = y.st))))) ∧
    (let may := fun (q : TrapReq) => !x.holdsTrap q.code;
      ((∀ q ∈ x.ct.reqs, may q = false) → becomes .trapEntry s) ∧
      (∀ q, x.ct.reqs.find? may = some q → becomes .trapEntry ((s.modTile n (fun y => { y with ct := { y.ct with reqs := y.ct.reqs.erase q } })).takeTrap n q))) ∧
    becomes .stallWireFreeze { s with gangs := s.gangs.map (fun g => if g.base = a.idx ∧ g.onTiles = true ∧ g.stands (s.tile g.base).cnt = true then { g with frozen := true } else g) } ∧
    (let goes := fun (g : Gang) => g.base == a.idx && g.onTiles && g.resumeAt.any (fun z => decide (z ≤ s.stamp))
      let u := { s with gangs := s.gangs.map (fun g => if goes g then { g with freeze := none, resumeAt := none, frozen := false } else g) }
      becomes .stallWireResume (((s.gangs.filter goes).flatMap Gang.tiles).foldl (fun v m => v.landTile m (v.frozen m)) u)) ∧
    (s.gangOf a.idx = none → becomes .barrierComplete s) ∧
    (∀ g, s.gangOf a.idx = some g →
      let done := (∀ m ∈ g.tiles, m - g.base ∈ g.arrived ∧ (s.tile m).priorDone (s.tile m).ct.barPrior = true) ∧ g.lastArrival + freezeDist g ≤ (s.tile g.base).cnt;
      (¬done → becomes .barrierComplete s) ∧
      (done → Completes .barrierComplete s (fun t => { t with tiles := s.tiles, gangs := s.gangs } = s ∧ (∀ m ∈ g.tiles, t.tile m = { s.tile m with ct := { (s.tile m).ct with released := true } }) ∧
        (∀ m, m ∉ g.tiles → t.tile m = s.tile m) ∧ ∃ h ∈ t.gangs, h = { g with arrived := [] }))) ∧
    (let c := colOf a.idx
      ∀ m q r, (x.col c).st = .missed m → x.iq c = q :: r → let k := s.wordNeeds n c q
        let w := if k.arrays = true ∧ x.mx.gated ≠ 0 ∧ m.stamp + mxWake ≤ s.stamp then s.modTile n (fun y => { y with mx := { y.mx with gated := 0, idle := (List.range 4).map (fun i => (i, y.cnt)) } }) else s
        let ready := x.faulted c = false ∧ x.has k = true ∧ (k.arrays = true → (w.tile n).mx.gated = 0);
        (¬ready → becomes .scheduleMissRecovery w) ∧
        (ready → Completes .scheduleMissRecovery s (fun t => { t with tiles := s.tiles, gangs := s.gangs } = s ∧ (∀ j, j ≠ n → t.tile j = s.tile j) ∧ let y := t.tile n
          y.col c = { x.col c with st := .issueAt (Nat.max m.target (match s.gangOf n with | some g => g.freeze.getD (m.at_ + freezeDist g) | none => m.at_ + 12)) } ∧
            y.ct.missCnt = (if x.ct.missCnt = 0xFFFF then x.ct.missCnt else x.ct.missCnt + 1) ∧ y.qs.q = x.qs.q ∧ y.iq = x.iq ∧ y.st = x.st))) ∧
    (a.idx ≠ 9 → let c := colOf a.idx
      ∀ m, (x.col c).st = .missed m → (m.stamp + missWait ≤ s.stamp → ¬told (colCode c) → becomes .schedmiss (asks s (trapReq tSCHEDMISS (colCode c) (x.pc c) 0))) ∧
        (s.stamp < m.stamp + missWait ∨ told (colCode c) → becomes .schedmiss s)) ∧
    (a.idx = 9 → ∀ f m, x.sq.flight = some f → f.miss = some m →
      (m.stamp + missWait ≤ s.stamp → ¬told 6 → becomes .schedmiss (asks s (trapReq tSCHEDMISS 6 f.pc 0))) ∧
      (s.stamp < m.stamp + missWait ∨ told 6 → becomes .schedmiss s)) ∧
    (let q := x.fe.seqr
      let off := q.run = false ∨ q.lines ≠ 0 ∨ (q.started = false ∧ ∃ c ∈ otherCols, get 0 q.ahead (colCode c) ≠ 0)
      let ws := q.slot q.pos
      let gated := (∃ b ∈ ws, b.col = .mx ∧ (s.wordNeeds n .mx b.q).arrays = true) ∧ x.mx.gated ≠ 0;
      (off → becomes .sequencerAdvance s) ∧
      (¬off → q.due ≠ [] → becomes .sequencerAdvance { s with agenda := q.due.foldl (addBodyMove n) s.agenda }) ∧
      (¬off → q.due = [] → gated → becomes .sequencerAdvance (s.modTile n Tile.wakeArrays)) ∧
      (¬off → q.due = [] → ¬gated → s.slotReady n ws = false → becomes .sequencerAdvance s) ∧
      (¬off → q.due = [] → ¬gated → s.slotReady n ws = true → Completes .sequencerAdvance s (fun t => (∀ m, m ≠ n → t.tile m = s.tile m) ∧
        t.agenda = (ws.filter (fun b => b.col != .ce)).foldl (addBodyMove n) s.agenda ∧
        (let k := get 0 q.ahead (colCode .ce);
          (t.tile n).iq .ce = (x.iq .ce).take k ++ (ws.filter (fun b => b.col == .ce)).map (·.q) ++ (x.iq .ce).drop k) ∧ let z := (t.tile n).fe.seqr
          z.pos = q.pos + 1 ∧ z.started = true ∧ z.due = ws.filter (fun b => b.col != .ce) ∧ z.run = decide (q.pos + 1 < (q.n + q.sc - 1) * q.ii) ∧
            ((q.pos + 1) % q.ii ≠ 0 → (t.tile n).pend = x.pend) ∧ ((q.pos + 1) % q.ii = 0 → (t.tile n).pend = insertPend ⟨x.cnt + 1, 4, .wbAdvance⟩ x.pend)))) ∧
    (s.gangOf n = none ∨ x.sq.flight = none → becomes .flightLevel s) ∧
    (∀ g f, s.gangOf n = some g → x.sq.flight = some f → let m := f.lev + 1
      let v := { s with free := s.free + 1 }
      let w := x.settleSlot f
      let e := if f.stages = 0 then w.setSlotRows f.ws (f.alone w) else w
      (f.stages < m → x.cnt < f.issue + 4 ∨ f.res ≠ none → becomes .flightLevel v) ∧
      (f.stages < m → f.issue + 4 ≤ x.cnt → f.res = none →
        (f.above = none → becomes .flightLevel (v.modTile n (fun _ => { e with sq := { e.sq with flight := some { f with res := some (f.result e) } } }))) ∧
        (f.above ≠ none → becomes .flightLevel (v.modTile n (fun _ => e.flightEnd f (f.result e))))) ∧
      (m ≤ f.stages → x.flightTrapped f = true ∨ v.levelRuns g n m f = false → becomes .flightLevel v) ∧
      (m ≤ f.stages → x.flightTrapped f = false → v.levelRuns g n m f = true → let r := n - g.base
        let l := f.form.level g.log2 m
        let node := (r + 1) % 2 ^ l = 0
        let child := n - 2 ^ (l - 1)
        let missed := (f.miss ≠ none ∨ x.cnt < f.due g.log2 m → becomes .flightLevel v) ∧
          (f.miss = none → f.due g.log2 m ≤ x.cnt → Completes .flightLevel s (fun t => (∀ k, k ≠ n → t.tile k = s.tile k) ∧ (t.tile n).st = x.st ∧
            (t.tile n).sq.flight = some { f with miss := some ⟨x.cnt, s.stamp, x.cnt⟩ } ∧
            ∃ h ∈ t.gangs, h.base = g.base ∧ ∃ z, h.freeze = some z ∧ z ≤ x.cnt + freezeDist g))
        let goes := fun (y : Tile) (h : Flight) => Completes .flightLevel s (fun t => (∀ k, k ≠ n → t.tile k = s.tile k) ∧ t.mem = s.mem ∧
          let z := { y with sq := { y.sq with
            flight := some { h with lev := m, miss := none, last := x.cnt },
            mstep := mstepWord true (flightPhase f.form g.log2 m).1 (flightPhase f.form g.log2 m).2 f.ws } };
          { t.tile n with ct := x.ct } = if m = f.stages then z.flightDone else z)
        (node → f.form.up g.log2 m = true → s.mate child f.num = none → missed) ∧
        (∀ c, node → f.form.up g.log2 m = true → s.mate child f.num = some c →
          let here := v.arrived child g.log2 m c = true
          let same := c.form = f.form ∧ c.k = f.k ∧ c.nleaf = f.nleaf ∧ imgDigest c.img = imgDigest f.img
          (¬here ∨ same ∧ c.lev + 1 < m → missed) ∧
          (here → ¬same → becomes .flightLevel (asks v (trapReq tILLINSN 6 f.pc 0))) ∧
          (here → same → m ≤ c.lev + 1 → s.joined (dieOf child) (dieOf n) = false → (s.tile child).flightTrapped f = false →
            becomes .flightLevel (v.modTile child (fun y => { y with ct := { y.ct with reqs := y.ct.reqs ++ [trapReq tTOWPATH 6 c.pc 0] } }))) ∧
          (here → same → m ≤ c.lev + 1 → s.joined (dieOf child) (dieOf n) = true →
            goes (w.setSlotRows f.ws (combine f.img ((s.tile child).slotRows c) (w.slotRows f))) f)) ∧
        (¬node → (r + 1) % 2 ^ l ≠ 2 ^ (l - 1) ∨ f.form.up g.log2 m = true → goes w f) ∧
        (¬node → (r + 1) % 2 ^ l = 2 ^ (l - 1) → f.form.up g.log2 m = false → (f.inbox = none → missed) ∧
          (∀ d, f.inbox = some d → f.form ≠ .sup → goes (w.setSlotRows f.ws d) { f with inbox := none }))))

/-- R217, R219, R223, R228–R237: the events of the jobs of a die. The next sequence of a Sluice part goes to the lowest idle engine when it is live and sound; acceptance compares the drafts of a sequence in
order and writes how many it takes; a commit job goes through its passes and commits, holds or skips one sequence a unit; a job whose parts have all ended writes its status word, leaves every
die it ran on, and lets its walker go on; a ring's timer signals the entries that have waited.
Skipped sequences, tokens beyond the vocabulary, NACC above 8 and pairs on other packages are the model's reading (log entries 30 to 37). -/
def Obligations.JobsEventsComplete : Prop :=
  ∀ s : State, let a := s.arg
    let d := a.die
    let becomes := fun (i : Instr) (t : State) => Completes i s (fun u => u = t)
    let more := fun (t : State) (k i : Nat) => t.modJob d k (fun j => { j with next := i + 1 })
    (s.job d 0 = none ∨ (s.die d).sluices.findIdx? (!·.running) = none → becomes .sluiceSequence s) ∧
    (∀ j e, s.job d 0 = some j → (s.die d).sluices.findIdx? (!·.running) = some e → let i := j.next
      (j.fail.isSome = true ∨ j.nseq ≤ i ∨ j.ended = true → becomes .sluiceSequence s) ∧
      (j.fail = none → i < j.nseq → j.ended = false → let rd := readSeq s j i
        (rd.2 = .wait → becomes .sluiceSequence s) ∧ (∀ c k, rd.2 = .bad c k → becomes .sluiceSequence (rd.1.jobFail d j i c k)) ∧
        (∀ b, rd.2 = .ok b → let live := sflLive (sdSfl b) = true ∧ sflHeld (sdSfl b) = false;
          (¬live → ∀ v, rd.1.putPair d j i negInf.toNat f32.nan skipPair = (v, .ok ()) → becomes .sluiceSequence (more v 0 i)) ∧
          (live → ∀ v, checkSeq rd.1 j b = (v, .ok ()) →
            becomes .sluiceSequence (more (v.setSluice d e { Sluice.reset with running := true, seq := i, desc := b }) 0 i)) ∧
          (live → ∀ v c k, checkSeq rd.1 j b = (v, .bad c k) → becomes .sluiceSequence (v.jobFail d j i c k))))) ∧
    (s.job d 1 = none → becomes .acceptSequence s) ∧
    (∀ j, s.job d 1 = some j → let i := j.next
      let stops := fun (t : State) => t.modJob d 1 (fun j => { j with ended := true })
      (j.ended = true → becomes .acceptSequence s) ∧ (j.ended = false → j.nseq ≤ i → becomes .acceptSequence (stops s)) ∧
      (j.ended = false → i < j.nseq → let rd := readSeq s j i
        (rd.2 = .wait → becomes .acceptSequence s) ∧ (∀ c k, rd.2 = .bad c k → becomes .acceptSequence (stops (rd.1.jobFail d j i c k))) ∧
        (∀ b, rd.2 = .ok b → let live := sflLive (sdSfl b) = true ∧ sflHeld (sdSfl b) = false ∧ sdDraft b ≠ 0;
          (¬live → becomes .acceptSequence (more rd.1 1 i)) ∧
          (live → ∀ u v w, checkSeq rd.1 j b = (u, .ok ()) → jread u j.home j.part (sdDraft b) 256 = (w, .ok v) →
            (vrStep v ≠ sdStep b → becomes .acceptSequence (stops (w.jobFail d j i 8 0))) ∧
            (vrStep v = sdStep b → 8 < vrK v ∨ 1 < vrMode v → becomes .acceptSequence (stops (w.jobFail d j i 2 0))) ∧
            (vrStep v = sdStep b → vrK v ≤ 8 → vrMode v ≤ 1 → ∀ y z,
              jwrite w j.home j.part (sdDraft b + 0xC) (leBytes 4 (acceptFrom (get 0 w.key j.part) v b 0 (vrK v))) = (y, .ok ()) →
              jwrite y j.home j.part (sdDraft b + 0x10) (leBytes 4 (vrStep v)) = (z, .ok ()) → becomes .acceptSequence (more z 1 i)))))) ∧
    (s.job d 2 = none → becomes .commitUnit s) ∧
    (∀ j, s.job d 2 = some j → let i := j.next
      let go := fun (t : State) (f : Job → Job) => becomes .commitUnit (t.modJob d 2 f)
      let stop := fun (t : State) (at_ c k : Nat) => go t (fun j => { j.setFail ⟨at_, c, d, k⟩ with ended := true })
      let touch := fun (y : Bool) (b : List Byte) => if y = true ∧ sdGrpr b ≠ 0 then [sdGrpr b] else []
      (j.ended = true → becomes .commitUnit s) ∧
      (j.ended = false → j.pass = 0 → (j.nseq = 0 → go s (fun j => { j with ended := true })) ∧ (∀ k v z, j.nseq ≠ 0 → j.cs = 0 → needDraw s j (List.range j.nseq) = (k, v, z) →
          (z = .ok () → go v (fun j => { j with pass := 1 })) ∧ (z = .wait → becomes .commitUnit s) ∧ (∀ c b, z = .bad c b → stop s k c b)) ∧
        (∀ v b, j.nseq ≠ 0 → j.cs ≠ 0 → jread s j.home j.part j.cs 8 = (v, .ok b) → (leNat b / 2 ^ 62 = 1 → go v (fun j => { j with pass := 1 })) ∧
          (leNat b / 2 ^ 62 ≠ 1 → stop s 0xFFFF 6 0))) ∧
      (j.ended = false → j.pass = 1 ∨ j.pass = 2 → j.nseq ≤ i → go s (fun y => { y with pass := j.pass + 1, next := 0 })) ∧
      (∀ u b, j.ended = false → i < j.nseq → readSeq s j i = (u, .ok b) →
        (j.pass = 1 → sflHeld (sdSfl b) = false → go u (fun j => { j with next := i + 1 })) ∧
        (j.pass = 1 → sflHeld (sdSfl b) = true → ∀ v y, commitUnitOf u j i b = (v, .ok y) →
          go v (fun j => { j with next := i + 1, retried := j.retried ++ [i], touched := j.touched ++ touch y b })) ∧
        (let now := sflLive (sdSfl b) = true ∧ sflHeld (sdSfl b) = false ∧ i ∉ j.retried;
          (j.pass = 2 → ¬now → go u (fun j => { j with next := i + 1 })) ∧
          (j.pass = 2 → now → ∀ v y, commitUnitOf u j i b = (v, .ok y) → go v (fun j => { j with next := i + 1, touched := j.touched ++ touch y b }))) ∧
        (j.pass = 1 ∨ j.pass = 2 → (j.pass = 1 ↔ sflHeld (sdSfl b) = true) → (j.pass = 2 → sflLive (sdSfl b) = true ∧ i ∉ j.retried) →
          ∀ v c k, commitUnitOf u j i b = (v, .bad c k) → stop s i c k)) ∧
      (j.ended = false → j.pass = 3 → (j.touched = [] → go s (fun j => { j with pass := 4 })) ∧
        (∀ g v, leastFrom j.touched = some g → pruneGroup s j g = (v, .ok ()) → go v (fun j => { j with touched := j.touched.filter (· != g) }))) ∧
      (∀ u l, j.ended = false → j.pass = 4 → allSeqs s j = (u, .ok l) →
        ((∃ b ∈ l, sflLive (sdSfl b) = true) → go u (fun j => { j with ended := true })) ∧
        (∀ v, (∀ b ∈ l, sflLive (sdSfl b) = false) → jwrite u j.home j.part j.ae (leBytes 8 1) = (v, .ok ()) → go v (fun j => { j with ended := true })))) ∧
    (s.job d a.idx = none → becomes .jobEnd s) ∧
    (∀ j, s.job d a.idx = some j →
      let parts := (List.range 4).filterMap (fun e => match s.job e a.idx with
        | some x => if x.home == d then some (e, x) else none
        | none => none)
      let word := statWord j (parts.filterMap (fun p => p.2.fail))
      let rec_ := if j.csRec = [] ∨ j.cs = 0 then (s, JAns.ok ()) else
        jbind (jwrite s j.home j.part (j.cs + 8) (j.csRec.drop 8)) (fun s _ => jwrite s j.home j.part j.cs (j.csRec.take 8));
      (j.home ≠ d ∨ (∃ q ∈ parts, s.partEnded q.1 q.2 = false) → becomes .jobEnd s) ∧
      (∀ v, j.home = d → (∀ q ∈ parts, s.partEnded q.1 q.2 = true) → rec_.2 ≠ .wait → j.stat % 8 = 0 → jwrite rec_.1 j.home j.part j.stat (leBytes 8 word) = (v, .ok ()) →
        Completes .jobEnd s (fun t => ∃ u, { u with dies := v.dies } = v ∧ (∀ e, e < 4 → ∀ y ∈ (u.die e).jobs, y.kind ≠ j.kind ∨ y.home ≠ j.home) ∧
          t = match j.walker with | none => u | some w => u.walkResume j.part w))) ∧
    (let r := s.ring a.part a.idx
      let late := wfld r.ctl 48 16 ≠ 0 ∧ 0 < r.pend ∧ r.t1 + 700 * wfld r.ctl 48 16 ≤ s.stamp;
      (late → becomes .coalesceTimer ((s.setRing a.part a.idx { r with pend := 0 }).signal a.part (wfld r.ctl 36 4))) ∧
      (¬late → becomes .coalesceTimer s))

/-! ### Encodings -/

/-- R258–R261, R268: the words of CT. For every well-formed instruction of the column, at every value of its operands, decoding its encoding gives it back. -/
def Obligations.EncodeDecodeCt : Prop :=
  let trip := fun (i : Instr) => wellFormed i = true → ∃ c, encode i = some c ∧ c.col = .ct ∧ decode c.col c.word c.ext = i;
    (∀ a, trip (.add a)) ∧ (∀ a, trip (.sub a)) ∧ (∀ a, trip (.and a)) ∧ (∀ a, trip (.or a)) ∧ (∀ a, trip (.xor a)) ∧ (∀ a, trip (.sll a)) ∧
    (∀ a, trip (.srl a)) ∧ (∀ a, trip (.sra a)) ∧ (∀ a, trip (.slt a)) ∧ (∀ a, trip (.sltu a)) ∧ (∀ a, trip (.seq a)) ∧ (∀ a, trip (.mul a)) ∧
    (∀ a, trip (.mulh a)) ∧ (∀ a, trip (.div a)) ∧ (∀ a, trip (.divu a)) ∧ (∀ a, trip (.rem a)) ∧ (∀ a, trip (.min a)) ∧ (∀ a, trip (.max a)) ∧
    (∀ a, trip (.addi a)) ∧ (∀ a, trip (.andi a)) ∧ (∀ a, trip (.ori a)) ∧ (∀ a, trip (.xori a)) ∧ (∀ a, trip (.slli a)) ∧ (∀ a, trip (.srli a)) ∧
    (∀ a, trip (.srai a)) ∧ (∀ a, trip (.slti a)) ∧ (∀ a b, trip (.ldi a b)) ∧ (∀ a b c, trip (.ldiLong a b c)) ∧ (∀ a b c, trip (.orhi a b c)) ∧
    (∀ a, trip (.beq a)) ∧ (∀ a, trip (.bne a)) ∧ (∀ a, trip (.blt a)) ∧ (∀ a, trip (.bge a)) ∧ (∀ a, trip (.bltu a)) ∧ (∀ a, trip (.bgeu a)) ∧
    (∀ a b, trip (.jal a b)) ∧ (∀ a, trip (.jalr a)) ∧ (∀ a, trip (.lds a)) ∧ (∀ a, trip (.sts a)) ∧ (∀ a b, trip (.fence a b)) ∧
    (∀ a b c d, trip (.cmo a b c d)) ∧ (∀ a, trip (.semw a)) ∧ (∀ a b, trip (.semr a b)) ∧ (∀ a, trip (.sems a)) ∧ trip .wfe ∧ trip .sev ∧
    (∀ a, trip (.gbar a)) ∧ (∀ a, trip (.mark a)) ∧ trip .done ∧ (∀ a b c d, trip (.mloop a b c d)) ∧ (∀ a b c, trip (.mloopLcb a b c)) ∧
    (∀ a b, trip (.mlcb a b)) ∧ (∀ a b, trip (.loop a b)) ∧ trip .unloop ∧ (∀ a b, trip (.rdid a b)) ∧ (∀ a b, trip (.srr a b)) ∧
    (∀ a b, trip (.srw a b)) ∧ (∀ a, trip (.rdstamp a)) ∧ (∀ a b, trip (.mova a b)) ∧ (∀ a, trip (.trap a)) ∧ trip .eret ∧ trip .halt

/-- R258, R262–R269, R272: the words of LD, ST, VX, MX, SQ, LK and CE and of logit programs. For every well-formed instruction, at every value
of its operands, decoding its encoding in its column gives it back. -/
def Obligations.EncodeDecodeStreams : Prop :=
  (let trip := fun (i : Instr) => wellFormed i = true → ∃ c, encode i = some c ∧ c.col = .ld ∧ decode c.col c.word c.ext = i;
    (∀ a, trip (.ldv a)) ∧ (∀ a, trip (.ldq a)) ∧ (∀ a, trip (.ldt a)) ∧ (∀ a, trip (.ldg a)) ∧ (∀ a, trip (.ldb a)) ∧ (∀ a, trip (.ldsc a)) ∧
    (∀ a, trip (.ldp a)) ∧ (∀ a, trip (.lpf a)) ∧ (∀ a, trip (.ldx a)) ∧ (∀ a, trip (.ldbc a))) ∧
  (let trip := fun (i : Instr) => wellFormed i = true → ∃ c, encode i = some c ∧ c.col = .st ∧ decode c.col c.word c.ext = i;
    (∀ a, trip (.stv a)) ∧ (∀ a, trip (.stq a)) ∧ (∀ a, trip (.stt a)) ∧ (∀ a, trip (.sct a)) ∧ (∀ a, trip (.stp a)) ∧ (∀ a, trip (.stc a)) ∧
    (∀ a, trip (.stz a)) ∧ (∀ a, trip (.stm a))) ∧
  (let trip := fun (i : Instr) => wellFormed i = true → ∃ c, encode i = some c ∧ c.col = .vx ∧ decode c.col c.word c.ext = i;
    (∀ a, trip (.vadd a)) ∧ (∀ a, trip (.vsub a)) ∧ (∀ a, trip (.vmul a)) ∧ (∀ a, trip (.vfma a)) ∧ (∀ a, trip (.vfms a)) ∧ (∀ a, trip (.vmax a)) ∧
    (∀ a, trip (.vmin a)) ∧ (∀ a, trip (.vabs a)) ∧ (∀ a, trip (.vneg a)) ∧ (∀ a, trip (.vand a)) ∧ (∀ a, trip (.vor a)) ∧ (∀ a, trip (.vxor a)) ∧
    (∀ a, trip (.vshl a)) ∧ (∀ a, trip (.vshr a)) ∧ (∀ a, trip (.vsra a)) ∧ (∀ a, trip (.vcmp a)) ∧ (∀ a, trip (.vsel a)) ∧ (∀ a, trip (.vcvt a)) ∧
    (∀ a, trip (.vqblk a)) ∧ (∀ a, trip (.vrcp a)) ∧ (∀ a, trip (.vrsq a)) ∧ (∀ a, trip (.vexp2 a)) ∧ (∀ a, trip (.vlog2 a)) ∧ (∀ a, trip (.vtie a)) ∧
    (∀ a, trip (.vtld a)) ∧ (∀ a, trip (.vred a)) ∧ (∀ a, trip (.vbcast a)) ∧ (∀ a, trip (.vperm a)) ∧ (∀ a, trip (.vpack a)) ∧
    (∀ a, trip (.vunpk a)) ∧ (∀ a, trip (.vmov a)) ∧ (∀ a, trip (.vidx a)) ∧ (∀ a, trip (.vwin a)) ∧ (∀ a, trip (.vamax a)) ∧ (∀ a, trip (.vrng a)) ∧
    (∀ a, trip (.vclr a))) ∧
  (let trip := fun (i : Instr) => wellFormed i = true → ∃ c, encode i = some c ∧ c.col = .mx ∧ decode c.col c.word c.ext = i;
    (∀ a b c d e, trip (.mma a b c d e)) ∧ (∀ a b c d e, trip (.mmas a b c d e)) ∧ (∀ a b c d e, trip (.mmax a b c d e)) ∧
    (∀ a b c d e, trip (.mtile a b c d e)) ∧ (∀ a b c, trip (.mbsel a b c)) ∧ (∀ a b c, trip (.maclr a b c)) ∧ (∀ a b c d, trip (.macmv a b c d)) ∧
    (∀ a b, trip (.mwake a b)) ∧ (∀ a b c d e, trip (.mmsk a b c d e)) ∧ (∀ a b c, trip (.mscl a b c)) ∧ (∀ a b c d, trip (.mtrn a b c d)) ∧
    (∀ a b, trip (.mspx a b))) ∧
  (let trip := fun (i : Instr) => wellFormed i = true → ∃ c, encode i = some c ∧ c.col = .sq ∧ decode c.col c.word c.ext = i;
    (∀ a b c, trip (.sopdef a b c)) ∧ (∀ a b c d, trip (.scan a b c d)) ∧ (∀ a b c d, trip (.sup a b c d)) ∧ (∀ a b c d, trip (.sdn a b c d)) ∧
    (∀ a b c d, trip (.sxsc a b c d)) ∧ (∀ a b c d, trip (.slbk a b c d)) ∧ (∀ a b c d, trip (.scsnd a b c d)) ∧ (∀ a b c d, trip (.scrcv a b c d)) ∧
    (∀ a b, trip (.pbind a b)) ∧ (∀ a b c, trip (.pbindPair a b c)) ∧ (∀ a b, trip (.punb a b)) ∧ (∀ a b c d, trip (.pld a b c d)) ∧
    (∀ a b c d, trip (.pst a b c d)) ∧ (∀ a b c d e, trip (.step a b c d e)) ∧ (∀ a b c d e, trip (.pspill a b c d e)) ∧
    (∀ a b c d e, trip (.pfill a b c d e)) ∧ (∀ a b, trip (.pshd a b))) ∧
  (let trip := fun (i : Instr) => wellFormed i = true → ∃ c, encode i = some c ∧ c.col = .lk ∧ decode c.col c.word c.ext = i;
    (∀ a, trip (.coll a)) ∧ (∀ a, trip (.radd a)) ∧ (∀ a, trip (.send a)) ∧ (∀ a, trip (.recv a)) ∧ (∀ a, trip (.put a)) ∧ (∀ a, trip (.get a)) ∧
    (∀ a, trip (.append a)) ∧ (∀ a, trip (.pred a)) ∧ (∀ a, trip (.lbar a)) ∧ (∀ a, trip (.grpdef a)) ∧ (∀ a, trip (.lquiet a)) ∧
    (∀ a, trip (.lfence a))) ∧
  (let trip := fun (i : Instr) => wellFormed i = true → ∃ c, encode i = some c ∧ c.col = .ce ∧ decode c.col c.word c.ext = i;
    (∀ a, trip (.copy a)) ∧ (∀ a, trip (.copya a)) ∧ (∀ a, trip (.fill a)) ∧ (∀ a, trip (.accw a)) ∧ (∀ a, trip (.xadd a)) ∧ (∀ a, trip (.cas a)) ∧
    (∀ a, trip (.mcast a)) ∧ (∀ a, trip (.msend a)) ∧ (∀ a, trip (.mrecv a)) ∧ (∀ a, trip (.cmoa a)) ∧ (∀ a, trip (.pfb a)) ∧ (∀ a, trip (.ceflush a))) ∧
  (let trip := fun (i : Instr) => wellFormed i = true → ∃ c, encode i = some c ∧ c.col = .logit ∧ decode c.col c.word c.ext = i;
    (∀ a, trip (.lldl a)) ∧ (∀ a b, trip (.lbias a b)) ∧ (∀ a b c d, trip (.lpen a b c d)) ∧ (∀ a b c, trip (.ltemp a b c)) ∧
    (∀ a b, trip (.lmask a b)) ∧ (∀ a b, trip (.lmax a b)) ∧ (∀ a b c, trip (.lsubx a b c)) ∧ (∀ a b c, trip (.lsum a b c)) ∧
    (∀ a b, trip (.llogp a b)) ∧ (∀ a b c, trip (.ltopk a b c)) ∧ (∀ a b c, trip (.ltopp a b c)) ∧ (∀ a b c, trip (.lminp a b c)) ∧
    (∀ a b, trip (.lgumb a b)) ∧ (∀ a b, trip (.larg a b)) ∧ (∀ a b c d, trip (.lcmp a b c d)) ∧ (∀ a b c d, trip (.lcmpK a b c d)) ∧
    (∀ a b c d, trip (.lsel a b c d)) ∧ (∀ a b, trip (.lmov a b)) ∧ (∀ a b, trip (.lmovK a b)) ∧ (∀ a b, trip (.lldk a b)) ∧
    (∀ a b c, trip (.lldkLit a b c)) ∧ (∀ a, trip (.lcnt a)) ∧ (∀ a b c d, trip (.lskip a b c d)) ∧ (∀ a b, trip (.lemit a b)) ∧
    (∀ a b, trip (.lgrp a b)) ∧ (∀ a b, trip (.lgrpAddcum a b)) ∧ trip .lend ∧ (∀ a b c, trip (.ladd a b c)) ∧ (∀ a b c, trip (.laddK a b c)))

/-! ### The step -/

/-- R142, R145: a step makes the first move of the agenda. The word at the head of a column whose tile runs and does not stand is what decodes from its bits in that column, and the
step is its meaning; a word that no longer stands is passed over. An event acts with its argument, an engine makes its move, and a logit slot runs the word it has come to. With
no move left a cycle begins, or what the outside world does next takes effect if it is heard.
That a cycle is a list of moves and what is outside an input is the model's choice (log entries 1 and 15). -/
def Obligations.StepRunsDecodedWord : Prop :=
  ∀ s : State,
    (∀ a r, s.agenda = .word a :: r → (s.wordStands a = true → step s = exec (decode a.col a.q.word a.q.ext) { s with agenda := r, cur := a }) ∧
      (s.wordStands a = false → step s = .next { s with agenda := r })) ∧
    (∀ a, (s.tile a.tile).run = true → s.frozen a.tile = false → (s.tile a.tile).fe.seqr.run = false → a.body = false → ((s.tile a.tile).iq a.col).head? = some a.q →
      s.wordStands a = true) ∧
    (∀ i a r, s.agenda = .ev i a :: r → step s = exec i { s with agenda := r, arg := a }) ∧
    (∀ n c r, s.agenda = .engine n c :: r → step s = .next ({ s with agenda := r }.engineMove n c)) ∧
    (∀ d k r, s.agenda = .logit d k :: r → (∀ t, { s with agenda := r }.logitFetch d k = .moved t → step s = .next t) ∧
      (∀ t i, { s with agenda := r }.logitFetch d k = .word t i → step s = exec i t)) ∧
    (s.agenda = [] → s.inputs = [] → step s = .next s.tick) ∧
    (∀ i a r, s.agenda = [] → s.inputs = (i, a) :: r →
      (Config.go s.free = true → s.hears i = true → step s = exec i { s with free := s.free + 1, inputs := r, arg := a }) ∧
      (Config.go s.free = true → s.hears i = false → step s = .next { s with free := s.free + 1, inputs := r }) ∧
      (Config.go s.free = false → step s = .next { s with free := s.free + 1 }.tick))

/-- From every state whose memories are in their canonical form (addresses strictly rising, no zero byte listed), whatever the step does, the memories of the next state are: physical
memory, the memory of other packages, host memory, the pager image, and the scratchpads of the tiles and of the saved contexts. What an unlisted byte reads as is the model's choice
(log entry 2). -/
def Obligations.StepKeepsMemoryForm : Prop :=
  ∀ s t : State, s.memOk = true → step s = .next t → t.memOk = true

/-- R40, R43, R65, R101, R103, R116, R135, R210, R244, R251: the values the spec gives for package reset. The power registers, the time registers, telemetry, a port, a partition, a queue, a
ring, a die and a tile stand at them, the queues and the instruction store are empty, CT is in supervisor mode outside a handler, and every memory is in its canonical form.
The agenda of moves, what unwritten memory reads as, that no program runs from reset, and the registers whose reset value the spec does not give, are the model's choice (log entries 1, 2, 14
and 61). -/
def Obligations.ResetState : Prop :=
  let s := State.reset
  s.memOk = true ∧ s.stamp = 0 ∧ s.gangs = [] ∧ s.agenda = (List.range 512).map (fun n => .ev .beat { Arg.zero with tile := n }) ∧ s.bridges = 0 ∧ s.ctmo = 0x2710 ∧
    (s.pw.up = 0x64 ∧ s.pw.dn = 0x64 ∧ s.pw.en = true ∧ s.pw.badw = false ∧ s.pw.held = false) ∧
    (s.tm.run = false ∧ s.tm.arm = false ∧ s.tm.lock = false ∧ s.tm.badw = false ∧ s.tm.freq = 0 ∧ s.tm.start = 0 ∧ s.tm.epoch = 0 ∧ s.tm.pre = 0 ∧ s.tm.ppsStamp = 0 ∧ s.tm.ppsPre = 0) ∧
    (s.te.base = 0 ∧ s.te.en = false ∧ s.te.badw = false ∧ s.te.log2n = 6 ∧ s.te.widx = 0 ∧ s.te.lost = 0) ∧
    (∀ p, (s.port p).up = false) ∧
    (∀ p, (s.part p).st = 0 ∧ (s.part p).slice = 0x0000010100010000 ∧ (s.part p).wgt = 1 ∧ (s.part p).chbase = 0 ∧ (s.part p).frbase = 0 ∧ (s.part p).queues = [] ∧
      (s.part p).groups = []) ∧
    (∀ p q, (s.queue p q).ctl = 4 ∧ (s.queue p q).head = 0 ∧ (s.queue p q).tail = 0) ∧
    (∀ p r, (s.ring p r).ctl = 0x0000010000000008 ∧ (s.ring p r).pidx = 0) ∧
    (∀ d, (s.die d).shctl = 0x200 ∧ (s.die d).ents = (List.range 32).map (fun i => (i, i)) ∧ (s.die d).wctl = 0x8000000002 ∧ (s.die d).carve = [] ∧ (s.die d).jobs = []) ∧
    (∀ n, let x := s.tile n
      x.run = false ∧ (∀ r, x.g r = 0) ∧ (∀ q, x.queue q = []) ∧ (∀ k, x.sem k = 0) ∧ x.ct.mode = true ∧ x.ct.handler = false ∧ x.ct.missCnt = 0 ∧ x.ct.loops = [] ∧ x.fe.store = [] ∧
        (∀ c, x.iq c = []) ∧ x.mx.gated = 0xF ∧ x.mx.idleMax = 0x0400 ∧ x.st.health = 0x1F000000 ∧ x.st.spad = [] ∧ x.wa.health = .healthy ∧ x.wa.verd = 0xFF ∧ x.ownByte = 0x40 ∧ x.sq.flight = none)

/-! ### Landings and engines -/

/-- R146–R150, R153, R158, R171, R176, R197, R211, R314, R364: what a landing writes, each leaving everything else of its tile: rows and parts of rows, queue entries, tokens, address and pattern registers, scratchpad and scale
rows under a quarter mask, Pound rows, the latches of MX, operator slots, traps, and raises, which the semaphore shows from the next cycle. A landing that keeps a part of a row, or adds
to it, takes the row as it was before the landings of its count. Landings of one tile stay in the order of their counts. Scratchpad pieces, the data cache's bytes, stores to the
coherence point, system registers, descriptors, VX.AMAX, the window, mask rows and the rows of a Flight instruction land in the same way; what reads at issue + 1 makes its own landing
then. A store to the coherence point waits behind its prior set, behind a store that waits, and while a slice holds it. -/
def Obligations.LandingsWrite : Prop :=
  let noted := fun (t u : Tile) (r : Nat) => { u with st := { u.st with v := t.st.v }, sq := t.sq } = t ∧
    u.sq = { t.sq with flight := t.sq.flight.map (fun f => { f with above := f.above.map (· ++ [r]) }) }
  let later := fun (t : Tile) (d ord : Nat) (a : Act) => { t with pend := insertPend ⟨t.cnt + d, ord, a⟩ t.pend }
  (∀ (t : Tile) (r : Nat) (v : Row), let u := t.landed (.row r v)
    (∀ k, u.row k = if k = r then v else t.row k) ∧ noted t u r) ∧
  (∀ (t : Tile) (r : Nat) (v : Row) (keep : BitVec 4), let u := t.landed (.rowKeep r v keep)
    let was := fun (k : Nat) => get 0 t.before_.v k
    (∀ k q, q < 4 → lane (u.row k) 1024 q = if k = r then (if keep.getLsbD q then lane (was r) 1024 q else lane v 1024 q) else lane (t.row k) 1024 q) ∧ noted t u r) ∧
  (∀ (t : Tile) (r g : Nat) (v : BitVec 1024), let u := t.landed (.laneG r g v)
    (∀ k q, q < 4 → lane (u.row k) 1024 q = if k = r then (if q = g then v.toNat else lane (get 0 t.before_.v r) 1024 q) else lane (t.row k) 1024 q) ∧ noted t u r) ∧
  (∀ (t : Tile) (r n : Nat) (d : Row), let u := t.landed (.accI r n d)
    (∀ k c, c < 128 → lane (u.row k) 32 c = let old := if k = r then lane (get 0 t.before_.v r) 32 c else lane (t.row k) 32 c
      if k = r ∧ c < n then (old + lane d 32 c) % 2 ^ 32 else old) ∧
      noted t u r) ∧
  (∀ (t : Tile) (r n : Nat) (d : Row), let u := t.landed (.accF r n d)
    (∀ k c, c < 128 → lane (u.row k) 32 c = let old := if k = r then lane (get 0 t.before_.v r) 32 c else lane (t.row k) 32 c
      if k = r ∧ c < n then rne32 (addV false (dec f32 old) (dec f32 (lane d 32 c))) % 2 ^ 32 else old) ∧
      noted t u r) ∧
  (∀ (t : Tile) (q : Nat) (v : Row), let u := t.landed (.qpush q v)
    (∀ k, u.queue k = if k = q then t.queue q ++ [v] else t.queue k) ∧ { u with qs := { u.qs with q := t.qs.q, room := t.qs.room } } = t ∧
    ∀ port pc va, t.landed (.farPush port q v pc va) = u) ∧
  (∀ (t : Tile) (f : Nat), let u := t.landed (.token f)
    (∀ k, get 0 u.qs.tok k = if k = f then get 0 t.qs.tok f + 1 else get 0 t.qs.tok k) ∧ { u with qs := { u.qs with tok := t.qs.tok, tokRoom := t.qs.tokRoom } } = t) ∧
  (∀ (t : Tile) (r : Nat) (v : Word),
    (∀ k, (t.landed (.areg r v)).areg k = if k = r then v else t.areg k) ∧ { t.landed (.areg r v) with ct := t.ct } = t ∧
    (∀ k, get 0 (t.landed (.preg r v)).ct.preg k = if k = r then v else get 0 t.ct.preg k) ∧ { t.landed (.preg r v) with ct := t.ct } = t) ∧
  (∀ (t : Tile) (x : Nat) (v : Row) (keep : BitVec 4), t.st.spad.wf = true → let u := t.landed (.spad x v keep)
    (∀ b, u.st.spad.read b = if x ≤ b ∧ b < x + 512 ∧ keep.getLsbD ((b - x) / 128) = false then BitVec.ofNat 8 (lane v 8 (b - x)) else t.st.spad.read b) ∧
      { u with st := { u.st with spad := t.st.spad } } = t) ∧
  (∀ (t : Tile) (x : Nat) (v : BitVec 256), t.st.spad.wf = true → let u := t.landed (.piece x v)
    (∀ b, u.st.spad.read b = if x ≤ b ∧ b < x + 32 then v.extractLsb' (8 * (b - x)) 8 else t.st.spad.read b) ∧ { u with st := { u.st with spad := t.st.spad } } = t) ∧
  (∀ (t : Tile) (va : Nat) (bytes : List (Option Byte)) (rd wr : Bool) (via : Option Tlb), let u := t.landed (.cacheWrite va bytes rd wr via)
    let given := fun (a : Nat) => if va ≤ a then bytes.getD (a - va) none else none
    (∀ a, u.cacheByte a = (given a).getD (t.cacheByte a)) ∧
      (∀ a b, given a = some b → ∃ c, find u.cache (sectorKey a) = some c ∧ c.dirty.getLsbD (a % 32) = true) ∧ { u with cache := t.cache } = t) ∧
  (∀ (s : State) (n va : Nat) (bytes : List (Option Byte)) (rd wr : Bool) (via : Option Tlb), let a := Act.cacheWrite va bytes rd wr via
    let waits := (s.tile n).storeAhead = true ∨ s.roomWaits n va bytes.length = true
    (waits → s.landAct n a = s.modTile n (fun t => { t with pend := insertPend ⟨0, 49, a⟩ t.pend })) ∧ (¬waits → s.landAct n a = s.cacheStore n va bytes rd wr via)) ∧
  (∀ (s : State) (n va pa attr key : Nat) (bytes : List (Option Byte)) (mask : BitVec 4) (toks prior : List Nat), let a := Act.coStore va pa attr bytes mask toks key prior
    let x := s.tile n
    let waits := x.priorDone prior = false ∨ x.storeAhead = true ∨ ∃ d, s.localDie va = some d ∧ ∃ l ∈ linesOf va bytes.length, (s.die d).heldIndex (vaOff l) = true
    let back := fun (u : State) => u.modTile n (fun t => { t with pend := insertPend ⟨0, 49, a⟩ t.pend })
    let u := (if mask = 0 then s else s.releaseCache n mask 4).flushRange n va bytes.length
    let held := (mask ≠ 0 ∧ u.backHeld n (fun _ => true) = true) ∨ u.backHeld n (fun z => (sectorsOf va bytes.length).contains z) = true
    (waits → s.landAct n a = back s) ∧
    (¬waits → s.cutOff (dieOf n) va = true → x.run = false → s.landAct n a = s) ∧
    (¬waits → s.cutOff (dieOf n) va = true → x.run = true → ((s.landAct n a).tile n).ct.reqs = x.ct.reqs ++
      [⟨tTRANSLATION, colCode .st, x.pc .st, 2, false, BitVec.ofNat 64 va, xfltInfo va x.id.part (colCode .st) 1 ⟨2, 0⟩⟩]) ∧
    (¬waits → s.cutOff (dieOf n) va = false → held → s.landAct n a = back u) ∧
    (¬waits → s.cutOff (dieOf n) va = false → ¬held → s.landAct n a = ((u.mend va pa bytes).writeAt x.id.part va pa attr bytes).modTile n
      (fun t => { t with pend := toks.foldl (fun l q => insertPend ⟨t.cnt + 1, 0, .token q⟩ l) t.pend }))) ∧
  (∀ (t : Tile) (v : Word) (y : Nat),
    t.landed (.sys 0x030 v) = { t with mx := { t.mx with idleMax := BitVec.ofNat 16 (wfld v 0 16) } } ∧ t.landed (.sys 0x039 v) = { t with sq := { t.sq with cfg := v &&& 0x3FFFF#64 } } ∧
    t.landed (.sys 0x080 v) = { t with sq := { t.sq with win := v &&& 0x7FFF7F#64 } } ∧ t.landed (.sys 0x081 v) = { t with sq := { t.sq with amax := v &&& 0x3FFFFFFFF#64 } } ∧
    t.landed (.sys 0x082 v) = { t with sq := { t.sq with rng := v } } ∧ (y ∉ [0x030, 0x039, 0x080, 0x081, 0x082] → t.landed (.sys y v) = t)) ∧
  (∀ (t : Tile) (v : Lane) (nan inf : Bool), let u := t.landed (.amax v nan inf)
    wfld u.sq.amax 0 32 = maxF f32 (wfld t.sq.amax 0 32) v.toNat ∧
      u.sq.amax.getLsbD 32 = (t.sq.amax.getLsbD 32 || nan) ∧ u.sq.amax.getLsbD 33 = (t.sq.amax.getLsbD 33 || inf) ∧ { u with sq := { u.sq with amax := t.sq.amax } } = t) ∧
  (∀ t : Tile, let w := t.sq.win
    let rs := wfld w 8 8
    t.landed .wbAdvance = { t with sq := { t.sq with win := if rs = 0 then w else wset w 16 7 ((wfld w 16 7 + rs - 1) % rs) } } ∧
    t.landed .mtEnd = { t with mx := { t.mx with group := none, rows := 0 } }) ∧
  (∀ (t : Tile) (slot other : Nat), let d := fun (k : Nat) => t.desc k
    let kept := fun (k p st : Nat) => descWord (slotHeld (d k)) (slotBusy (d k)) p st
    let freed := fun (k : Nat) => descWord false (slotBusy (d k)) 0 0
    let only := fun (u : Tile) => { u with st := { u.st with pdesc := t.st.pdesc } } = t
    let p := slotPair (d slot)
    let swap := fun (k : Nat) => if slotState (d k) = 2 then 3 else 2
    let shadowed := slotState (d slot) = 2 ∨ slotState (d slot) = 3
    (let u := t.landed (.pair 0 slot other); only u ∧ ∀ k, u.desc k = if k = slot then kept slot 0 1 else d k) ∧
    (let u := t.landed (.pair 1 slot other); slot ≠ other → only u ∧ ∀ k, u.desc k = if k = slot then kept slot other 2 else if k = other then kept other slot 3 else d k) ∧
    (let u := t.landed (.pair 2 slot other); only u ∧ ∀ k, u.desc k = if k = slot ∨ (slotState (d slot) = 2 ∧ k = p) then freed k else d k) ∧
    (∀ c, 3 ≤ c → let u := t.landed (.pair c slot other);
      (¬shadowed → u = t) ∧ (shadowed → p ≠ slot → only u ∧ ∀ k, u.desc k = if k = slot then kept slot p (swap slot) else if k = p then kept p slot (swap p) else d k))) ∧
  (∀ (t : Tile) (k x slot row v : Nat) (m : Row),
    (∀ i, get 0 (t.landed (.maskRow k m)).mx.mask i = if i = k then m else get 0 t.mx.mask i) ∧
    { t.landed (.maskRow k m) with mx := { (t.landed (.maskRow k m)).mx with mask := t.mx.mask } } = t ∧
    t.landed (.mspxRead k x) = later t 3 (landOrd .mx) (.maskRow k (t.spadRow x)) ∧ t.landed (.ldbRead row k x) = later t 3 (landOrd .ld) (.bslice row k (t.spadRow x)) ∧
    t.landed (.stpRead slot row x) = later t 1 (landOrd .st) (.spad x (t.poundRow slot row) 0) ∧ t.landed (.pldRead slot row v) = later t 3 (landOrd .sq) (.row v (t.poundRow slot row))) ∧
  (∀ (t : Tile) (n : Nat),
    (∀ f, t.sq.flight = some f → f.num = n →
      (f.res = none → t.landed (.flightOut n) = { t with sq := { t.sq with flight := some { f with above := some [] } } }) ∧
      (∀ rows, f.res = some rows → let u := t.landed (.flightOut n)
        (∀ k, u.row k = if f.v ≤ k ∧ k < f.v + rows.length ∧ k ∉ f.above.getD [] then rows.getD (k - f.v) 0 else t.row k) ∧
        u.pend = f.pushes.foldl (fun l q => insertPend ⟨t.cnt + 1, 0, .token q⟩ l) t.pend ∧
        { u with st := { u.st with v := t.st.v }, pend := t.pend } = { t with sq := { t.sq with flight := none, mstep := 0 } })) ∧
    ((∀ f, t.sq.flight = some f → f.num ≠ n) → t.landed (.flightOut n) = t)) ∧
  (∀ (t : Tile) (r : Nat) (v : Row) (keep : BitVec 4), let u := t.landed (.scale r v keep)
    (∀ k q, q < 4 → lane (u.scaleRow k) 1024 q =
      if k = r then (if keep.getLsbD q then lane (get 0 t.before_.scale r) 1024 q else lane v 1024 q) else lane (t.scaleRow k) 1024 q) ∧
      { u with st := { u.st with scale := t.st.scale } } = t) ∧
  (∀ (t : Tile) (slot row : Nat) (v : Row), row < 16 → let u := t.landed (.pound slot row v)
    (∀ k r, r < 16 → u.poundRow k r = if k = slot ∧ r = row then v else t.poundRow k r) ∧ { u with st := { u.st with pound := t.st.pound } } = t) ∧
  (∀ (t : Tile) (krow k : Nat) (v : Row), k < 96 → let u := t.landed (.bslice krow k v)
    (∀ i j, j < 96 → get 0 u.st.bslice (96 * i + j) = if i = krow ∧ j = k then v else get 0 t.st.bslice (96 * i + j)) ∧ { u with st := { u.st with bslice := t.st.bslice } } = t) ∧
  (∀ (t : Tile) (krow spn a b c d : Nat) (data : SMap Row) (g : BitVec 4),
    t.landed (.latch krow spn data) = { t with mx := { t.mx with ksel := krow, spn := spn, latch := data } } ∧
    t.landed (.mscl a b) = { t with mx := { t.mx with breg := a, aptr := b } } ∧ t.landed (.aptr b) = { t with mx := { t.mx with aptr := b } } ∧
    t.landed (.mmsk a b c d) = { t with mx := { t.mx with mode := a, rbase := b, rrow := c, qrow := d } } ∧
    t.landed (.ungate g) = { t with mx := { t.mx with gated := t.mx.gated &&& ~~~g } }) ∧
  (∀ (t : Tile) (o : Nat) (img : BitVec 1024), o < 8 → let u := t.landed (.opslot o img)
    (∀ k, get 0 u.sq.ops k = if k = o then img else get 0 t.sq.ops k) ∧ (∀ k, k < 8 → u.sq.valid.getLsbD k = (k == o || t.sq.valid.getLsbD k)) ∧
      { u with sq := { u.sq with ops := t.sq.ops, valid := t.sq.valid } } = t) ∧
  (∀ (t : Tile) (r : TrapReq), (t.landed (.trap r)).ct.reqs = t.ct.reqs ++ [r] ∧ { t.landed (.trap r) with ct := t.ct } = t) ∧
  (∀ (t : Tile) (n : Nat) (v : Word), t.qs.raises = [] → let u := (t.landed (.raise n v)).settle
    (∀ k, (t.landed (.raise n v)).sem k = t.sem k) ∧ (∀ k, u.sem k = if k = n then t.sem k + BitVec.ofNat 32 v.toNat else t.sem k)) ∧
  (∀ (p : Pend) (l : List Pend), let before := fun (a b : Pend) => a.due < b.due ∨ (a.due = b.due ∧ a.ord ≤ b.ord)
    List.Pairwise before l → List.Pairwise before (insertPend p l))

/-- R335, R336, R338: with both its spaces in the scratchpad of its tile, the one command of CE moves one 128-byte piece at a move of the engine, and goes on to the next until nothing is left:
`COPY` moves the bytes of the piece, which it reads as they were before the synchronous writes of the cycle (R186), `FILL` writes byte i mod 8 of its value at byte i, and `XADD` and `CAS` change one element and push its old value. Nothing outside the bytes written
changes. That a command performs piece by piece is the model's choice (log entry 12). -/
def Obligations.EnginePiecesMove : Prop :=
  ∀ (s : State) (n : Nat) (c : Cmd),
    let x := s.tile n
    x.faulted .ce = false → x.en.ceq = [c] → c.started = true → c.performed = false → c.ahead = none → x.st.spad.wf = true →
    let i := 128 * c.lines
    let t := s.engineMove n .ce
    let y := t.tile n
    let moved := fun (total : Nat) => y.en.ceq = [{ c with lines := c.lines + 1, performed := decide ((total + 127) / 128 ≤ c.lines + 1) && c.left == 0 }]
    let finished := y.en.ceq = [{ c with performed := true }]
    let keeps := OnlyTile { s with free := s.free + 1 } t n ∧ { y with st := { y.st with spad := x.st.spad }, en := { y.en with ceq := x.en.ceq }, old := x.old } = x
    (∀ o, c.instr = .copy o → ssp o = 1 → dsp o = 1 →
      (i < c.opnd 2 → keeps ∧ moved (c.opnd 2) ∧ ∀ b, y.st.spad.read b =
        if c.opnd 1 + i ≤ b ∧ b < c.opnd 1 + Nat.min (i + 128) (c.opnd 2) then x.before_.spad.read (c.opnd 0 + (b - c.opnd 1)) else x.st.spad.read b) ∧
      (c.opnd 2 ≤ i → keeps ∧ finished ∧ y.st = x.st)) ∧
    (∀ o, c.instr = .fill o → dsp o = 1 →
      (i < c.opnd 1 → keeps ∧ moved (c.opnd 1) ∧ ∀ b, y.st.spad.read b =
        if c.opnd 0 + i ≤ b ∧ b < c.opnd 0 + Nat.min (i + 128) (c.opnd 1) then BitVec.ofNat 8 (c.opnd 2 / 256 ^ ((b - c.opnd 0) % 8)) else x.st.spad.read b) ∧
      (c.opnd 1 ≤ i → keeps ∧ finished ∧ y.st = x.st)) ∧
    (let old := leNat (x.before_.spad.bytes (c.opnd 0) 8)
      let pushed := fun (q : Nat) => (∀ k, y.queue k = if k = q then x.queue q ++ [BitVec.ofNat 4096 old] else x.queue k)
      let elem := fun (new : Nat) => ∀ b, y.st.spad.read b = if c.opnd 0 ≤ b ∧ b < c.opnd 0 + 8 then BitVec.ofNat 8 (new / 256 ^ (b - c.opnd 0)) else x.st.spad.read b
      (∀ o, c.instr = .xadd o → dsp o = 1 → OnlyTile { s with free := s.free + 1 } t n ∧ finished ∧ pushed (opx o % 4) ∧ elem ((old + c.opnd 1) % 2 ^ 64)) ∧
      (∀ o, c.instr = .cas o → dsp o = 1 → OnlyTile { s with free := s.free + 1 } t n ∧ finished ∧ pushed (opx o % 4) ∧ elem (if old = c.opnd 1 then c.opnd 2 else old)))

/-- R258–R263, R267–R269, R272: what the words that the spec writes out with their derivations decode to, in every stream (12_formats, 14_control_isa, 15_memory_isa, 16_vector_isa,
17_matrix_scan_isa, 18_link_logit_isa, 19_programs_serving, 20_programs_scan_recovery): `ADDI`, the long `LDI`, `LDS`, `SEMW`, `MARK` and `DONE`; `LDV`, `LDG` and `LDB`; `STM` and `STZ`;
`ACCW`; `VADD` and `VCVT`; `MBSEL`, `MMAX`, and `MMA` with a delay and with a stamp; `SCAN`, `SLBK`, `SXSC`, `PBIND`, `STEP` and `PSPILL`; `RADD`; and words of logit programs. -/
def Obligations.DecodedWordsFromSpec : Prop :=
  decode .ct 0x4CA50001 none = .addi ⟨5, 5, 1⟩ ∧ decode .ct 0x6D167880 (some 0x050091A2) = .ldiLong 8 0x167880 0x050091A2 ∧
    decode .ct 0x9528C000 none = .lds ⟨9, 8, 3, false, 0⟩ ∧ decode .ct 0xA4349100 none = .semw ⟨3, 9, 2, 1⟩ ∧ decode .ct 0xBC090000 none = .mark 9 ∧
    decode .ct 0xC0000000 none = .done ∧
    decode .ld 0x04001908 none = .ldv ⟨0, false, false, 0, 3, 1, 8⟩ ∧ decode .ld 0x11080485 none = .ldg ⟨2, false, true, 0, 0, 4, 0x85⟩ ∧
    decode .ld 0x14280900 none = .ldb ⟨0, true, true, 1, 1, 0⟩ ∧
    decode .st 0x20011314 none = .stm ⟨⟨0, false, false, false, false⟩, 2, 2, 3, 0x14⟩ ∧ decode .st 0x1C502900 none = .stz ⟨⟨0, true, false, true, false⟩, 0, 5, 1⟩ ∧
    decode .ce 0x101C014D (some 0x90000000) = .accw ⟨7, 0, 5, 1, true, false, true, true, 2, 0, 0⟩ ∧
    decode .vx 0x07880000 (some 0x0A050900) = .vadd ⟨⟨7, false, false, false, true⟩, 0, 0, 0, 10, 5, 9, 0⟩ ∧
    decode .vx 0x4801C130 (some 0x14031500) = .vcvt ⟨⟨0, false, false, false, false⟩, 3, 4, 0x130, 0x14, 3, 0x15, 0⟩ ∧
    decode .mx 0x14000003 none = .mbsel ⟨⟨0, false, false, false, false⟩, none⟩ 0 3 ∧
    decode .mx 0x0C000320 none = .mmax ⟨⟨0, false, false, false, false⟩, none⟩ 0 1 4 true ∧
    decode .mx 0x04005400 (some 0x00001F40) = .mma ⟨⟨0, false, false, false, false⟩, some 0x1F40⟩ 5 2 0 false ∧
    decode .mx 0x05803420 none = .mma ⟨⟨3, false, false, false, false⟩, none⟩ 3 2 0 true ∧
    decode .sq 0x08013140 none = .scan ⟨⟨0, false, false, false, false⟩, none⟩ 1 12 40 ∧ decode .sq 0x18012050 none = .slbk ⟨⟨0, false, false, false, false⟩, none⟩ 1 16 20 ∧
    decode .sq 0x17090030 none = .sxsc ⟨⟨6, false, false, false, true⟩, none⟩ 1 0 6 ∧ decode .sq 0x18210C08 none = .slbk ⟨⟨0, false, true, false, false⟩, none⟩ 1 6 2 ∧
    decode .sq 0x2400A4C0 none = .pbindPair ⟨⟨0, false, false, false, false⟩, none⟩ 5 9 ∧
    decode .sq 0x3488A048 none = .step ⟨⟨1, false, false, false, true⟩, none⟩ 5 0 1 8 ∧
    decode .sq 0x3800A188 none = .pspill ⟨⟨0, false, false, false, false⟩, none⟩ 5 3 4 false ∧
    decode .lk 0x08C02024 (some 0x1A000002) = .radd ⟨⟨1, true, false, false, false⟩, 4, 1, false, false, true, 6, 4, false, 0, 0, 2⟩ ∧
    decode .logit 0x04000000 none = .lldl 0 ∧ decode .logit 0x48000801 (some 0x40000000) = .lldkLit 1 0 0x40000000 ∧ decode .logit 0x0C400800 none = .lpen 1 0 1 0 ∧
    decode .logit 0x10441000 none = .ltemp 1 1 2 ∧ decode .logit 0x34840000 none = .lgumb 2 1 ∧ decode .logit 0x54084000 none = .lemit 2 1 ∧
    decode .logit 0x5C000000 none = .lend ∧ decode .logit 0x5840000A none = .lgrpAddcum 1 0 ∧ decode .logit 0x18040800 none = .lmax 1 1 ∧
    decode .logit 0x3C840814 none = .lcmpK 2 1 1 2 ∧ decode .logit 0x44C01002 none = .lmovK 3 2 ∧ decode .logit 0x4104C004 none = .lsel 4 1 3 2
end

