-- ==== Sys2Proof/Laws/Store.lean ====
section
/-! SUPPORT. The laws of maps and memories: a read after a write, and that every memory operation keeps the canonical form. -/
namespace Sys2Proof.Machine

open Sys2Proof

/-! ### Maps -/

@[simp] theorem get_nil (d : α) (k : Nat) : get d [] k = d := rfl

theorem get_put (d : α) (m : SMap α) (k : Nat) (v : α) (j : Nat) : get d (put m k v) j = if j = k then v else get d m j := by
  induction m with
  | nil =>
    by_cases h : j = k
    · simp [put, get, h]
    · have h' : ¬ k = j := fun e => h e.symm
      simp [put, get, h, h']
  | cons e r ih =>
    obtain ⟨i, u⟩ := e
    unfold put
    by_cases h : j = k
    · subst h
      by_cases h1 : i = j
      · simp [h1, get]
      · by_cases h2 : j < i
        · simp [h1, h2, get]
        · simp [h1, h2, get, ih]
    · have h' : ¬ k = j := fun e => h e.symm
      by_cases h1 : i = k
      · simp [h1, get, h, h']
      · by_cases h2 : k < i
        · simp [h1, h2, get, h, h']
        · simp [h1, h2, get, ih, h]

@[simp] theorem get_put_same (d : α) (m : SMap α) (k : Nat) (v : α) : get d (put m k v) k = v := by simp [get_put]

theorem get_put_other (d : α) (m : SMap α) {k j : Nat} (v : α) (h : j ≠ k) : get d (put m k v) j = get d m j := by
  simp [get_put, h]

theorem get_upd (d : α) (m : SMap α) (k : Nat) (f : α → α) (j : Nat) :
    get d (upd d m k f) j = if j = k then f (get d m k) else get d m j := get_put ..

/-! ### Memories -/

/-- Below its first entry a rising list holds no key. -/
theorem get_below (d : α) (r : SMap α) : ∀ (j : Nat) (u : α), rising ((j, u) :: r) = true → ∀ c, c ≤ j → get d r c = d := by
  induction r with
  | nil => intros; rfl
  | cons f r ih =>
    intro j u h c hc
    obtain ⟨k, w⟩ := f
    simp only [rising, Bool.and_eq_true, decide_eq_true_eq] at h
    have : ¬ k = c := by omega
    simp only [get, this, if_false]
    exact ih k w h.2 c (by omega)

theorem rising_tail (e : Nat × α) (r : SMap α) (h : rising (e :: r) = true) : rising r = true := by
  cases r with
  | nil => rfl
  | cons f r => simp only [rising, Bool.and_eq_true] at h; exact h.2

theorem Memory.get_write (a : Nat) (b : Byte) (m : Memory) :
    rising m = true → ∀ c, get 0 (Memory.write m a b) c = if c = a then b else get 0 m c := by
  induction m with
  | nil =>
    intro _ c
    unfold Memory.write
    by_cases hb : b = 0
    · rw [if_pos hb]; split
      · rw [hb]; rfl
      · rfl
    · rw [if_neg hb]
      by_cases h : c = a
      · rw [if_pos h]; simp [get, h]
      · rw [if_neg h]; have h' : ¬ a = c := fun e => h e.symm
        simp [get, h']
  | cons e r ih =>
    intro hr c
    obtain ⟨j, u⟩ := e
    have hr' := rising_tail _ _ hr
    unfold Memory.write
    by_cases h1 : j = a
    · subst h1
      rw [if_pos rfl]
      by_cases h : c = j
      · subst h
        rw [if_pos rfl]
        by_cases hb : b = 0
        · rw [if_pos hb, get_below 0 r c u hr c (Nat.le_refl c), hb]
        · rw [if_neg hb]; simp [get]
      · have h' : ¬ j = c := fun e => h e.symm
        rw [if_neg h]
        by_cases hb : b = 0
        · rw [if_pos hb]; simp [get, h']
        · rw [if_neg hb]; simp [get, h']
    · rw [if_neg h1]
      by_cases h2 : a < j
      · rw [if_pos h2]
        by_cases h : c = a
        · subst h
          rw [if_pos rfl]
          by_cases hb : b = 0
          · rw [if_pos hb, hb]; simp only [get, h1, if_false]
            exact get_below 0 r j u hr c (Nat.le_of_lt h2)
          · rw [if_neg hb]; simp [get]
        · rw [if_neg h]; have h' : ¬ a = c := fun e => h e.symm
          by_cases hb : b = 0
          · rw [if_pos hb]
          · rw [if_neg hb]; simp [get, h']
      · rw [if_neg h2]
        by_cases h : c = a
        · subst h; rw [if_pos rfl]; simp only [get, h1, if_false]; rw [ih hr', if_pos rfl]
        · rw [if_neg h]
          by_cases h3 : j = c
          · simp [get, h3]
          · simp only [get, h3, if_false]; rw [ih hr', if_neg h]

theorem Memory.read_write (m : Memory) (a : Nat) (b : Byte) (c : Nat) (hm : m.wf = true) :
    Memory.read (Memory.write m a b) c = if c = a then b else Memory.read m c := by
  simp only [Memory.wf, Bool.and_eq_true] at hm
  exact Memory.get_write a b m hm.1 c

theorem Memory.head_write (m : Memory) (a : Nat) (b : Byte) (j : Nat) (u : Byte) (hj : j < a) (h : rising ((j, u) :: m) = true) :
    rising ((j, u) :: Memory.write m a b) = true := by
  induction m generalizing j u with
  | nil => unfold Memory.write; split <;> simp [rising, hj]
  | cons e r ih =>
    obtain ⟨k, w⟩ := e
    simp only [rising, Bool.and_eq_true, decide_eq_true_eq] at h
    unfold Memory.write
    split
    · subst k
      split
      · cases r with
        | nil => simp [rising]
        | cons f r => simp_all [rising]; omega
      · cases r with
        | nil => simp [rising, hj]
        | cons f r => simp_all [rising]
    · split
      · split
        · simp [rising, h.1, h.2]
        · simp only [rising, Bool.and_eq_true, decide_eq_true_eq]; exact ⟨hj, by assumption, h.2⟩
      · simp only [rising, Bool.and_eq_true, decide_eq_true_eq]
        exact ⟨h.1, ih k w (by omega) h.2⟩

theorem Memory.wf_write (m : Memory) (a : Nat) (b : Byte) (h : m.wf = true) : Memory.wf (Memory.write m a b) = true := by
  simp only [Memory.wf, Bool.and_eq_true] at h ⊢
  obtain ⟨hr, ha⟩ := h
  constructor
  · cases m with
    | nil => unfold Memory.write; split <;> simp [rising]
    | cons e r =>
      obtain ⟨j, u⟩ := e
      unfold Memory.write
      split
      · subst j
        split
        · cases r <;> simp_all [rising]
        · cases r <;> simp_all [rising]
      · split
        · split
          · exact hr
          · simp only [rising, Bool.and_eq_true, decide_eq_true_eq]; exact ⟨by assumption, hr⟩
        · exact Memory.head_write r a b j u (by omega) hr
  · induction m with
    | nil => unfold Memory.write; split <;> simp_all
    | cons e r ih =>
      obtain ⟨j, u⟩ := e
      have hr' : rising r = true := by cases r <;> simp_all [rising]
      simp only [List.all_cons, Bool.and_eq_true] at ha
      unfold Memory.write
      split
      · split
        · exact ha.2
        · rename_i hb; simp only [List.all_cons, Bool.and_eq_true]; exact ⟨by simpa using hb, ha.2⟩
      · split
        · split
          · simp only [List.all_cons, Bool.and_eq_true]; exact ha
          · rename_i hb; simp only [List.all_cons, Bool.and_eq_true]; exact ⟨by simpa using hb, ha⟩
        · simp only [List.all_cons, Bool.and_eq_true]; exact ⟨ha.1, ih hr' ha.2⟩

theorem Memory.wf_store (bs : List Byte) : ∀ (m : Memory) (a : Nat), m.wf = true → Memory.wf (Memory.store m a bs) = true := by
  induction bs with
  | nil => intro m a h; exact h
  | cons b r ih => intro m a h; exact ih _ _ (m.wf_write a b h)

theorem Memory.wf_storeMasked (bs : List (Option Byte)) :
    ∀ (m : Memory) (a : Nat), m.wf = true → Memory.wf (Memory.storeMasked m a bs) = true := by
  induction bs with
  | nil => intro m a h; exact h
  | cons b r ih =>
    intro m a h
    cases b with
    | none => exact ih _ _ h
    | some b => exact ih _ _ (m.wf_write a b h)

theorem Memory.read_store (bs : List Byte) : ∀ (m : Memory) (a c : Nat), m.wf = true →
    Memory.read (Memory.store m a bs) c = if a ≤ c ∧ c < a + bs.length then bs.getD (c - a) 0 else Memory.read m c := by
  induction bs with
  | nil => intro m a c h; rw [if_neg (fun k => absurd k.2 (by simpa using k.1))]; rfl
  | cons b r ih =>
    intro m a c h
    simp only [Memory.store]
    rw [ih _ _ _ (m.wf_write a b h), m.read_write a b c h]
    by_cases h1 : c = a
    · subst h1
      rw [if_neg (by omega), if_pos rfl, if_pos (by simp)]; simp
    · by_cases h2 : a + 1 ≤ c ∧ c < a + 1 + r.length
      · have : c - a = (c - (a + 1)) + 1 := by omega
        rw [if_pos h2, if_pos (by simp; omega), this]; simp
      · rw [if_neg h2, if_neg h1, if_neg (by simp; omega)]

end Sys2Proof.Machine
end

