-- ==== Sys2Proof/Laws/State.lean ====
section
/-! SUPPORT. What the updates of the state and of a tile leave: one lemma for each field and each update. -/
namespace Sys2Proof.Machine

open Sys2Proof

/-! ### Tiles of the state -/

theorem State.tile_setTile (s : State) (n : Nat) (t : Tile) (m : Nat) : (s.setTile n t).tile m = if m = n then t else s.tile m := get_put ..
@[simp] theorem State.tile_setTile_same (s : State) (n : Nat) (t : Tile) : (s.setTile n t).tile n = t := by simp [State.tile_setTile]
theorem State.tile_setTile_other (s : State) {n m : Nat} (t : Tile) (h : m ≠ n) : (s.setTile n t).tile m = s.tile m := by
  simp [State.tile_setTile, h]
theorem State.tile_modTile (s : State) (n : Nat) (f : Tile → Tile) (m : Nat) :
    (s.modTile n f).tile m = if m = n then f (s.tile n) else s.tile m := get_put ..
@[simp] theorem State.tile_modTile_same (s : State) (n : Nat) (f : Tile → Tile) : (s.modTile n f).tile n = f (s.tile n) := by
  simp [State.tile_modTile]
theorem State.tile_modTile_other (s : State) {n m : Nat} (f : Tile → Tile) (h : m ≠ n) : (s.modTile n f).tile m = s.tile m := by
  simp [State.tile_modTile, h]

/-! ### Fields of the state -/

@[simp] theorem State.stamp_setTile (s : State) (n : Nat) (t : Tile) : (s.setTile n t).stamp = s.stamp := rfl
@[simp] theorem State.pkg_setTile (s : State) (n : Nat) (t : Tile) : (s.setTile n t).pkg = s.pkg := rfl
@[simp] theorem State.gangs_setTile (s : State) (n : Nat) (t : Tile) : (s.setTile n t).gangs = s.gangs := rfl
@[simp] theorem State.dies_setTile (s : State) (n : Nat) (t : Tile) : (s.setTile n t).dies = s.dies := rfl
@[simp] theorem State.bridges_setTile (s : State) (n : Nat) (t : Tile) : (s.setTile n t).bridges = s.bridges := rfl
@[simp] theorem State.cxlUp_setTile (s : State) (n : Nat) (t : Tile) : (s.setTile n t).cxlUp = s.cxlUp := rfl
@[simp] theorem State.cxlSize_setTile (s : State) (n : Nat) (t : Tile) : (s.setTile n t).cxlSize = s.cxlSize := rfl
@[simp] theorem State.remap_setTile (s : State) (n : Nat) (t : Tile) : (s.setTile n t).remap = s.remap := rfl
@[simp] theorem State.far_setTile (s : State) (n : Nat) (t : Tile) : (s.setTile n t).far = s.far := rfl
@[simp] theorem State.routes_setTile (s : State) (n : Nat) (t : Tile) : (s.setTile n t).routes = s.routes := rfl
@[simp] theorem State.routeNo_setTile (s : State) (n : Nat) (t : Tile) : (s.setTile n t).routeNo = s.routeNo := rfl
@[simp] theorem State.laneErrors_setTile (s : State) (n : Nat) (t : Tile) : (s.setTile n t).laneErrors = s.laneErrors := rfl
@[simp] theorem State.joins_setTile (s : State) (n : Nat) (t : Tile) : (s.setTile n t).joins = s.joins := rfl
@[simp] theorem State.mem_setTile (s : State) (n : Nat) (t : Tile) : (s.setTile n t).mem = s.mem := rfl
@[simp] theorem State.parts_setTile (s : State) (n : Nat) (t : Tile) : (s.setTile n t).parts = s.parts := rfl
@[simp] theorem State.msi_setTile (s : State) (n : Nat) (t : Tile) : (s.setTile n t).msi = s.msi := rfl
@[simp] theorem State.pba_setTile (s : State) (n : Nat) (t : Tile) : (s.setTile n t).pba = s.pba := rfl
@[simp] theorem State.records_setTile (s : State) (n : Nat) (t : Tile) : (s.setTile n t).records = s.records := rfl
@[simp] theorem State.notices_setTile (s : State) (n : Nat) (t : Tile) : (s.setTile n t).notices = s.notices := rfl
@[simp] theorem State.host_setTile (s : State) (n : Nat) (t : Tile) : (s.setTile n t).host = s.host := rfl
@[simp] theorem State.key_setTile (s : State) (n : Nat) (t : Tile) : (s.setTile n t).key = s.key := rfl
@[simp] theorem State.packets_setTile (s : State) (n : Nat) (t : Tile) : (s.setTile n t).packets = s.packets := rfl
@[simp] theorem State.carries_setTile (s : State) (n : Nat) (t : Tile) : (s.setTile n t).carries = s.carries := rfl
@[simp] theorem State.msgs_setTile (s : State) (n : Nat) (t : Tile) : (s.setTile n t).msgs = s.msgs := rfl
@[simp] theorem State.blocks_setTile (s : State) (n : Nat) (t : Tile) : (s.setTile n t).blocks = s.blocks := rfl
@[simp] theorem State.contribs_setTile (s : State) (n : Nat) (t : Tile) : (s.setTile n t).contribs = s.contribs := rfl
@[simp] theorem State.reds_setTile (s : State) (n : Nat) (t : Tile) : (s.setTile n t).reds = s.reds := rfl
@[simp] theorem State.refused_setTile (s : State) (n : Nat) (t : Tile) : (s.setTile n t).refused = s.refused := rfl
@[simp] theorem State.ctmo_setTile (s : State) (n : Nat) (t : Tile) : (s.setTile n t).ctmo = s.ctmo := rfl
@[simp] theorem State.pw_setTile (s : State) (n : Nat) (t : Tile) : (s.setTile n t).pw = s.pw := rfl
@[simp] theorem State.tm_setTile (s : State) (n : Nat) (t : Tile) : (s.setTile n t).tm = s.tm := rfl
@[simp] theorem State.te_setTile (s : State) (n : Nat) (t : Tile) : (s.setTile n t).te = s.te := rfl
@[simp] theorem State.ports_setTile (s : State) (n : Nat) (t : Tile) : (s.setTile n t).ports = s.ports := rfl
@[simp] theorem State.boot_setTile (s : State) (n : Nat) (t : Tile) : (s.setTile n t).boot = s.boot := rfl
@[simp] theorem State.plain_setTile (s : State) (n : Nat) (t : Tile) : (s.setTile n t).plain = s.plain := rfl
@[simp] theorem State.pager_setTile (s : State) (n : Nat) (t : Tile) : (s.setTile n t).pager = s.pager := rfl
@[simp] theorem State.visit_setTile (s : State) (n : Nat) (t : Tile) : (s.setTile n t).visit = s.visit := rfl
@[simp] theorem State.visiting_setTile (s : State) (n : Nat) (t : Tile) : (s.setTile n t).visiting = s.visiting := rfl
@[simp] theorem State.placedAt_setTile (s : State) (n : Nat) (t : Tile) : (s.setTile n t).placedAt = s.placedAt := rfl
@[simp] theorem State.saved_setTile (s : State) (n : Nat) (t : Tile) : (s.setTile n t).saved = s.saved := rfl
@[simp] theorem State.agenda_setTile (s : State) (n : Nat) (t : Tile) : (s.setTile n t).agenda = s.agenda := rfl
@[simp] theorem State.inputs_setTile (s : State) (n : Nat) (t : Tile) : (s.setTile n t).inputs = s.inputs := rfl
@[simp] theorem State.arg_setTile (s : State) (n : Nat) (t : Tile) : (s.setTile n t).arg = s.arg := rfl
@[simp] theorem State.cur_setTile (s : State) (n : Nat) (t : Tile) : (s.setTile n t).cur = s.cur := rfl
@[simp] theorem State.free_setTile (s : State) (n : Nat) (t : Tile) : (s.setTile n t).free = s.free := rfl

@[simp] theorem State.stamp_modTile (s : State) (n : Nat) (f : Tile → Tile) : (s.modTile n f).stamp = s.stamp := rfl
@[simp] theorem State.pkg_modTile (s : State) (n : Nat) (f : Tile → Tile) : (s.modTile n f).pkg = s.pkg := rfl
@[simp] theorem State.gangs_modTile (s : State) (n : Nat) (f : Tile → Tile) : (s.modTile n f).gangs = s.gangs := rfl
@[simp] theorem State.dies_modTile (s : State) (n : Nat) (f : Tile → Tile) : (s.modTile n f).dies = s.dies := rfl
@[simp] theorem State.bridges_modTile (s : State) (n : Nat) (f : Tile → Tile) : (s.modTile n f).bridges = s.bridges := rfl
@[simp] theorem State.cxlUp_modTile (s : State) (n : Nat) (f : Tile → Tile) : (s.modTile n f).cxlUp = s.cxlUp := rfl
@[simp] theorem State.cxlSize_modTile (s : State) (n : Nat) (f : Tile → Tile) : (s.modTile n f).cxlSize = s.cxlSize := rfl
@[simp] theorem State.remap_modTile (s : State) (n : Nat) (f : Tile → Tile) : (s.modTile n f).remap = s.remap := rfl
@[simp] theorem State.far_modTile (s : State) (n : Nat) (f : Tile → Tile) : (s.modTile n f).far = s.far := rfl
@[simp] theorem State.routes_modTile (s : State) (n : Nat) (f : Tile → Tile) : (s.modTile n f).routes = s.routes := rfl
@[simp] theorem State.routeNo_modTile (s : State) (n : Nat) (f : Tile → Tile) : (s.modTile n f).routeNo = s.routeNo := rfl
@[simp] theorem State.laneErrors_modTile (s : State) (n : Nat) (f : Tile → Tile) : (s.modTile n f).laneErrors = s.laneErrors := rfl
@[simp] theorem State.joins_modTile (s : State) (n : Nat) (f : Tile → Tile) : (s.modTile n f).joins = s.joins := rfl
@[simp] theorem State.mem_modTile (s : State) (n : Nat) (f : Tile → Tile) : (s.modTile n f).mem = s.mem := rfl
@[simp] theorem State.parts_modTile (s : State) (n : Nat) (f : Tile → Tile) : (s.modTile n f).parts = s.parts := rfl
@[simp] theorem State.msi_modTile (s : State) (n : Nat) (f : Tile → Tile) : (s.modTile n f).msi = s.msi := rfl
@[simp] theorem State.pba_modTile (s : State) (n : Nat) (f : Tile → Tile) : (s.modTile n f).pba = s.pba := rfl
@[simp] theorem State.records_modTile (s : State) (n : Nat) (f : Tile → Tile) : (s.modTile n f).records = s.records := rfl
@[simp] theorem State.notices_modTile (s : State) (n : Nat) (f : Tile → Tile) : (s.modTile n f).notices = s.notices := rfl
@[simp] theorem State.host_modTile (s : State) (n : Nat) (f : Tile → Tile) : (s.modTile n f).host = s.host := rfl
@[simp] theorem State.key_modTile (s : State) (n : Nat) (f : Tile → Tile) : (s.modTile n f).key = s.key := rfl
@[simp] theorem State.packets_modTile (s : State) (n : Nat) (f : Tile → Tile) : (s.modTile n f).packets = s.packets := rfl
@[simp] theorem State.carries_modTile (s : State) (n : Nat) (f : Tile → Tile) : (s.modTile n f).carries = s.carries := rfl
@[simp] theorem State.msgs_modTile (s : State) (n : Nat) (f : Tile → Tile) : (s.modTile n f).msgs = s.msgs := rfl
@[simp] theorem State.blocks_modTile (s : State) (n : Nat) (f : Tile → Tile) : (s.modTile n f).blocks = s.blocks := rfl
@[simp] theorem State.contribs_modTile (s : State) (n : Nat) (f : Tile → Tile) : (s.modTile n f).contribs = s.contribs := rfl
@[simp] theorem State.reds_modTile (s : State) (n : Nat) (f : Tile → Tile) : (s.modTile n f).reds = s.reds := rfl
@[simp] theorem State.refused_modTile (s : State) (n : Nat) (f : Tile → Tile) : (s.modTile n f).refused = s.refused := rfl
@[simp] theorem State.ctmo_modTile (s : State) (n : Nat) (f : Tile → Tile) : (s.modTile n f).ctmo = s.ctmo := rfl
@[simp] theorem State.pw_modTile (s : State) (n : Nat) (f : Tile → Tile) : (s.modTile n f).pw = s.pw := rfl
@[simp] theorem State.tm_modTile (s : State) (n : Nat) (f : Tile → Tile) : (s.modTile n f).tm = s.tm := rfl
@[simp] theorem State.te_modTile (s : State) (n : Nat) (f : Tile → Tile) : (s.modTile n f).te = s.te := rfl
@[simp] theorem State.ports_modTile (s : State) (n : Nat) (f : Tile → Tile) : (s.modTile n f).ports = s.ports := rfl
@[simp] theorem State.boot_modTile (s : State) (n : Nat) (f : Tile → Tile) : (s.modTile n f).boot = s.boot := rfl
@[simp] theorem State.plain_modTile (s : State) (n : Nat) (f : Tile → Tile) : (s.modTile n f).plain = s.plain := rfl
@[simp] theorem State.pager_modTile (s : State) (n : Nat) (f : Tile → Tile) : (s.modTile n f).pager = s.pager := rfl
@[simp] theorem State.visit_modTile (s : State) (n : Nat) (f : Tile → Tile) : (s.modTile n f).visit = s.visit := rfl
@[simp] theorem State.visiting_modTile (s : State) (n : Nat) (f : Tile → Tile) : (s.modTile n f).visiting = s.visiting := rfl
@[simp] theorem State.placedAt_modTile (s : State) (n : Nat) (f : Tile → Tile) : (s.modTile n f).placedAt = s.placedAt := rfl
@[simp] theorem State.saved_modTile (s : State) (n : Nat) (f : Tile → Tile) : (s.modTile n f).saved = s.saved := rfl
@[simp] theorem State.agenda_modTile (s : State) (n : Nat) (f : Tile → Tile) : (s.modTile n f).agenda = s.agenda := rfl
@[simp] theorem State.inputs_modTile (s : State) (n : Nat) (f : Tile → Tile) : (s.modTile n f).inputs = s.inputs := rfl
@[simp] theorem State.arg_modTile (s : State) (n : Nat) (f : Tile → Tile) : (s.modTile n f).arg = s.arg := rfl
@[simp] theorem State.cur_modTile (s : State) (n : Nat) (f : Tile → Tile) : (s.modTile n f).cur = s.cur := rfl
@[simp] theorem State.free_modTile (s : State) (n : Nat) (f : Tile → Tile) : (s.modTile n f).free = s.free := rfl

@[simp] theorem State.stamp_modGang (s : State) (b : Nat) (f : Gang → Gang) : (s.modGang b f).stamp = s.stamp := rfl
@[simp] theorem State.pkg_modGang (s : State) (b : Nat) (f : Gang → Gang) : (s.modGang b f).pkg = s.pkg := rfl
@[simp] theorem State.tiles_modGang (s : State) (b : Nat) (f : Gang → Gang) : (s.modGang b f).tiles = s.tiles := rfl
@[simp] theorem State.dies_modGang (s : State) (b : Nat) (f : Gang → Gang) : (s.modGang b f).dies = s.dies := rfl
@[simp] theorem State.bridges_modGang (s : State) (b : Nat) (f : Gang → Gang) : (s.modGang b f).bridges = s.bridges := rfl
@[simp] theorem State.cxlUp_modGang (s : State) (b : Nat) (f : Gang → Gang) : (s.modGang b f).cxlUp = s.cxlUp := rfl
@[simp] theorem State.cxlSize_modGang (s : State) (b : Nat) (f : Gang → Gang) : (s.modGang b f).cxlSize = s.cxlSize := rfl
@[simp] theorem State.remap_modGang (s : State) (b : Nat) (f : Gang → Gang) : (s.modGang b f).remap = s.remap := rfl
@[simp] theorem State.far_modGang (s : State) (b : Nat) (f : Gang → Gang) : (s.modGang b f).far = s.far := rfl
@[simp] theorem State.routes_modGang (s : State) (b : Nat) (f : Gang → Gang) : (s.modGang b f).routes = s.routes := rfl
@[simp] theorem State.routeNo_modGang (s : State) (b : Nat) (f : Gang → Gang) : (s.modGang b f).routeNo = s.routeNo := rfl
@[simp] theorem State.laneErrors_modGang (s : State) (b : Nat) (f : Gang → Gang) : (s.modGang b f).laneErrors = s.laneErrors := rfl
@[simp] theorem State.joins_modGang (s : State) (b : Nat) (f : Gang → Gang) : (s.modGang b f).joins = s.joins := rfl
@[simp] theorem State.mem_modGang (s : State) (b : Nat) (f : Gang → Gang) : (s.modGang b f).mem = s.mem := rfl
@[simp] theorem State.parts_modGang (s : State) (b : Nat) (f : Gang → Gang) : (s.modGang b f).parts = s.parts := rfl
@[simp] theorem State.msi_modGang (s : State) (b : Nat) (f : Gang → Gang) : (s.modGang b f).msi = s.msi := rfl
@[simp] theorem State.pba_modGang (s : State) (b : Nat) (f : Gang → Gang) : (s.modGang b f).pba = s.pba := rfl
@[simp] theorem State.records_modGang (s : State) (b : Nat) (f : Gang → Gang) : (s.modGang b f).records = s.records := rfl
@[simp] theorem State.notices_modGang (s : State) (b : Nat) (f : Gang → Gang) : (s.modGang b f).notices = s.notices := rfl
@[simp] theorem State.host_modGang (s : State) (b : Nat) (f : Gang → Gang) : (s.modGang b f).host = s.host := rfl
@[simp] theorem State.key_modGang (s : State) (b : Nat) (f : Gang → Gang) : (s.modGang b f).key = s.key := rfl
@[simp] theorem State.packets_modGang (s : State) (b : Nat) (f : Gang → Gang) : (s.modGang b f).packets = s.packets := rfl
@[simp] theorem State.carries_modGang (s : State) (b : Nat) (f : Gang → Gang) : (s.modGang b f).carries = s.carries := rfl
@[simp] theorem State.msgs_modGang (s : State) (b : Nat) (f : Gang → Gang) : (s.modGang b f).msgs = s.msgs := rfl
@[simp] theorem State.blocks_modGang (s : State) (b : Nat) (f : Gang → Gang) : (s.modGang b f).blocks = s.blocks := rfl
@[simp] theorem State.contribs_modGang (s : State) (b : Nat) (f : Gang → Gang) : (s.modGang b f).contribs = s.contribs := rfl
@[simp] theorem State.reds_modGang (s : State) (b : Nat) (f : Gang → Gang) : (s.modGang b f).reds = s.reds := rfl
@[simp] theorem State.refused_modGang (s : State) (b : Nat) (f : Gang → Gang) : (s.modGang b f).refused = s.refused := rfl
@[simp] theorem State.ctmo_modGang (s : State) (b : Nat) (f : Gang → Gang) : (s.modGang b f).ctmo = s.ctmo := rfl
@[simp] theorem State.pw_modGang (s : State) (b : Nat) (f : Gang → Gang) : (s.modGang b f).pw = s.pw := rfl
@[simp] theorem State.tm_modGang (s : State) (b : Nat) (f : Gang → Gang) : (s.modGang b f).tm = s.tm := rfl
@[simp] theorem State.te_modGang (s : State) (b : Nat) (f : Gang → Gang) : (s.modGang b f).te = s.te := rfl
@[simp] theorem State.ports_modGang (s : State) (b : Nat) (f : Gang → Gang) : (s.modGang b f).ports = s.ports := rfl
@[simp] theorem State.boot_modGang (s : State) (b : Nat) (f : Gang → Gang) : (s.modGang b f).boot = s.boot := rfl
@[simp] theorem State.plain_modGang (s : State) (b : Nat) (f : Gang → Gang) : (s.modGang b f).plain = s.plain := rfl
@[simp] theorem State.pager_modGang (s : State) (b : Nat) (f : Gang → Gang) : (s.modGang b f).pager = s.pager := rfl
@[simp] theorem State.visit_modGang (s : State) (b : Nat) (f : Gang → Gang) : (s.modGang b f).visit = s.visit := rfl
@[simp] theorem State.visiting_modGang (s : State) (b : Nat) (f : Gang → Gang) : (s.modGang b f).visiting = s.visiting := rfl
@[simp] theorem State.placedAt_modGang (s : State) (b : Nat) (f : Gang → Gang) : (s.modGang b f).placedAt = s.placedAt := rfl
@[simp] theorem State.saved_modGang (s : State) (b : Nat) (f : Gang → Gang) : (s.modGang b f).saved = s.saved := rfl
@[simp] theorem State.agenda_modGang (s : State) (b : Nat) (f : Gang → Gang) : (s.modGang b f).agenda = s.agenda := rfl
@[simp] theorem State.inputs_modGang (s : State) (b : Nat) (f : Gang → Gang) : (s.modGang b f).inputs = s.inputs := rfl
@[simp] theorem State.arg_modGang (s : State) (b : Nat) (f : Gang → Gang) : (s.modGang b f).arg = s.arg := rfl
@[simp] theorem State.cur_modGang (s : State) (b : Nat) (f : Gang → Gang) : (s.modGang b f).cur = s.cur := rfl
@[simp] theorem State.free_modGang (s : State) (b : Nat) (f : Gang → Gang) : (s.modGang b f).free = s.free := rfl

@[simp] theorem State.stamp_modPart (s : State) (p : Nat) (f : Part → Part) : (s.modPart p f).stamp = s.stamp := rfl
@[simp] theorem State.pkg_modPart (s : State) (p : Nat) (f : Part → Part) : (s.modPart p f).pkg = s.pkg := rfl
@[simp] theorem State.tiles_modPart (s : State) (p : Nat) (f : Part → Part) : (s.modPart p f).tiles = s.tiles := rfl
@[simp] theorem State.gangs_modPart (s : State) (p : Nat) (f : Part → Part) : (s.modPart p f).gangs = s.gangs := rfl
@[simp] theorem State.dies_modPart (s : State) (p : Nat) (f : Part → Part) : (s.modPart p f).dies = s.dies := rfl
@[simp] theorem State.bridges_modPart (s : State) (p : Nat) (f : Part → Part) : (s.modPart p f).bridges = s.bridges := rfl
@[simp] theorem State.cxlUp_modPart (s : State) (p : Nat) (f : Part → Part) : (s.modPart p f).cxlUp = s.cxlUp := rfl
@[simp] theorem State.cxlSize_modPart (s : State) (p : Nat) (f : Part → Part) : (s.modPart p f).cxlSize = s.cxlSize := rfl
@[simp] theorem State.remap_modPart (s : State) (p : Nat) (f : Part → Part) : (s.modPart p f).remap = s.remap := rfl
@[simp] theorem State.far_modPart (s : State) (p : Nat) (f : Part → Part) : (s.modPart p f).far = s.far := rfl
@[simp] theorem State.routes_modPart (s : State) (p : Nat) (f : Part → Part) : (s.modPart p f).routes = s.routes := rfl
@[simp] theorem State.routeNo_modPart (s : State) (p : Nat) (f : Part → Part) : (s.modPart p f).routeNo = s.routeNo := rfl
@[simp] theorem State.laneErrors_modPart (s : State) (p : Nat) (f : Part → Part) : (s.modPart p f).laneErrors = s.laneErrors := rfl
@[simp] theorem State.joins_modPart (s : State) (p : Nat) (f : Part → Part) : (s.modPart p f).joins = s.joins := rfl
@[simp] theorem State.mem_modPart (s : State) (p : Nat) (f : Part → Part) : (s.modPart p f).mem = s.mem := rfl
@[simp] theorem State.msi_modPart (s : State) (p : Nat) (f : Part → Part) : (s.modPart p f).msi = s.msi := rfl
@[simp] theorem State.pba_modPart (s : State) (p : Nat) (f : Part → Part) : (s.modPart p f).pba = s.pba := rfl
@[simp] theorem State.records_modPart (s : State) (p : Nat) (f : Part → Part) : (s.modPart p f).records = s.records := rfl
@[simp] theorem State.notices_modPart (s : State) (p : Nat) (f : Part → Part) : (s.modPart p f).notices = s.notices := rfl
@[simp] theorem State.host_modPart (s : State) (p : Nat) (f : Part → Part) : (s.modPart p f).host = s.host := rfl
@[simp] theorem State.key_modPart (s : State) (p : Nat) (f : Part → Part) : (s.modPart p f).key = s.key := rfl
@[simp] theorem State.packets_modPart (s : State) (p : Nat) (f : Part → Part) : (s.modPart p f).packets = s.packets := rfl
@[simp] theorem State.carries_modPart (s : State) (p : Nat) (f : Part → Part) : (s.modPart p f).carries = s.carries := rfl
@[simp] theorem State.msgs_modPart (s : State) (p : Nat) (f : Part → Part) : (s.modPart p f).msgs = s.msgs := rfl
@[simp] theorem State.blocks_modPart (s : State) (p : Nat) (f : Part → Part) : (s.modPart p f).blocks = s.blocks := rfl
@[simp] theorem State.contribs_modPart (s : State) (p : Nat) (f : Part → Part) : (s.modPart p f).contribs = s.contribs := rfl
@[simp] theorem State.reds_modPart (s : State) (p : Nat) (f : Part → Part) : (s.modPart p f).reds = s.reds := rfl
@[simp] theorem State.refused_modPart (s : State) (p : Nat) (f : Part → Part) : (s.modPart p f).refused = s.refused := rfl
@[simp] theorem State.ctmo_modPart (s : State) (p : Nat) (f : Part → Part) : (s.modPart p f).ctmo = s.ctmo := rfl
@[simp] theorem State.pw_modPart (s : State) (p : Nat) (f : Part → Part) : (s.modPart p f).pw = s.pw := rfl
@[simp] theorem State.tm_modPart (s : State) (p : Nat) (f : Part → Part) : (s.modPart p f).tm = s.tm := rfl
@[simp] theorem State.te_modPart (s : State) (p : Nat) (f : Part → Part) : (s.modPart p f).te = s.te := rfl
@[simp] theorem State.ports_modPart (s : State) (p : Nat) (f : Part → Part) : (s.modPart p f).ports = s.ports := rfl
@[simp] theorem State.boot_modPart (s : State) (p : Nat) (f : Part → Part) : (s.modPart p f).boot = s.boot := rfl
@[simp] theorem State.plain_modPart (s : State) (p : Nat) (f : Part → Part) : (s.modPart p f).plain = s.plain := rfl
@[simp] theorem State.pager_modPart (s : State) (p : Nat) (f : Part → Part) : (s.modPart p f).pager = s.pager := rfl
@[simp] theorem State.visit_modPart (s : State) (p : Nat) (f : Part → Part) : (s.modPart p f).visit = s.visit := rfl
@[simp] theorem State.visiting_modPart (s : State) (p : Nat) (f : Part → Part) : (s.modPart p f).visiting = s.visiting := rfl
@[simp] theorem State.placedAt_modPart (s : State) (p : Nat) (f : Part → Part) : (s.modPart p f).placedAt = s.placedAt := rfl
@[simp] theorem State.saved_modPart (s : State) (p : Nat) (f : Part → Part) : (s.modPart p f).saved = s.saved := rfl
@[simp] theorem State.agenda_modPart (s : State) (p : Nat) (f : Part → Part) : (s.modPart p f).agenda = s.agenda := rfl
@[simp] theorem State.inputs_modPart (s : State) (p : Nat) (f : Part → Part) : (s.modPart p f).inputs = s.inputs := rfl
@[simp] theorem State.arg_modPart (s : State) (p : Nat) (f : Part → Part) : (s.modPart p f).arg = s.arg := rfl
@[simp] theorem State.cur_modPart (s : State) (p : Nat) (f : Part → Part) : (s.modPart p f).cur = s.cur := rfl
@[simp] theorem State.free_modPart (s : State) (p : Nat) (f : Part → Part) : (s.modPart p f).free = s.free := rfl

@[simp] theorem State.stamp_modDie (s : State) (d : Nat) (f : Die → Die) : (s.modDie d f).stamp = s.stamp := rfl
@[simp] theorem State.pkg_modDie (s : State) (d : Nat) (f : Die → Die) : (s.modDie d f).pkg = s.pkg := rfl
@[simp] theorem State.tiles_modDie (s : State) (d : Nat) (f : Die → Die) : (s.modDie d f).tiles = s.tiles := rfl
@[simp] theorem State.gangs_modDie (s : State) (d : Nat) (f : Die → Die) : (s.modDie d f).gangs = s.gangs := rfl
@[simp] theorem State.bridges_modDie (s : State) (d : Nat) (f : Die → Die) : (s.modDie d f).bridges = s.bridges := rfl
@[simp] theorem State.cxlUp_modDie (s : State) (d : Nat) (f : Die → Die) : (s.modDie d f).cxlUp = s.cxlUp := rfl
@[simp] theorem State.cxlSize_modDie (s : State) (d : Nat) (f : Die → Die) : (s.modDie d f).cxlSize = s.cxlSize := rfl
@[simp] theorem State.remap_modDie (s : State) (d : Nat) (f : Die → Die) : (s.modDie d f).remap = s.remap := rfl
@[simp] theorem State.far_modDie (s : State) (d : Nat) (f : Die → Die) : (s.modDie d f).far = s.far := rfl
@[simp] theorem State.routes_modDie (s : State) (d : Nat) (f : Die → Die) : (s.modDie d f).routes = s.routes := rfl
@[simp] theorem State.routeNo_modDie (s : State) (d : Nat) (f : Die → Die) : (s.modDie d f).routeNo = s.routeNo := rfl
@[simp] theorem State.laneErrors_modDie (s : State) (d : Nat) (f : Die → Die) : (s.modDie d f).laneErrors = s.laneErrors := rfl
@[simp] theorem State.joins_modDie (s : State) (d : Nat) (f : Die → Die) : (s.modDie d f).joins = s.joins := rfl
@[simp] theorem State.mem_modDie (s : State) (d : Nat) (f : Die → Die) : (s.modDie d f).mem = s.mem := rfl
@[simp] theorem State.parts_modDie (s : State) (d : Nat) (f : Die → Die) : (s.modDie d f).parts = s.parts := rfl
@[simp] theorem State.msi_modDie (s : State) (d : Nat) (f : Die → Die) : (s.modDie d f).msi = s.msi := rfl
@[simp] theorem State.pba_modDie (s : State) (d : Nat) (f : Die → Die) : (s.modDie d f).pba = s.pba := rfl
@[simp] theorem State.records_modDie (s : State) (d : Nat) (f : Die → Die) : (s.modDie d f).records = s.records := rfl
@[simp] theorem State.notices_modDie (s : State) (d : Nat) (f : Die → Die) : (s.modDie d f).notices = s.notices := rfl
@[simp] theorem State.host_modDie (s : State) (d : Nat) (f : Die → Die) : (s.modDie d f).host = s.host := rfl
@[simp] theorem State.key_modDie (s : State) (d : Nat) (f : Die → Die) : (s.modDie d f).key = s.key := rfl
@[simp] theorem State.packets_modDie (s : State) (d : Nat) (f : Die → Die) : (s.modDie d f).packets = s.packets := rfl
@[simp] theorem State.carries_modDie (s : State) (d : Nat) (f : Die → Die) : (s.modDie d f).carries = s.carries := rfl
@[simp] theorem State.msgs_modDie (s : State) (d : Nat) (f : Die → Die) : (s.modDie d f).msgs = s.msgs := rfl
@[simp] theorem State.blocks_modDie (s : State) (d : Nat) (f : Die → Die) : (s.modDie d f).blocks = s.blocks := rfl
@[simp] theorem State.contribs_modDie (s : State) (d : Nat) (f : Die → Die) : (s.modDie d f).contribs = s.contribs := rfl
@[simp] theorem State.reds_modDie (s : State) (d : Nat) (f : Die → Die) : (s.modDie d f).reds = s.reds := rfl
@[simp] theorem State.refused_modDie (s : State) (d : Nat) (f : Die → Die) : (s.modDie d f).refused = s.refused := rfl
@[simp] theorem State.ctmo_modDie (s : State) (d : Nat) (f : Die → Die) : (s.modDie d f).ctmo = s.ctmo := rfl
@[simp] theorem State.pw_modDie (s : State) (d : Nat) (f : Die → Die) : (s.modDie d f).pw = s.pw := rfl
@[simp] theorem State.tm_modDie (s : State) (d : Nat) (f : Die → Die) : (s.modDie d f).tm = s.tm := rfl
@[simp] theorem State.te_modDie (s : State) (d : Nat) (f : Die → Die) : (s.modDie d f).te = s.te := rfl
@[simp] theorem State.ports_modDie (s : State) (d : Nat) (f : Die → Die) : (s.modDie d f).ports = s.ports := rfl
@[simp] theorem State.boot_modDie (s : State) (d : Nat) (f : Die → Die) : (s.modDie d f).boot = s.boot := rfl
@[simp] theorem State.plain_modDie (s : State) (d : Nat) (f : Die → Die) : (s.modDie d f).plain = s.plain := rfl
@[simp] theorem State.pager_modDie (s : State) (d : Nat) (f : Die → Die) : (s.modDie d f).pager = s.pager := rfl
@[simp] theorem State.visit_modDie (s : State) (d : Nat) (f : Die → Die) : (s.modDie d f).visit = s.visit := rfl
@[simp] theorem State.visiting_modDie (s : State) (d : Nat) (f : Die → Die) : (s.modDie d f).visiting = s.visiting := rfl
@[simp] theorem State.placedAt_modDie (s : State) (d : Nat) (f : Die → Die) : (s.modDie d f).placedAt = s.placedAt := rfl
@[simp] theorem State.saved_modDie (s : State) (d : Nat) (f : Die → Die) : (s.modDie d f).saved = s.saved := rfl
@[simp] theorem State.agenda_modDie (s : State) (d : Nat) (f : Die → Die) : (s.modDie d f).agenda = s.agenda := rfl
@[simp] theorem State.inputs_modDie (s : State) (d : Nat) (f : Die → Die) : (s.modDie d f).inputs = s.inputs := rfl
@[simp] theorem State.arg_modDie (s : State) (d : Nat) (f : Die → Die) : (s.modDie d f).arg = s.arg := rfl
@[simp] theorem State.cur_modDie (s : State) (d : Nat) (f : Die → Die) : (s.modDie d f).cur = s.cur := rfl
@[simp] theorem State.free_modDie (s : State) (d : Nat) (f : Die → Die) : (s.modDie d f).free = s.free := rfl

@[simp] theorem State.stamp_setPort (s : State) (p : Nat) (x : Port) : (s.setPort p x).stamp = s.stamp := rfl
@[simp] theorem State.pkg_setPort (s : State) (p : Nat) (x : Port) : (s.setPort p x).pkg = s.pkg := rfl
@[simp] theorem State.tiles_setPort (s : State) (p : Nat) (x : Port) : (s.setPort p x).tiles = s.tiles := rfl
@[simp] theorem State.gangs_setPort (s : State) (p : Nat) (x : Port) : (s.setPort p x).gangs = s.gangs := rfl
@[simp] theorem State.dies_setPort (s : State) (p : Nat) (x : Port) : (s.setPort p x).dies = s.dies := rfl
@[simp] theorem State.bridges_setPort (s : State) (p : Nat) (x : Port) : (s.setPort p x).bridges = s.bridges := rfl
@[simp] theorem State.cxlUp_setPort (s : State) (p : Nat) (x : Port) : (s.setPort p x).cxlUp = s.cxlUp := rfl
@[simp] theorem State.cxlSize_setPort (s : State) (p : Nat) (x : Port) : (s.setPort p x).cxlSize = s.cxlSize := rfl
@[simp] theorem State.remap_setPort (s : State) (p : Nat) (x : Port) : (s.setPort p x).remap = s.remap := rfl
@[simp] theorem State.far_setPort (s : State) (p : Nat) (x : Port) : (s.setPort p x).far = s.far := rfl
@[simp] theorem State.routes_setPort (s : State) (p : Nat) (x : Port) : (s.setPort p x).routes = s.routes := rfl
@[simp] theorem State.routeNo_setPort (s : State) (p : Nat) (x : Port) : (s.setPort p x).routeNo = s.routeNo := rfl
@[simp] theorem State.laneErrors_setPort (s : State) (p : Nat) (x : Port) : (s.setPort p x).laneErrors = s.laneErrors := rfl
@[simp] theorem State.joins_setPort (s : State) (p : Nat) (x : Port) : (s.setPort p x).joins = s.joins := rfl
@[simp] theorem State.mem_setPort (s : State) (p : Nat) (x : Port) : (s.setPort p x).mem = s.mem := rfl
@[simp] theorem State.parts_setPort (s : State) (p : Nat) (x : Port) : (s.setPort p x).parts = s.parts := rfl
@[simp] theorem State.msi_setPort (s : State) (p : Nat) (x : Port) : (s.setPort p x).msi = s.msi := rfl
@[simp] theorem State.pba_setPort (s : State) (p : Nat) (x : Port) : (s.setPort p x).pba = s.pba := rfl
@[simp] theorem State.records_setPort (s : State) (p : Nat) (x : Port) : (s.setPort p x).records = s.records := rfl
@[simp] theorem State.notices_setPort (s : State) (p : Nat) (x : Port) : (s.setPort p x).notices = s.notices := rfl
@[simp] theorem State.host_setPort (s : State) (p : Nat) (x : Port) : (s.setPort p x).host = s.host := rfl
@[simp] theorem State.key_setPort (s : State) (p : Nat) (x : Port) : (s.setPort p x).key = s.key := rfl
@[simp] theorem State.packets_setPort (s : State) (p : Nat) (x : Port) : (s.setPort p x).packets = s.packets := rfl
@[simp] theorem State.carries_setPort (s : State) (p : Nat) (x : Port) : (s.setPort p x).carries = s.carries := rfl
@[simp] theorem State.msgs_setPort (s : State) (p : Nat) (x : Port) : (s.setPort p x).msgs = s.msgs := rfl
@[simp] theorem State.blocks_setPort (s : State) (p : Nat) (x : Port) : (s.setPort p x).blocks = s.blocks := rfl
@[simp] theorem State.contribs_setPort (s : State) (p : Nat) (x : Port) : (s.setPort p x).contribs = s.contribs := rfl
@[simp] theorem State.reds_setPort (s : State) (p : Nat) (x : Port) : (s.setPort p x).reds = s.reds := rfl
@[simp] theorem State.refused_setPort (s : State) (p : Nat) (x : Port) : (s.setPort p x).refused = s.refused := rfl
@[simp] theorem State.ctmo_setPort (s : State) (p : Nat) (x : Port) : (s.setPort p x).ctmo = s.ctmo := rfl
@[simp] theorem State.pw_setPort (s : State) (p : Nat) (x : Port) : (s.setPort p x).pw = s.pw := rfl
@[simp] theorem State.tm_setPort (s : State) (p : Nat) (x : Port) : (s.setPort p x).tm = s.tm := rfl
@[simp] theorem State.te_setPort (s : State) (p : Nat) (x : Port) : (s.setPort p x).te = s.te := rfl
@[simp] theorem State.boot_setPort (s : State) (p : Nat) (x : Port) : (s.setPort p x).boot = s.boot := rfl
@[simp] theorem State.plain_setPort (s : State) (p : Nat) (x : Port) : (s.setPort p x).plain = s.plain := rfl
@[simp] theorem State.pager_setPort (s : State) (p : Nat) (x : Port) : (s.setPort p x).pager = s.pager := rfl
@[simp] theorem State.visit_setPort (s : State) (p : Nat) (x : Port) : (s.setPort p x).visit = s.visit := rfl
@[simp] theorem State.visiting_setPort (s : State) (p : Nat) (x : Port) : (s.setPort p x).visiting = s.visiting := rfl
@[simp] theorem State.placedAt_setPort (s : State) (p : Nat) (x : Port) : (s.setPort p x).placedAt = s.placedAt := rfl
@[simp] theorem State.saved_setPort (s : State) (p : Nat) (x : Port) : (s.setPort p x).saved = s.saved := rfl
@[simp] theorem State.agenda_setPort (s : State) (p : Nat) (x : Port) : (s.setPort p x).agenda = s.agenda := rfl
@[simp] theorem State.inputs_setPort (s : State) (p : Nat) (x : Port) : (s.setPort p x).inputs = s.inputs := rfl
@[simp] theorem State.arg_setPort (s : State) (p : Nat) (x : Port) : (s.setPort p x).arg = s.arg := rfl
@[simp] theorem State.cur_setPort (s : State) (p : Nat) (x : Port) : (s.setPort p x).cur = s.cur := rfl
@[simp] theorem State.free_setPort (s : State) (p : Nat) (x : Port) : (s.setPort p x).free = s.free := rfl

@[simp] theorem State.tile_modGang (s : State) (b : Nat) (f : Gang → Gang) (n : Nat) : (s.modGang b f).tile n = s.tile n := rfl
@[simp] theorem State.tile_modPart (s : State) (p : Nat) (f : Part → Part) (n : Nat) : (s.modPart p f).tile n = s.tile n := rfl
@[simp] theorem State.tile_modDie (s : State) (d : Nat) (f : Die → Die) (n : Nat) : (s.modDie d f).tile n = s.tile n := rfl
@[simp] theorem State.part_modPart_same (s : State) (p : Nat) (f : Part → Part) : (s.modPart p f).part p = f (s.part p) := get_put_same ..
theorem State.part_modPart (s : State) (p : Nat) (f : Part → Part) (q : Nat) : (s.modPart p f).part q = if q = p then f (s.part p) else s.part q := get_put ..
@[simp] theorem State.port_setPort_same (s : State) (p : Nat) (x : Port) : (s.setPort p x).port p = x := get_put_same ..

/-! ### Fields of a tile -/

@[simp] theorem Tile.ct_setIq (t : Tile) (c : Col) (l : List QWord) : (t.setIq c l).ct = t.ct := rfl
@[simp] theorem Tile.qs_setIq (t : Tile) (c : Col) (l : List QWord) : (t.setIq c l).qs = t.qs := rfl
@[simp] theorem Tile.st_setIq (t : Tile) (c : Col) (l : List QWord) : (t.setIq c l).st = t.st := rfl
@[simp] theorem Tile.mx_setIq (t : Tile) (c : Col) (l : List QWord) : (t.setIq c l).mx = t.mx := rfl
@[simp] theorem Tile.sq_setIq (t : Tile) (c : Col) (l : List QWord) : (t.setIq c l).sq = t.sq := rfl
@[simp] theorem Tile.en_setIq (t : Tile) (c : Col) (l : List QWord) : (t.setIq c l).en = t.en := rfl
@[simp] theorem Tile.id_setIq (t : Tile) (c : Col) (l : List QWord) : (t.setIq c l).id = t.id := rfl
@[simp] theorem Tile.wa_setIq (t : Tile) (c : Col) (l : List QWord) : (t.setIq c l).wa = t.wa := rfl
@[simp] theorem Tile.cnt_setIq (t : Tile) (c : Col) (l : List QWord) : (t.setIq c l).cnt = t.cnt := rfl
@[simp] theorem Tile.run_setIq (t : Tile) (c : Col) (l : List QWord) : (t.setIq c l).run = t.run := rfl
@[simp] theorem Tile.pend_setIq (t : Tile) (c : Col) (l : List QWord) : (t.setIq c l).pend = t.pend := rfl
@[simp] theorem Tile.cache_setIq (t : Tile) (c : Col) (l : List QWord) : (t.setIq c l).cache = t.cache := rfl
@[simp] theorem Tile.old_setIq (t : Tile) (c : Col) (l : List QWord) : (t.setIq c l).old = t.old := rfl

@[simp] theorem Tile.ct_setCol (t : Tile) (c : Col) (x : ColSt) : (t.setCol c x).ct = t.ct := rfl
@[simp] theorem Tile.qs_setCol (t : Tile) (c : Col) (x : ColSt) : (t.setCol c x).qs = t.qs := rfl
@[simp] theorem Tile.st_setCol (t : Tile) (c : Col) (x : ColSt) : (t.setCol c x).st = t.st := rfl
@[simp] theorem Tile.mx_setCol (t : Tile) (c : Col) (x : ColSt) : (t.setCol c x).mx = t.mx := rfl
@[simp] theorem Tile.sq_setCol (t : Tile) (c : Col) (x : ColSt) : (t.setCol c x).sq = t.sq := rfl
@[simp] theorem Tile.en_setCol (t : Tile) (c : Col) (x : ColSt) : (t.setCol c x).en = t.en := rfl
@[simp] theorem Tile.id_setCol (t : Tile) (c : Col) (x : ColSt) : (t.setCol c x).id = t.id := rfl
@[simp] theorem Tile.wa_setCol (t : Tile) (c : Col) (x : ColSt) : (t.setCol c x).wa = t.wa := rfl
@[simp] theorem Tile.cnt_setCol (t : Tile) (c : Col) (x : ColSt) : (t.setCol c x).cnt = t.cnt := rfl
@[simp] theorem Tile.run_setCol (t : Tile) (c : Col) (x : ColSt) : (t.setCol c x).run = t.run := rfl
@[simp] theorem Tile.pend_setCol (t : Tile) (c : Col) (x : ColSt) : (t.setCol c x).pend = t.pend := rfl
@[simp] theorem Tile.cache_setCol (t : Tile) (c : Col) (x : ColSt) : (t.setCol c x).cache = t.cache := rfl
@[simp] theorem Tile.old_setCol (t : Tile) (c : Col) (x : ColSt) : (t.setCol c x).old = t.old := rfl

@[simp] theorem Tile.qs_setG (t : Tile) (r : Nat) (v : Word) (lat : Nat) : (t.setG r v lat).qs = t.qs := by unfold Tile.setG; split <;> rfl
@[simp] theorem Tile.st_setG (t : Tile) (r : Nat) (v : Word) (lat : Nat) : (t.setG r v lat).st = t.st := by unfold Tile.setG; split <;> rfl
@[simp] theorem Tile.mx_setG (t : Tile) (r : Nat) (v : Word) (lat : Nat) : (t.setG r v lat).mx = t.mx := by unfold Tile.setG; split <;> rfl
@[simp] theorem Tile.sq_setG (t : Tile) (r : Nat) (v : Word) (lat : Nat) : (t.setG r v lat).sq = t.sq := by unfold Tile.setG; split <;> rfl
@[simp] theorem Tile.fe_setG (t : Tile) (r : Nat) (v : Word) (lat : Nat) : (t.setG r v lat).fe = t.fe := by unfold Tile.setG; split <;> rfl
@[simp] theorem Tile.en_setG (t : Tile) (r : Nat) (v : Word) (lat : Nat) : (t.setG r v lat).en = t.en := by unfold Tile.setG; split <;> rfl
@[simp] theorem Tile.id_setG (t : Tile) (r : Nat) (v : Word) (lat : Nat) : (t.setG r v lat).id = t.id := by unfold Tile.setG; split <;> rfl
@[simp] theorem Tile.wa_setG (t : Tile) (r : Nat) (v : Word) (lat : Nat) : (t.setG r v lat).wa = t.wa := by unfold Tile.setG; split <;> rfl
@[simp] theorem Tile.cnt_setG (t : Tile) (r : Nat) (v : Word) (lat : Nat) : (t.setG r v lat).cnt = t.cnt := by unfold Tile.setG; split <;> rfl
@[simp] theorem Tile.run_setG (t : Tile) (r : Nat) (v : Word) (lat : Nat) : (t.setG r v lat).run = t.run := by unfold Tile.setG; split <;> rfl
@[simp] theorem Tile.pend_setG (t : Tile) (r : Nat) (v : Word) (lat : Nat) : (t.setG r v lat).pend = t.pend := by unfold Tile.setG; split <;> rfl
@[simp] theorem Tile.cache_setG (t : Tile) (r : Nat) (v : Word) (lat : Nat) : (t.setG r v lat).cache = t.cache := by unfold Tile.setG; split <;> rfl
@[simp] theorem Tile.old_setG (t : Tile) (r : Nat) (v : Word) (lat : Nat) : (t.setG r v lat).old = t.old := by unfold Tile.setG; split <;> rfl

@[simp] theorem Tile.ct_pop (t : Tile) (q : Nat) : (t.pop q).ct = t.ct := rfl
@[simp] theorem Tile.st_pop (t : Tile) (q : Nat) : (t.pop q).st = t.st := rfl
@[simp] theorem Tile.mx_pop (t : Tile) (q : Nat) : (t.pop q).mx = t.mx := rfl
@[simp] theorem Tile.sq_pop (t : Tile) (q : Nat) : (t.pop q).sq = t.sq := rfl
@[simp] theorem Tile.fe_pop (t : Tile) (q : Nat) : (t.pop q).fe = t.fe := rfl
@[simp] theorem Tile.en_pop (t : Tile) (q : Nat) : (t.pop q).en = t.en := rfl
@[simp] theorem Tile.id_pop (t : Tile) (q : Nat) : (t.pop q).id = t.id := rfl
@[simp] theorem Tile.wa_pop (t : Tile) (q : Nat) : (t.pop q).wa = t.wa := rfl
@[simp] theorem Tile.cnt_pop (t : Tile) (q : Nat) : (t.pop q).cnt = t.cnt := rfl
@[simp] theorem Tile.run_pop (t : Tile) (q : Nat) : (t.pop q).run = t.run := rfl
@[simp] theorem Tile.pend_pop (t : Tile) (q : Nat) : (t.pop q).pend = t.pend := rfl
@[simp] theorem Tile.cache_pop (t : Tile) (q : Nat) : (t.pop q).cache = t.cache := rfl
@[simp] theorem Tile.old_pop (t : Tile) (q : Nat) : (t.pop q).old = t.old := rfl

@[simp] theorem Tile.ct_reserve (t : Tile) (q : Nat) : (t.reserve q).ct = t.ct := rfl
@[simp] theorem Tile.st_reserve (t : Tile) (q : Nat) : (t.reserve q).st = t.st := rfl
@[simp] theorem Tile.mx_reserve (t : Tile) (q : Nat) : (t.reserve q).mx = t.mx := rfl
@[simp] theorem Tile.sq_reserve (t : Tile) (q : Nat) : (t.reserve q).sq = t.sq := rfl
@[simp] theorem Tile.fe_reserve (t : Tile) (q : Nat) : (t.reserve q).fe = t.fe := rfl
@[simp] theorem Tile.en_reserve (t : Tile) (q : Nat) : (t.reserve q).en = t.en := rfl
@[simp] theorem Tile.id_reserve (t : Tile) (q : Nat) : (t.reserve q).id = t.id := rfl
@[simp] theorem Tile.wa_reserve (t : Tile) (q : Nat) : (t.reserve q).wa = t.wa := rfl
@[simp] theorem Tile.cnt_reserve (t : Tile) (q : Nat) : (t.reserve q).cnt = t.cnt := rfl
@[simp] theorem Tile.run_reserve (t : Tile) (q : Nat) : (t.reserve q).run = t.run := rfl
@[simp] theorem Tile.pend_reserve (t : Tile) (q : Nat) : (t.reserve q).pend = t.pend := rfl
@[simp] theorem Tile.cache_reserve (t : Tile) (q : Nat) : (t.reserve q).cache = t.cache := rfl
@[simp] theorem Tile.old_reserve (t : Tile) (q : Nat) : (t.reserve q).old = t.old := rfl

@[simp] theorem Tile.ct_unreserve (t : Tile) (q : Nat) : (t.unreserve q).ct = t.ct := rfl
@[simp] theorem Tile.st_unreserve (t : Tile) (q : Nat) : (t.unreserve q).st = t.st := rfl
@[simp] theorem Tile.mx_unreserve (t : Tile) (q : Nat) : (t.unreserve q).mx = t.mx := rfl
@[simp] theorem Tile.sq_unreserve (t : Tile) (q : Nat) : (t.unreserve q).sq = t.sq := rfl
@[simp] theorem Tile.fe_unreserve (t : Tile) (q : Nat) : (t.unreserve q).fe = t.fe := rfl
@[simp] theorem Tile.en_unreserve (t : Tile) (q : Nat) : (t.unreserve q).en = t.en := rfl
@[simp] theorem Tile.id_unreserve (t : Tile) (q : Nat) : (t.unreserve q).id = t.id := rfl
@[simp] theorem Tile.wa_unreserve (t : Tile) (q : Nat) : (t.unreserve q).wa = t.wa := rfl
@[simp] theorem Tile.cnt_unreserve (t : Tile) (q : Nat) : (t.unreserve q).cnt = t.cnt := rfl
@[simp] theorem Tile.run_unreserve (t : Tile) (q : Nat) : (t.unreserve q).run = t.run := rfl
@[simp] theorem Tile.pend_unreserve (t : Tile) (q : Nat) : (t.unreserve q).pend = t.pend := rfl
@[simp] theorem Tile.cache_unreserve (t : Tile) (q : Nat) : (t.unreserve q).cache = t.cache := rfl
@[simp] theorem Tile.old_unreserve (t : Tile) (q : Nat) : (t.unreserve q).old = t.old := rfl

@[simp] theorem Tile.ct_push (t : Tile) (q : Nat) (v : Row) : (t.push q v).ct = t.ct := rfl
@[simp] theorem Tile.st_push (t : Tile) (q : Nat) (v : Row) : (t.push q v).st = t.st := rfl
@[simp] theorem Tile.mx_push (t : Tile) (q : Nat) (v : Row) : (t.push q v).mx = t.mx := rfl
@[simp] theorem Tile.sq_push (t : Tile) (q : Nat) (v : Row) : (t.push q v).sq = t.sq := rfl
@[simp] theorem Tile.fe_push (t : Tile) (q : Nat) (v : Row) : (t.push q v).fe = t.fe := rfl
@[simp] theorem Tile.en_push (t : Tile) (q : Nat) (v : Row) : (t.push q v).en = t.en := rfl
@[simp] theorem Tile.id_push (t : Tile) (q : Nat) (v : Row) : (t.push q v).id = t.id := rfl
@[simp] theorem Tile.wa_push (t : Tile) (q : Nat) (v : Row) : (t.push q v).wa = t.wa := rfl
@[simp] theorem Tile.cnt_push (t : Tile) (q : Nat) (v : Row) : (t.push q v).cnt = t.cnt := rfl
@[simp] theorem Tile.run_push (t : Tile) (q : Nat) (v : Row) : (t.push q v).run = t.run := rfl
@[simp] theorem Tile.pend_push (t : Tile) (q : Nat) (v : Row) : (t.push q v).pend = t.pend := rfl
@[simp] theorem Tile.cache_push (t : Tile) (q : Nat) (v : Row) : (t.push q v).cache = t.cache := rfl
@[simp] theorem Tile.old_push (t : Tile) (q : Nat) (v : Row) : (t.push q v).old = t.old := rfl

@[simp] theorem Tile.ct_popTok (t : Tile) (f : Nat) : (t.popTok f).ct = t.ct := rfl
@[simp] theorem Tile.st_popTok (t : Tile) (f : Nat) : (t.popTok f).st = t.st := rfl
@[simp] theorem Tile.mx_popTok (t : Tile) (f : Nat) : (t.popTok f).mx = t.mx := rfl
@[simp] theorem Tile.sq_popTok (t : Tile) (f : Nat) : (t.popTok f).sq = t.sq := rfl
@[simp] theorem Tile.fe_popTok (t : Tile) (f : Nat) : (t.popTok f).fe = t.fe := rfl
@[simp] theorem Tile.en_popTok (t : Tile) (f : Nat) : (t.popTok f).en = t.en := rfl
@[simp] theorem Tile.id_popTok (t : Tile) (f : Nat) : (t.popTok f).id = t.id := rfl
@[simp] theorem Tile.wa_popTok (t : Tile) (f : Nat) : (t.popTok f).wa = t.wa := rfl
@[simp] theorem Tile.cnt_popTok (t : Tile) (f : Nat) : (t.popTok f).cnt = t.cnt := rfl
@[simp] theorem Tile.run_popTok (t : Tile) (f : Nat) : (t.popTok f).run = t.run := rfl
@[simp] theorem Tile.pend_popTok (t : Tile) (f : Nat) : (t.popTok f).pend = t.pend := rfl
@[simp] theorem Tile.cache_popTok (t : Tile) (f : Nat) : (t.popTok f).cache = t.cache := rfl
@[simp] theorem Tile.old_popTok (t : Tile) (f : Nat) : (t.popTok f).old = t.old := rfl

@[simp] theorem Tile.ct_reserveTok (t : Tile) (f : Nat) : (t.reserveTok f).ct = t.ct := rfl
@[simp] theorem Tile.st_reserveTok (t : Tile) (f : Nat) : (t.reserveTok f).st = t.st := rfl
@[simp] theorem Tile.mx_reserveTok (t : Tile) (f : Nat) : (t.reserveTok f).mx = t.mx := rfl
@[simp] theorem Tile.sq_reserveTok (t : Tile) (f : Nat) : (t.reserveTok f).sq = t.sq := rfl
@[simp] theorem Tile.fe_reserveTok (t : Tile) (f : Nat) : (t.reserveTok f).fe = t.fe := rfl
@[simp] theorem Tile.en_reserveTok (t : Tile) (f : Nat) : (t.reserveTok f).en = t.en := rfl
@[simp] theorem Tile.id_reserveTok (t : Tile) (f : Nat) : (t.reserveTok f).id = t.id := rfl
@[simp] theorem Tile.wa_reserveTok (t : Tile) (f : Nat) : (t.reserveTok f).wa = t.wa := rfl
@[simp] theorem Tile.cnt_reserveTok (t : Tile) (f : Nat) : (t.reserveTok f).cnt = t.cnt := rfl
@[simp] theorem Tile.run_reserveTok (t : Tile) (f : Nat) : (t.reserveTok f).run = t.run := rfl
@[simp] theorem Tile.pend_reserveTok (t : Tile) (f : Nat) : (t.reserveTok f).pend = t.pend := rfl
@[simp] theorem Tile.cache_reserveTok (t : Tile) (f : Nat) : (t.reserveTok f).cache = t.cache := rfl
@[simp] theorem Tile.old_reserveTok (t : Tile) (f : Nat) : (t.reserveTok f).old = t.old := rfl

@[simp] theorem Tile.ct_land (t : Tile) (d o : Nat) (a : Act) : (t.land d o a).ct = t.ct := rfl
@[simp] theorem Tile.qs_land (t : Tile) (d o : Nat) (a : Act) : (t.land d o a).qs = t.qs := rfl
@[simp] theorem Tile.st_land (t : Tile) (d o : Nat) (a : Act) : (t.land d o a).st = t.st := rfl
@[simp] theorem Tile.mx_land (t : Tile) (d o : Nat) (a : Act) : (t.land d o a).mx = t.mx := rfl
@[simp] theorem Tile.sq_land (t : Tile) (d o : Nat) (a : Act) : (t.land d o a).sq = t.sq := rfl
@[simp] theorem Tile.fe_land (t : Tile) (d o : Nat) (a : Act) : (t.land d o a).fe = t.fe := rfl
@[simp] theorem Tile.en_land (t : Tile) (d o : Nat) (a : Act) : (t.land d o a).en = t.en := rfl
@[simp] theorem Tile.id_land (t : Tile) (d o : Nat) (a : Act) : (t.land d o a).id = t.id := rfl
@[simp] theorem Tile.wa_land (t : Tile) (d o : Nat) (a : Act) : (t.land d o a).wa = t.wa := rfl
@[simp] theorem Tile.cnt_land (t : Tile) (d o : Nat) (a : Act) : (t.land d o a).cnt = t.cnt := rfl
@[simp] theorem Tile.run_land (t : Tile) (d o : Nat) (a : Act) : (t.land d o a).run = t.run := rfl
@[simp] theorem Tile.cache_land (t : Tile) (d o : Nat) (a : Act) : (t.land d o a).cache = t.cache := rfl
@[simp] theorem Tile.old_land (t : Tile) (d o : Nat) (a : Act) : (t.land d o a).old = t.old := rfl

@[simp] theorem Tile.ct_after (t : Tile) (c : Col) (n : Nat) (a : Act) : (t.after c n a).ct = t.ct := rfl
@[simp] theorem Tile.qs_after (t : Tile) (c : Col) (n : Nat) (a : Act) : (t.after c n a).qs = t.qs := rfl
@[simp] theorem Tile.st_after (t : Tile) (c : Col) (n : Nat) (a : Act) : (t.after c n a).st = t.st := rfl
@[simp] theorem Tile.mx_after (t : Tile) (c : Col) (n : Nat) (a : Act) : (t.after c n a).mx = t.mx := rfl
@[simp] theorem Tile.sq_after (t : Tile) (c : Col) (n : Nat) (a : Act) : (t.after c n a).sq = t.sq := rfl
@[simp] theorem Tile.fe_after (t : Tile) (c : Col) (n : Nat) (a : Act) : (t.after c n a).fe = t.fe := rfl
@[simp] theorem Tile.en_after (t : Tile) (c : Col) (n : Nat) (a : Act) : (t.after c n a).en = t.en := rfl
@[simp] theorem Tile.id_after (t : Tile) (c : Col) (n : Nat) (a : Act) : (t.after c n a).id = t.id := rfl
@[simp] theorem Tile.wa_after (t : Tile) (c : Col) (n : Nat) (a : Act) : (t.after c n a).wa = t.wa := rfl
@[simp] theorem Tile.cnt_after (t : Tile) (c : Col) (n : Nat) (a : Act) : (t.after c n a).cnt = t.cnt := rfl
@[simp] theorem Tile.run_after (t : Tile) (c : Col) (n : Nat) (a : Act) : (t.after c n a).run = t.run := rfl
@[simp] theorem Tile.cache_after (t : Tile) (c : Col) (n : Nat) (a : Act) : (t.after c n a).cache = t.cache := rfl
@[simp] theorem Tile.old_after (t : Tile) (c : Col) (n : Nat) (a : Act) : (t.after c n a).old = t.old := rfl

@[simp] theorem Tile.ct_setRow (t : Tile) (r : Nat) (v : Row) : (t.setRow r v).ct = t.ct := rfl
@[simp] theorem Tile.qs_setRow (t : Tile) (r : Nat) (v : Row) : (t.setRow r v).qs = t.qs := rfl
@[simp] theorem Tile.mx_setRow (t : Tile) (r : Nat) (v : Row) : (t.setRow r v).mx = t.mx := rfl
@[simp] theorem Tile.sq_setRow (t : Tile) (r : Nat) (v : Row) : (t.setRow r v).sq = t.sq := rfl
@[simp] theorem Tile.fe_setRow (t : Tile) (r : Nat) (v : Row) : (t.setRow r v).fe = t.fe := rfl
@[simp] theorem Tile.en_setRow (t : Tile) (r : Nat) (v : Row) : (t.setRow r v).en = t.en := rfl
@[simp] theorem Tile.id_setRow (t : Tile) (r : Nat) (v : Row) : (t.setRow r v).id = t.id := rfl
@[simp] theorem Tile.wa_setRow (t : Tile) (r : Nat) (v : Row) : (t.setRow r v).wa = t.wa := rfl
@[simp] theorem Tile.cnt_setRow (t : Tile) (r : Nat) (v : Row) : (t.setRow r v).cnt = t.cnt := rfl
@[simp] theorem Tile.run_setRow (t : Tile) (r : Nat) (v : Row) : (t.setRow r v).run = t.run := rfl
@[simp] theorem Tile.pend_setRow (t : Tile) (r : Nat) (v : Row) : (t.setRow r v).pend = t.pend := rfl
@[simp] theorem Tile.cache_setRow (t : Tile) (r : Nat) (v : Row) : (t.setRow r v).cache = t.cache := rfl
@[simp] theorem Tile.old_setRow (t : Tile) (r : Nat) (v : Row) : (t.setRow r v).old = t.old := rfl

@[simp] theorem Tile.ct_setDesc (t : Tile) (k : Nat) (d : BitVec 16) : (t.setDesc k d).ct = t.ct := rfl
@[simp] theorem Tile.qs_setDesc (t : Tile) (k : Nat) (d : BitVec 16) : (t.setDesc k d).qs = t.qs := rfl
@[simp] theorem Tile.mx_setDesc (t : Tile) (k : Nat) (d : BitVec 16) : (t.setDesc k d).mx = t.mx := rfl
@[simp] theorem Tile.sq_setDesc (t : Tile) (k : Nat) (d : BitVec 16) : (t.setDesc k d).sq = t.sq := rfl
@[simp] theorem Tile.fe_setDesc (t : Tile) (k : Nat) (d : BitVec 16) : (t.setDesc k d).fe = t.fe := rfl
@[simp] theorem Tile.en_setDesc (t : Tile) (k : Nat) (d : BitVec 16) : (t.setDesc k d).en = t.en := rfl
@[simp] theorem Tile.id_setDesc (t : Tile) (k : Nat) (d : BitVec 16) : (t.setDesc k d).id = t.id := rfl
@[simp] theorem Tile.wa_setDesc (t : Tile) (k : Nat) (d : BitVec 16) : (t.setDesc k d).wa = t.wa := rfl
@[simp] theorem Tile.cnt_setDesc (t : Tile) (k : Nat) (d : BitVec 16) : (t.setDesc k d).cnt = t.cnt := rfl
@[simp] theorem Tile.run_setDesc (t : Tile) (k : Nat) (d : BitVec 16) : (t.setDesc k d).run = t.run := rfl
@[simp] theorem Tile.pend_setDesc (t : Tile) (k : Nat) (d : BitVec 16) : (t.setDesc k d).pend = t.pend := rfl
@[simp] theorem Tile.cache_setDesc (t : Tile) (k : Nat) (d : BitVec 16) : (t.setDesc k d).cache = t.cache := rfl
@[simp] theorem Tile.old_setDesc (t : Tile) (k : Nat) (d : BitVec 16) : (t.setDesc k d).old = t.old := rfl

@[simp] theorem Tile.ct_useArrays (t : Tile)  : (t.useArrays).ct = t.ct := rfl
@[simp] theorem Tile.qs_useArrays (t : Tile)  : (t.useArrays).qs = t.qs := rfl
@[simp] theorem Tile.st_useArrays (t : Tile)  : (t.useArrays).st = t.st := rfl
@[simp] theorem Tile.sq_useArrays (t : Tile)  : (t.useArrays).sq = t.sq := rfl
@[simp] theorem Tile.fe_useArrays (t : Tile)  : (t.useArrays).fe = t.fe := rfl
@[simp] theorem Tile.en_useArrays (t : Tile)  : (t.useArrays).en = t.en := rfl
@[simp] theorem Tile.id_useArrays (t : Tile)  : (t.useArrays).id = t.id := rfl
@[simp] theorem Tile.wa_useArrays (t : Tile)  : (t.useArrays).wa = t.wa := rfl
@[simp] theorem Tile.cnt_useArrays (t : Tile)  : (t.useArrays).cnt = t.cnt := rfl
@[simp] theorem Tile.run_useArrays (t : Tile)  : (t.useArrays).run = t.run := rfl
@[simp] theorem Tile.pend_useArrays (t : Tile)  : (t.useArrays).pend = t.pend := rfl
@[simp] theorem Tile.cache_useArrays (t : Tile)  : (t.useArrays).cache = t.cache := rfl
@[simp] theorem Tile.old_useArrays (t : Tile)  : (t.useArrays).old = t.old := rfl

/-! ### Registers, queues and instruction queues -/

theorem Tile.g_setG (t : Tile) (r : Nat) (v : Word) (lat j : Nat) : (t.setG r v lat).g j = if j = r ∧ j ≠ 0 then v else t.g j := by
  unfold Tile.setG Tile.g
  by_cases h : r = 0
  · by_cases h2 : j = 0
    · simp [h, h2]
    · simp [h, h2]
  · by_cases h2 : j = 0
    · simp [h2]
    · simp [h, h2, get_put]
@[simp] theorem Tile.g_zero (t : Tile) : t.g 0 = 0 := rfl
theorem Tile.iq_setIq (t : Tile) (c d : Col) (l : List QWord) : (t.setIq c l).iq d = if colCode d = colCode c then l else t.iq d := get_put ..
@[simp] theorem Tile.iq_setIq_same (t : Tile) (c : Col) (l : List QWord) : (t.setIq c l).iq c = l := get_put_same ..
theorem Tile.col_setCol (t : Tile) (c d : Col) (x : ColSt) : (t.setCol c x).col d = if colCode d = colCode c then x else t.col d := get_put ..
@[simp] theorem Tile.col_setCol_same (t : Tile) (c : Col) (x : ColSt) : (t.setCol c x).col c = x := get_put_same ..
theorem Tile.queue_pop (t : Tile) (q r : Nat) : (t.pop q).queue r = if r = q then (t.queue q).eraseIdx (get 0 t.qs.held q) else t.queue r := get_put ..
theorem Tile.queue_push (t : Tile) (q r : Nat) (v : Row) : (t.push q v).queue r = if r = q then t.queue q ++ [v] else t.queue r := get_put ..
@[simp] theorem Tile.pend_land (t : Tile) (d o : Nat) (a : Act) : (t.land d o a).pend = insertPend ⟨d, o, a⟩ t.pend := rfl
@[simp] theorem Tile.pend_after (t : Tile) (c : Col) (n : Nat) (a : Act) : (t.after c n a).pend = insertPend ⟨t.cnt + n, landOrd c, a⟩ t.pend := rfl

/-- What is due stays due, whatever is inserted beside it. -/
theorem mem_insertPend (p q : Pend) (l : List Pend) : q ∈ insertPend p l ↔ q = p ∨ q ∈ l := by
  induction l with
  | nil => simp [insertPend]
  | cons x r ih =>
    unfold insertPend
    split
    · simp
    · simp only [List.mem_cons, ih]
      constructor
      · rintro (h | h | h) <;> simp [h]
      · rintro (h | h | h) <;> simp [h]

end Sys2Proof.Machine
end

