-- ==== Sys2Proof/Laws/Operands.lean ====
section
/-! SUPPORT. What taking the operands of a word leaves of its tile: the lemmas for each field of a tile. -/
namespace Sys2Proof.Machine

open Sys2Proof

theorem foldl_keeps {β γ : Type} (p : Tile → γ) (f : Tile → β → Tile) (hf : ∀ t x, p (f t x) = p t) (l : List β) :
    ∀ t, p (l.foldl f t) = p t := by
  induction l with
  | nil => exact fun _ => rfl
  | cons x r ih => exact fun t => (ih _).trans (hf t x)

/-- A fold over tiles keeps what each of its steps keeps. -/
theorem foldl_pair_keeps {β γ δ : Type} (p : Tile → γ) (f : Tile × δ → β → Tile × δ) (hf : ∀ t x, p (f t x).1 = p t.1) (l : List β) :
    ∀ t, p (l.foldl f t).1 = p t.1 := by
  induction l with
  | nil => exact fun _ => rfl
  | cons x r ih => exact fun t => (ih _).trans (hf t x)

/-! ### `Tile.take` -/

@[simp] theorem Tile.ct_take (t : Tile) (k : Needs) : (t.take k).ct = t.ct := by
  unfold Tile.take
  rw [foldl_keeps (·.ct) Tile.reserve (fun _ _ => rfl)]
  cases k.arrays
  · exact (foldl_keeps (·.ct) Tile.reserveTok (fun _ _ => rfl) ..).trans (foldl_keeps (·.ct) Tile.popTok (fun _ _ => rfl) ..)
  · exact (foldl_keeps (·.ct) Tile.reserveTok (fun _ _ => rfl) ..).trans (foldl_keeps (·.ct) Tile.popTok (fun _ _ => rfl) ..)
@[simp] theorem Tile.st_take (t : Tile) (k : Needs) : (t.take k).st = t.st := by
  unfold Tile.take
  rw [foldl_keeps (·.st) Tile.reserve (fun _ _ => rfl)]
  cases k.arrays
  · exact (foldl_keeps (·.st) Tile.reserveTok (fun _ _ => rfl) ..).trans (foldl_keeps (·.st) Tile.popTok (fun _ _ => rfl) ..)
  · exact (foldl_keeps (·.st) Tile.reserveTok (fun _ _ => rfl) ..).trans (foldl_keeps (·.st) Tile.popTok (fun _ _ => rfl) ..)
@[simp] theorem Tile.sq_take (t : Tile) (k : Needs) : (t.take k).sq = t.sq := by
  unfold Tile.take
  rw [foldl_keeps (·.sq) Tile.reserve (fun _ _ => rfl)]
  cases k.arrays
  · exact (foldl_keeps (·.sq) Tile.reserveTok (fun _ _ => rfl) ..).trans (foldl_keeps (·.sq) Tile.popTok (fun _ _ => rfl) ..)
  · exact (foldl_keeps (·.sq) Tile.reserveTok (fun _ _ => rfl) ..).trans (foldl_keeps (·.sq) Tile.popTok (fun _ _ => rfl) ..)
@[simp] theorem Tile.fe_take (t : Tile) (k : Needs) : (t.take k).fe = t.fe := by
  unfold Tile.take
  rw [foldl_keeps (·.fe) Tile.reserve (fun _ _ => rfl)]
  cases k.arrays
  · exact (foldl_keeps (·.fe) Tile.reserveTok (fun _ _ => rfl) ..).trans (foldl_keeps (·.fe) Tile.popTok (fun _ _ => rfl) ..)
  · exact (foldl_keeps (·.fe) Tile.reserveTok (fun _ _ => rfl) ..).trans (foldl_keeps (·.fe) Tile.popTok (fun _ _ => rfl) ..)
@[simp] theorem Tile.en_take (t : Tile) (k : Needs) : (t.take k).en = t.en := by
  unfold Tile.take
  rw [foldl_keeps (·.en) Tile.reserve (fun _ _ => rfl)]
  cases k.arrays
  · exact (foldl_keeps (·.en) Tile.reserveTok (fun _ _ => rfl) ..).trans (foldl_keeps (·.en) Tile.popTok (fun _ _ => rfl) ..)
  · exact (foldl_keeps (·.en) Tile.reserveTok (fun _ _ => rfl) ..).trans (foldl_keeps (·.en) Tile.popTok (fun _ _ => rfl) ..)
@[simp] theorem Tile.id_take (t : Tile) (k : Needs) : (t.take k).id = t.id := by
  unfold Tile.take
  rw [foldl_keeps (·.id) Tile.reserve (fun _ _ => rfl)]
  cases k.arrays
  · exact (foldl_keeps (·.id) Tile.reserveTok (fun _ _ => rfl) ..).trans (foldl_keeps (·.id) Tile.popTok (fun _ _ => rfl) ..)
  · exact (foldl_keeps (·.id) Tile.reserveTok (fun _ _ => rfl) ..).trans (foldl_keeps (·.id) Tile.popTok (fun _ _ => rfl) ..)
@[simp] theorem Tile.wa_take (t : Tile) (k : Needs) : (t.take k).wa = t.wa := by
  unfold Tile.take
  rw [foldl_keeps (·.wa) Tile.reserve (fun _ _ => rfl)]
  cases k.arrays
  · exact (foldl_keeps (·.wa) Tile.reserveTok (fun _ _ => rfl) ..).trans (foldl_keeps (·.wa) Tile.popTok (fun _ _ => rfl) ..)
  · exact (foldl_keeps (·.wa) Tile.reserveTok (fun _ _ => rfl) ..).trans (foldl_keeps (·.wa) Tile.popTok (fun _ _ => rfl) ..)
@[simp] theorem Tile.cnt_take (t : Tile) (k : Needs) : (t.take k).cnt = t.cnt := by
  unfold Tile.take
  rw [foldl_keeps (·.cnt) Tile.reserve (fun _ _ => rfl)]
  cases k.arrays
  · exact (foldl_keeps (·.cnt) Tile.reserveTok (fun _ _ => rfl) ..).trans (foldl_keeps (·.cnt) Tile.popTok (fun _ _ => rfl) ..)
  · exact (foldl_keeps (·.cnt) Tile.reserveTok (fun _ _ => rfl) ..).trans (foldl_keeps (·.cnt) Tile.popTok (fun _ _ => rfl) ..)
@[simp] theorem Tile.run_take (t : Tile) (k : Needs) : (t.take k).run = t.run := by
  unfold Tile.take
  rw [foldl_keeps (·.run) Tile.reserve (fun _ _ => rfl)]
  cases k.arrays
  · exact (foldl_keeps (·.run) Tile.reserveTok (fun _ _ => rfl) ..).trans (foldl_keeps (·.run) Tile.popTok (fun _ _ => rfl) ..)
  · exact (foldl_keeps (·.run) Tile.reserveTok (fun _ _ => rfl) ..).trans (foldl_keeps (·.run) Tile.popTok (fun _ _ => rfl) ..)
@[simp] theorem Tile.pend_take (t : Tile) (k : Needs) : (t.take k).pend = t.pend := by
  unfold Tile.take
  rw [foldl_keeps (·.pend) Tile.reserve (fun _ _ => rfl)]
  cases k.arrays
  · exact (foldl_keeps (·.pend) Tile.reserveTok (fun _ _ => rfl) ..).trans (foldl_keeps (·.pend) Tile.popTok (fun _ _ => rfl) ..)
  · exact (foldl_keeps (·.pend) Tile.reserveTok (fun _ _ => rfl) ..).trans (foldl_keeps (·.pend) Tile.popTok (fun _ _ => rfl) ..)
@[simp] theorem Tile.cache_take (t : Tile) (k : Needs) : (t.take k).cache = t.cache := by
  unfold Tile.take
  rw [foldl_keeps (·.cache) Tile.reserve (fun _ _ => rfl)]
  cases k.arrays
  · exact (foldl_keeps (·.cache) Tile.reserveTok (fun _ _ => rfl) ..).trans (foldl_keeps (·.cache) Tile.popTok (fun _ _ => rfl) ..)
  · exact (foldl_keeps (·.cache) Tile.reserveTok (fun _ _ => rfl) ..).trans (foldl_keeps (·.cache) Tile.popTok (fun _ _ => rfl) ..)
@[simp] theorem Tile.old_take (t : Tile) (k : Needs) : (t.take k).old = t.old := by
  unfold Tile.take
  rw [foldl_keeps (·.old) Tile.reserve (fun _ _ => rfl)]
  cases k.arrays
  · exact (foldl_keeps (·.old) Tile.reserveTok (fun _ _ => rfl) ..).trans (foldl_keeps (·.old) Tile.popTok (fun _ _ => rfl) ..)
  · exact (foldl_keeps (·.old) Tile.reserveTok (fun _ _ => rfl) ..).trans (foldl_keeps (·.old) Tile.popTok (fun _ _ => rfl) ..)
@[simp] theorem Tile.queue_take (t : Tile) (k : Needs) : (t.take k).queue = t.queue := by
  unfold Tile.take
  rw [foldl_keeps (·.queue) Tile.reserve (fun _ _ => rfl)]
  cases k.arrays
  · exact (foldl_keeps (·.queue) Tile.reserveTok (fun _ _ => rfl) ..).trans (foldl_keeps (·.queue) Tile.popTok (fun _ _ => rfl) ..)
  · exact (foldl_keeps (·.queue) Tile.reserveTok (fun _ _ => rfl) ..).trans (foldl_keeps (·.queue) Tile.popTok (fun _ _ => rfl) ..)
@[simp] theorem Tile.held_take (t : Tile) (k : Needs) : (t.take k).qs.held = t.qs.held := by
  unfold Tile.take
  rw [foldl_keeps (·.qs.held) Tile.reserve (fun _ _ => rfl)]
  cases k.arrays
  · exact (foldl_keeps (·.qs.held) Tile.reserveTok (fun _ _ => rfl) ..).trans (foldl_keeps (·.qs.held) Tile.popTok (fun _ _ => rfl) ..)
  · exact (foldl_keeps (·.qs.held) Tile.reserveTok (fun _ _ => rfl) ..).trans (foldl_keeps (·.qs.held) Tile.popTok (fun _ _ => rfl) ..)
theorem Tile.mx_take (t : Tile) (k : Needs) (h : k.arrays = false) : (t.take k).mx = t.mx := by
  unfold Tile.take
  rw [h, foldl_keeps (·.mx) Tile.reserve (fun _ _ => rfl)]
  exact (foldl_keeps (·.mx) Tile.reserveTok (fun _ _ => rfl) ..).trans (foldl_keeps (·.mx) Tile.popTok (fun _ _ => rfl) ..)
@[simp] theorem Tile.g_take (t : Tile) (k : Needs) : (t.take k).g = t.g := by funext r; simp [Tile.g]
@[simp] theorem Tile.iq_take (t : Tile) (k : Needs) : (t.take k).iq = t.iq := by funext c; simp [Tile.iq]

/-! ### Sources -/

@[simp] theorem Tile.ct_crSrc (t : Tile) (q : Bool) (r : Nat) : (t.crSrc q r).1.ct = t.ct := by unfold Tile.crSrc; split <;> rfl
@[simp] theorem Tile.ct_vxSrc (t : Tile) (r : BitVec 8) : (t.vxSrc r).1.ct = t.ct := by unfold Tile.vxSrc; split <;> rfl
@[simp] theorem Tile.ct_physSrc (t : Tile) (r : BitVec 8) : (t.physSrc r).1.ct = t.ct := by unfold Tile.physSrc; split <;> rfl
@[simp] theorem Tile.ct_popOps (t : Tile) (l : List Nat) : (t.popOps l).1.ct = t.ct := by
  unfold Tile.popOps; refine foldl_pair_keeps (·.ct) _ ?_ l (t, []); exact fun _ _ => rfl
@[simp] theorem Tile.ct_crPair (t : Tile) (o : CrOp) : (t.crPair o).1.ct = t.ct := by simp [Tile.crPair]
@[simp] theorem Tile.ct_pushToks (t : Tile) (l : List Nat) (n : Nat) : (t.pushToks l n).ct = t.ct := by
  unfold Tile.pushToks; refine foldl_keeps (·.ct) _ ?_ l t; exact fun _ _ => rfl
@[simp] theorem Tile.ct_rowOut (t : Tile) (c : Col) (n : Nat) (d : BitVec 8) (p : Nat) (v : Row) : (t.rowOut c n d p v).ct = t.ct := by
  unfold Tile.rowOut; split <;> rfl
@[simp] theorem Tile.st_crSrc (t : Tile) (q : Bool) (r : Nat) : (t.crSrc q r).1.st = t.st := by unfold Tile.crSrc; split <;> rfl
@[simp] theorem Tile.st_vxSrc (t : Tile) (r : BitVec 8) : (t.vxSrc r).1.st = t.st := by unfold Tile.vxSrc; split <;> rfl
@[simp] theorem Tile.st_physSrc (t : Tile) (r : BitVec 8) : (t.physSrc r).1.st = t.st := by unfold Tile.physSrc; split <;> rfl
@[simp] theorem Tile.st_popOps (t : Tile) (l : List Nat) : (t.popOps l).1.st = t.st := by
  unfold Tile.popOps; refine foldl_pair_keeps (·.st) _ ?_ l (t, []); exact fun _ _ => rfl
@[simp] theorem Tile.st_crPair (t : Tile) (o : CrOp) : (t.crPair o).1.st = t.st := by simp [Tile.crPair]
@[simp] theorem Tile.st_pushToks (t : Tile) (l : List Nat) (n : Nat) : (t.pushToks l n).st = t.st := by
  unfold Tile.pushToks; refine foldl_keeps (·.st) _ ?_ l t; exact fun _ _ => rfl
@[simp] theorem Tile.st_rowOut (t : Tile) (c : Col) (n : Nat) (d : BitVec 8) (p : Nat) (v : Row) : (t.rowOut c n d p v).st = t.st := by
  unfold Tile.rowOut; split <;> rfl
@[simp] theorem Tile.mx_crSrc (t : Tile) (q : Bool) (r : Nat) : (t.crSrc q r).1.mx = t.mx := by unfold Tile.crSrc; split <;> rfl
@[simp] theorem Tile.mx_vxSrc (t : Tile) (r : BitVec 8) : (t.vxSrc r).1.mx = t.mx := by unfold Tile.vxSrc; split <;> rfl
@[simp] theorem Tile.mx_physSrc (t : Tile) (r : BitVec 8) : (t.physSrc r).1.mx = t.mx := by unfold Tile.physSrc; split <;> rfl
@[simp] theorem Tile.mx_popOps (t : Tile) (l : List Nat) : (t.popOps l).1.mx = t.mx := by
  unfold Tile.popOps; refine foldl_pair_keeps (·.mx) _ ?_ l (t, []); exact fun _ _ => rfl
@[simp] theorem Tile.mx_crPair (t : Tile) (o : CrOp) : (t.crPair o).1.mx = t.mx := by simp [Tile.crPair]
@[simp] theorem Tile.mx_pushToks (t : Tile) (l : List Nat) (n : Nat) : (t.pushToks l n).mx = t.mx := by
  unfold Tile.pushToks; refine foldl_keeps (·.mx) _ ?_ l t; exact fun _ _ => rfl
@[simp] theorem Tile.mx_rowOut (t : Tile) (c : Col) (n : Nat) (d : BitVec 8) (p : Nat) (v : Row) : (t.rowOut c n d p v).mx = t.mx := by
  unfold Tile.rowOut; split <;> rfl
@[simp] theorem Tile.sq_crSrc (t : Tile) (q : Bool) (r : Nat) : (t.crSrc q r).1.sq = t.sq := by unfold Tile.crSrc; split <;> rfl
@[simp] theorem Tile.sq_vxSrc (t : Tile) (r : BitVec 8) : (t.vxSrc r).1.sq = t.sq := by unfold Tile.vxSrc; split <;> rfl
@[simp] theorem Tile.sq_physSrc (t : Tile) (r : BitVec 8) : (t.physSrc r).1.sq = t.sq := by unfold Tile.physSrc; split <;> rfl
@[simp] theorem Tile.sq_popOps (t : Tile) (l : List Nat) : (t.popOps l).1.sq = t.sq := by
  unfold Tile.popOps; refine foldl_pair_keeps (·.sq) _ ?_ l (t, []); exact fun _ _ => rfl
@[simp] theorem Tile.sq_crPair (t : Tile) (o : CrOp) : (t.crPair o).1.sq = t.sq := by simp [Tile.crPair]
@[simp] theorem Tile.sq_pushToks (t : Tile) (l : List Nat) (n : Nat) : (t.pushToks l n).sq = t.sq := by
  unfold Tile.pushToks; refine foldl_keeps (·.sq) _ ?_ l t; exact fun _ _ => rfl
@[simp] theorem Tile.sq_rowOut (t : Tile) (c : Col) (n : Nat) (d : BitVec 8) (p : Nat) (v : Row) : (t.rowOut c n d p v).sq = t.sq := by
  unfold Tile.rowOut; split <;> rfl
@[simp] theorem Tile.fe_crSrc (t : Tile) (q : Bool) (r : Nat) : (t.crSrc q r).1.fe = t.fe := by unfold Tile.crSrc; split <;> rfl
@[simp] theorem Tile.fe_vxSrc (t : Tile) (r : BitVec 8) : (t.vxSrc r).1.fe = t.fe := by unfold Tile.vxSrc; split <;> rfl
@[simp] theorem Tile.fe_physSrc (t : Tile) (r : BitVec 8) : (t.physSrc r).1.fe = t.fe := by unfold Tile.physSrc; split <;> rfl
@[simp] theorem Tile.fe_popOps (t : Tile) (l : List Nat) : (t.popOps l).1.fe = t.fe := by
  unfold Tile.popOps; refine foldl_pair_keeps (·.fe) _ ?_ l (t, []); exact fun _ _ => rfl
@[simp] theorem Tile.fe_crPair (t : Tile) (o : CrOp) : (t.crPair o).1.fe = t.fe := by simp [Tile.crPair]
@[simp] theorem Tile.fe_pushToks (t : Tile) (l : List Nat) (n : Nat) : (t.pushToks l n).fe = t.fe := by
  unfold Tile.pushToks; refine foldl_keeps (·.fe) _ ?_ l t; exact fun _ _ => rfl
@[simp] theorem Tile.fe_rowOut (t : Tile) (c : Col) (n : Nat) (d : BitVec 8) (p : Nat) (v : Row) : (t.rowOut c n d p v).fe = t.fe := by
  unfold Tile.rowOut; split <;> rfl
@[simp] theorem Tile.en_crSrc (t : Tile) (q : Bool) (r : Nat) : (t.crSrc q r).1.en = t.en := by unfold Tile.crSrc; split <;> rfl
@[simp] theorem Tile.en_vxSrc (t : Tile) (r : BitVec 8) : (t.vxSrc r).1.en = t.en := by unfold Tile.vxSrc; split <;> rfl
@[simp] theorem Tile.en_physSrc (t : Tile) (r : BitVec 8) : (t.physSrc r).1.en = t.en := by unfold Tile.physSrc; split <;> rfl
@[simp] theorem Tile.en_popOps (t : Tile) (l : List Nat) : (t.popOps l).1.en = t.en := by
  unfold Tile.popOps; refine foldl_pair_keeps (·.en) _ ?_ l (t, []); exact fun _ _ => rfl
@[simp] theorem Tile.en_crPair (t : Tile) (o : CrOp) : (t.crPair o).1.en = t.en := by simp [Tile.crPair]
@[simp] theorem Tile.en_pushToks (t : Tile) (l : List Nat) (n : Nat) : (t.pushToks l n).en = t.en := by
  unfold Tile.pushToks; refine foldl_keeps (·.en) _ ?_ l t; exact fun _ _ => rfl
@[simp] theorem Tile.en_rowOut (t : Tile) (c : Col) (n : Nat) (d : BitVec 8) (p : Nat) (v : Row) : (t.rowOut c n d p v).en = t.en := by
  unfold Tile.rowOut; split <;> rfl
@[simp] theorem Tile.id_crSrc (t : Tile) (q : Bool) (r : Nat) : (t.crSrc q r).1.id = t.id := by unfold Tile.crSrc; split <;> rfl
@[simp] theorem Tile.id_vxSrc (t : Tile) (r : BitVec 8) : (t.vxSrc r).1.id = t.id := by unfold Tile.vxSrc; split <;> rfl
@[simp] theorem Tile.id_physSrc (t : Tile) (r : BitVec 8) : (t.physSrc r).1.id = t.id := by unfold Tile.physSrc; split <;> rfl
@[simp] theorem Tile.id_popOps (t : Tile) (l : List Nat) : (t.popOps l).1.id = t.id := by
  unfold Tile.popOps; refine foldl_pair_keeps (·.id) _ ?_ l (t, []); exact fun _ _ => rfl
@[simp] theorem Tile.id_crPair (t : Tile) (o : CrOp) : (t.crPair o).1.id = t.id := by simp [Tile.crPair]
@[simp] theorem Tile.id_pushToks (t : Tile) (l : List Nat) (n : Nat) : (t.pushToks l n).id = t.id := by
  unfold Tile.pushToks; refine foldl_keeps (·.id) _ ?_ l t; exact fun _ _ => rfl
@[simp] theorem Tile.id_rowOut (t : Tile) (c : Col) (n : Nat) (d : BitVec 8) (p : Nat) (v : Row) : (t.rowOut c n d p v).id = t.id := by
  unfold Tile.rowOut; split <;> rfl
@[simp] theorem Tile.wa_crSrc (t : Tile) (q : Bool) (r : Nat) : (t.crSrc q r).1.wa = t.wa := by unfold Tile.crSrc; split <;> rfl
@[simp] theorem Tile.wa_vxSrc (t : Tile) (r : BitVec 8) : (t.vxSrc r).1.wa = t.wa := by unfold Tile.vxSrc; split <;> rfl
@[simp] theorem Tile.wa_physSrc (t : Tile) (r : BitVec 8) : (t.physSrc r).1.wa = t.wa := by unfold Tile.physSrc; split <;> rfl
@[simp] theorem Tile.wa_popOps (t : Tile) (l : List Nat) : (t.popOps l).1.wa = t.wa := by
  unfold Tile.popOps; refine foldl_pair_keeps (·.wa) _ ?_ l (t, []); exact fun _ _ => rfl
@[simp] theorem Tile.wa_crPair (t : Tile) (o : CrOp) : (t.crPair o).1.wa = t.wa := by simp [Tile.crPair]
@[simp] theorem Tile.wa_pushToks (t : Tile) (l : List Nat) (n : Nat) : (t.pushToks l n).wa = t.wa := by
  unfold Tile.pushToks; refine foldl_keeps (·.wa) _ ?_ l t; exact fun _ _ => rfl
@[simp] theorem Tile.wa_rowOut (t : Tile) (c : Col) (n : Nat) (d : BitVec 8) (p : Nat) (v : Row) : (t.rowOut c n d p v).wa = t.wa := by
  unfold Tile.rowOut; split <;> rfl
@[simp] theorem Tile.cnt_crSrc (t : Tile) (q : Bool) (r : Nat) : (t.crSrc q r).1.cnt = t.cnt := by unfold Tile.crSrc; split <;> rfl
@[simp] theorem Tile.cnt_vxSrc (t : Tile) (r : BitVec 8) : (t.vxSrc r).1.cnt = t.cnt := by unfold Tile.vxSrc; split <;> rfl
@[simp] theorem Tile.cnt_physSrc (t : Tile) (r : BitVec 8) : (t.physSrc r).1.cnt = t.cnt := by unfold Tile.physSrc; split <;> rfl
@[simp] theorem Tile.cnt_popOps (t : Tile) (l : List Nat) : (t.popOps l).1.cnt = t.cnt := by
  unfold Tile.popOps; refine foldl_pair_keeps (·.cnt) _ ?_ l (t, []); exact fun _ _ => rfl
@[simp] theorem Tile.cnt_crPair (t : Tile) (o : CrOp) : (t.crPair o).1.cnt = t.cnt := by simp [Tile.crPair]
@[simp] theorem Tile.cnt_pushToks (t : Tile) (l : List Nat) (n : Nat) : (t.pushToks l n).cnt = t.cnt := by
  unfold Tile.pushToks; refine foldl_keeps (·.cnt) _ ?_ l t; exact fun _ _ => rfl
@[simp] theorem Tile.cnt_rowOut (t : Tile) (c : Col) (n : Nat) (d : BitVec 8) (p : Nat) (v : Row) : (t.rowOut c n d p v).cnt = t.cnt := by
  unfold Tile.rowOut; split <;> rfl
@[simp] theorem Tile.run_crSrc (t : Tile) (q : Bool) (r : Nat) : (t.crSrc q r).1.run = t.run := by unfold Tile.crSrc; split <;> rfl
@[simp] theorem Tile.run_vxSrc (t : Tile) (r : BitVec 8) : (t.vxSrc r).1.run = t.run := by unfold Tile.vxSrc; split <;> rfl
@[simp] theorem Tile.run_physSrc (t : Tile) (r : BitVec 8) : (t.physSrc r).1.run = t.run := by unfold Tile.physSrc; split <;> rfl
@[simp] theorem Tile.run_popOps (t : Tile) (l : List Nat) : (t.popOps l).1.run = t.run := by
  unfold Tile.popOps; refine foldl_pair_keeps (·.run) _ ?_ l (t, []); exact fun _ _ => rfl
@[simp] theorem Tile.run_crPair (t : Tile) (o : CrOp) : (t.crPair o).1.run = t.run := by simp [Tile.crPair]
@[simp] theorem Tile.run_pushToks (t : Tile) (l : List Nat) (n : Nat) : (t.pushToks l n).run = t.run := by
  unfold Tile.pushToks; refine foldl_keeps (·.run) _ ?_ l t; exact fun _ _ => rfl
@[simp] theorem Tile.run_rowOut (t : Tile) (c : Col) (n : Nat) (d : BitVec 8) (p : Nat) (v : Row) : (t.rowOut c n d p v).run = t.run := by
  unfold Tile.rowOut; split <;> rfl
@[simp] theorem Tile.pend_crSrc (t : Tile) (q : Bool) (r : Nat) : (t.crSrc q r).1.pend = t.pend := by unfold Tile.crSrc; split <;> rfl
@[simp] theorem Tile.pend_vxSrc (t : Tile) (r : BitVec 8) : (t.vxSrc r).1.pend = t.pend := by unfold Tile.vxSrc; split <;> rfl
@[simp] theorem Tile.pend_physSrc (t : Tile) (r : BitVec 8) : (t.physSrc r).1.pend = t.pend := by unfold Tile.physSrc; split <;> rfl
@[simp] theorem Tile.pend_popOps (t : Tile) (l : List Nat) : (t.popOps l).1.pend = t.pend := by
  unfold Tile.popOps; refine foldl_pair_keeps (·.pend) _ ?_ l (t, []); exact fun _ _ => rfl
@[simp] theorem Tile.pend_crPair (t : Tile) (o : CrOp) : (t.crPair o).1.pend = t.pend := by simp [Tile.crPair]
@[simp] theorem Tile.cache_crSrc (t : Tile) (q : Bool) (r : Nat) : (t.crSrc q r).1.cache = t.cache := by unfold Tile.crSrc; split <;> rfl
@[simp] theorem Tile.cache_vxSrc (t : Tile) (r : BitVec 8) : (t.vxSrc r).1.cache = t.cache := by unfold Tile.vxSrc; split <;> rfl
@[simp] theorem Tile.cache_physSrc (t : Tile) (r : BitVec 8) : (t.physSrc r).1.cache = t.cache := by unfold Tile.physSrc; split <;> rfl
@[simp] theorem Tile.cache_popOps (t : Tile) (l : List Nat) : (t.popOps l).1.cache = t.cache := by
  unfold Tile.popOps; refine foldl_pair_keeps (·.cache) _ ?_ l (t, []); exact fun _ _ => rfl
@[simp] theorem Tile.cache_crPair (t : Tile) (o : CrOp) : (t.crPair o).1.cache = t.cache := by simp [Tile.crPair]
@[simp] theorem Tile.cache_pushToks (t : Tile) (l : List Nat) (n : Nat) : (t.pushToks l n).cache = t.cache := by
  unfold Tile.pushToks; refine foldl_keeps (·.cache) _ ?_ l t; exact fun _ _ => rfl
@[simp] theorem Tile.cache_rowOut (t : Tile) (c : Col) (n : Nat) (d : BitVec 8) (p : Nat) (v : Row) : (t.rowOut c n d p v).cache = t.cache := by
  unfold Tile.rowOut; split <;> rfl
@[simp] theorem Tile.old_crSrc (t : Tile) (q : Bool) (r : Nat) : (t.crSrc q r).1.old = t.old := by unfold Tile.crSrc; split <;> rfl
@[simp] theorem Tile.old_vxSrc (t : Tile) (r : BitVec 8) : (t.vxSrc r).1.old = t.old := by unfold Tile.vxSrc; split <;> rfl
@[simp] theorem Tile.old_physSrc (t : Tile) (r : BitVec 8) : (t.physSrc r).1.old = t.old := by unfold Tile.physSrc; split <;> rfl
@[simp] theorem Tile.old_popOps (t : Tile) (l : List Nat) : (t.popOps l).1.old = t.old := by
  unfold Tile.popOps; refine foldl_pair_keeps (·.old) _ ?_ l (t, []); exact fun _ _ => rfl
@[simp] theorem Tile.old_crPair (t : Tile) (o : CrOp) : (t.crPair o).1.old = t.old := by simp [Tile.crPair]
@[simp] theorem Tile.old_pushToks (t : Tile) (l : List Nat) (n : Nat) : (t.pushToks l n).old = t.old := by
  unfold Tile.pushToks; refine foldl_keeps (·.old) _ ?_ l t; exact fun _ _ => rfl
@[simp] theorem Tile.old_rowOut (t : Tile) (c : Col) (n : Nat) (d : BitVec 8) (p : Nat) (v : Row) : (t.rowOut c n d p v).old = t.old := by
  unfold Tile.rowOut; split <;> rfl
@[simp] theorem Tile.qs_pushToks (t : Tile) (l : List Nat) (n : Nat) : (t.pushToks l n).qs = t.qs := by
  unfold Tile.pushToks; refine foldl_keeps (·.qs) _ ?_ l t; exact fun _ _ => rfl
@[simp] theorem Tile.qs_rowOut (t : Tile) (c : Col) (n : Nat) (d : BitVec 8) (p : Nat) (v : Row) : (t.rowOut c n d p v).qs = t.qs := by
  unfold Tile.rowOut; split <;> rfl

/-- Two tiles with the same queues give the same source, and the queues left are the same. -/
theorem Tile.crSrc_congr {t u : Tile} (hg : t.g = u.g) (hq : t.queue = u.queue) (hh : t.qs.held = u.qs.held) (q : Bool) (r : Nat) :
    (t.crSrc q r).2 = (u.crSrc q r).2 ∧ (t.crSrc q r).1.queue = (u.crSrc q r).1.queue ∧ (t.crSrc q r).1.qs.held = (u.crSrc q r).1.qs.held := by
  unfold Tile.crSrc
  cases q
  · exact ⟨congrFun hg r, hq, hh⟩
  · refine ⟨?_, ?_, hh⟩
    · simp only [if_true, Tile.front, hq, hh]
    · funext j
      simp only [if_true, Tile.queue_pop, hq, hh]

/-- Taking what a CR word needs changes neither its source values nor the queues they leave. -/
theorem Tile.crPair_take (t : Tile) (k : Needs) (o : CrOp) :
    ((t.take k).crPair o).2 = (t.crPair o).2 ∧ ((t.take k).crPair o).1.queue = (t.crPair o).1.queue := by
  obtain ⟨a1, a2, a3⟩ := Tile.crSrc_congr (t := t.take k) (u := t) (by simp) (by simp) (by simp) o.qs o.s.toNat
  obtain ⟨b1, b2, -⟩ := Tile.crSrc_congr (t := ((t.take k).crSrc o.qs o.s.toNat).1) (u := (t.crSrc o.qs o.s.toNat).1)
    (by funext r; simp [Tile.g]) a2 a3 o.qt o.t.toNat
  exact ⟨Prod.ext a1 b1, b2⟩

end Sys2Proof.Machine
end

