-- ==== Sys2Proof/Laws/Ops.lean ====
section
/-! SUPPORT. What the shared operations do: the attempt of a word to issue, and how a column moves on. -/
namespace Sys2Proof.Machine

open Sys2Proof

/-! ### Issue -/

theorem ctIssue_starts {s : State} {k : Needs} (h : CtStarts s k) (f : State → Out) : ctIssue s true true k f = f s := by
  obtain ⟨h1, h2, h3, -⟩ := h
  have : ¬ (s.tile s.cur.tile).ct.clk < (s.tile s.cur.tile).ct.busy := by omega
  simp [ctIssue, h1, h3, this]

/-- A CT word that starts has its effect. -/
theorem ctWord_starts {s : State} {k : Needs} (h : CtStarts s k) (f : State → Out) : ctWord s true true k f = f s := by
  unfold ctWord
  rw [ctIssue_starts h]
  obtain ⟨-, -, -, h4⟩ := h
  split
  · rename_i e r he
    exact if_neg (Nat.not_lt.mpr (h4 e r he))
  · rfl

/-- A stamped word whose target is the present count issues. -/
theorem stampCheck_now (s : State) (k : Needs) (f : State → Out) (past : Nat)
    (h : (s.tile s.cur.tile).stampOk k (s.tile s.cur.tile).cnt = true) : stampCheck s k f (some (s.tile s.cur.tile).cnt) past = f s := by
  unfold stampCheck
  have far : ∀ a b : Nat, (a + b < a) = False := fun a b => eq_false (Nat.not_lt.mpr (Nat.le_add_right a b))
  simp [far, h]

theorem stampIssue_untested (s : State) (k : Needs) (f : State → Out) (e : Nat) (w : Lane)
    (h : ((s.tile s.cur.tile).col s.cur.col).st = .untested) : stampIssue s k f e w = stampCheck s k f (stampTarget e w) (pastTarget e w) := by
  unfold stampIssue
  generalize stampTarget e w = a
  generalize pastTarget e w = b
  simp only [h]

theorem stampIssue_decided (s : State) (k : Needs) (f : State → Out) (e : Nat) (w : Lane) (lim : Nat)
    (h : ((s.tile s.cur.tile).col s.cur.col).st = .issueAt lim) (hl : lim ≤ (s.tile s.cur.tile).cnt) :
    stampIssue s k f e w = f (s.modTile s.cur.tile (fun t => (t.unhold k).setCol s.cur.col { t.col s.cur.col with st := .untested })) := by
  unfold stampIssue
  generalize stampTarget e w = a
  generalize pastTarget e w = b
  simp only [h]
  exact if_pos hl

/-- A synchronous word that starts has its effect. -/
theorem syncIssue_starts {s s' : State} {dly : BitVec 3} {stamp : Option Lane} {k : Needs} (h : SyncStarts s dly stamp k s') (f : State → Out) :
    syncIssue s true dly stamp k f = f s' := by
  obtain ⟨h1, h2, h⟩ := h
  unfold syncIssue
  have elig : ∀ u : State, (u.tile u.cur.tile).eligibleAt u.cur.col dly ≤ (u.tile u.cur.tile).cnt →
      ((u.tile u.cur.tile).cnt < Nat.max (((u.tile u.cur.tile).col u.cur.col).after + dly.toNat) ((u.tile u.cur.tile).col u.cur.col).busy) = False :=
    fun u h => eq_false (Nat.not_lt.mpr h)
  rcases h with ⟨hb, h3, h4, h5, rfl⟩ | ⟨hb, h3, rfl, h4, h5, rfl⟩ | ⟨hb, h3, h4, h5, rfl, w, rfl, h6⟩ | ⟨hb, h3, h4, lim, h5, h6, rfl⟩
  · simp only [h1, h2, hb, h3, h4, Option.isSome_none, Bool.or_self, Bool.false_eq_true, if_false, if_true, decide_true, Bool.and_self]
    exact if_neg (by simpa using h5)
  · simp only [h1, h2, hb, elig _ h3, h4, Option.isSome_none, Bool.or_self, Bool.false_eq_true, if_false, if_true]
    exact if_neg (by simpa using h5)
  · simp only [h1, h2, hb, elig _ h3, Option.isSome_none, Bool.or_self, Bool.false_eq_true, if_false, if_true]
    rw [stampIssue_untested _ _ _ _ _ h4]
    unfold Tile.eligibleAt at h6
    rw [h6]
    exact stampCheck_now _ _ _ _ h5
  · cases stamp with
    | none => simp at h4
    | some w =>
      simp only [h1, h2, hb, elig _ h3, Option.isSome_none, Bool.or_self, Bool.false_eq_true, if_false, if_true]
      exact stampIssue_decided _ _ _ _ _ lim h5 h6

/-! ### Frames -/

theorem OnlyTile.refl (s : State) (n : Nat) : OnlyTile s s n := ⟨rfl, fun _ _ => rfl⟩
theorem OnlyTile.trans {s t u : State} {n : Nat} (h1 : OnlyTile s t n) (h2 : OnlyTile t u n) : OnlyTile s u n := by
  refine ⟨?_, fun m hm => (h2.2 m hm).trans (h1.2 m hm)⟩
  have h := h2.1
  have : { u with tiles := s.tiles } = { { u with tiles := t.tiles } with tiles := s.tiles } := rfl
  rw [this, h, h1.1]
theorem onlyTile_setTile (s : State) (n : Nat) (t : Tile) : OnlyTile s (s.setTile n t) n := ⟨rfl, fun _ h => State.tile_setTile_other s t h⟩
theorem onlyTile_modTile (s : State) (n : Nat) (f : Tile → Tile) : OnlyTile s (s.modTile n f) n := onlyTile_setTile ..
theorem onlyTile_ctDone (s : State) (h : Nat) : OnlyTile s (s.ctDone h) s.cur.tile := onlyTile_modTile ..
theorem onlyTile_ctNext (s : State) (h : Nat) : OnlyTile s (s.ctNext h) s.cur.tile :=
  (onlyTile_ctDone s h).trans (onlyTile_modTile ..)
theorem onlyTile_issued (s : State) (h : Nat) : OnlyTile s (s.issued h) s.cur.tile := onlyTile_modTile ..
theorem onlyTile_fire (s : State) (k : Needs) (h : Nat) (g : Tile → Tile) : OnlyTile s (s.fire k h g) s.cur.tile :=
  (onlyTile_modTile ..).trans (onlyTile_issued (s.modTile _ _) h)

/-! ### Moving on -/

@[simp] theorem Fetch.store_issuedAt (x : Fetch) (n : Nat) (b : Bool) : (x.issuedAt n b).store = x.store := by unfold Fetch.issuedAt; split <;> rfl
@[simp] theorem Fetch.pc_issuedAt (x : Fetch) (n : Nat) (b : Bool) : (x.issuedAt n b).pc = x.pc := by unfold Fetch.issuedAt; split <;> rfl
@[simp] theorem Fetch.iq_issuedAt (x : Fetch) (n : Nat) (b : Bool) : (x.issuedAt n b).iq = x.iq := by unfold Fetch.issuedAt; split <;> rfl
@[simp] theorem Fetch.cols_issuedAt (x : Fetch) (n : Nat) (b : Bool) : (x.issuedAt n b).cols = x.cols := by unfold Fetch.issuedAt; split <;> rfl

@[simp] theorem Tile.ct_redirect (t : Tile) (c a : Nat) (l d : Bool) : (t.redirect c a l d).ct = t.ct := rfl
@[simp] theorem Tile.qs_redirect (t : Tile) (c a : Nat) (l d : Bool) : (t.redirect c a l d).qs = t.qs := rfl
@[simp] theorem Tile.st_redirect (t : Tile) (c a : Nat) (l d : Bool) : (t.redirect c a l d).st = t.st := rfl
@[simp] theorem Tile.mx_redirect (t : Tile) (c a : Nat) (l d : Bool) : (t.redirect c a l d).mx = t.mx := rfl
@[simp] theorem Tile.sq_redirect (t : Tile) (c a : Nat) (l d : Bool) : (t.redirect c a l d).sq = t.sq := rfl
@[simp] theorem Tile.en_redirect (t : Tile) (c a : Nat) (l d : Bool) : (t.redirect c a l d).en = t.en := rfl
@[simp] theorem Tile.id_redirect (t : Tile) (c a : Nat) (l d : Bool) : (t.redirect c a l d).id = t.id := rfl
@[simp] theorem Tile.wa_redirect (t : Tile) (c a : Nat) (l d : Bool) : (t.redirect c a l d).wa = t.wa := rfl
@[simp] theorem Tile.cnt_redirect (t : Tile) (c a : Nat) (l d : Bool) : (t.redirect c a l d).cnt = t.cnt := rfl
@[simp] theorem Tile.run_redirect (t : Tile) (c a : Nat) (l d : Bool) : (t.redirect c a l d).run = t.run := rfl
@[simp] theorem Tile.pend_redirect (t : Tile) (c a : Nat) (l d : Bool) : (t.redirect c a l d).pend = t.pend := rfl
@[simp] theorem Tile.cache_redirect (t : Tile) (c a : Nat) (l d : Bool) : (t.redirect c a l d).cache = t.cache := rfl
@[simp] theorem Tile.old_redirect (t : Tile) (c a : Nat) (l d : Bool) : (t.redirect c a l d).old = t.old := rfl
@[simp] theorem Tile.store_redirect (t : Tile) (c a : Nat) (l d : Bool) : (t.redirect c a l d).fe.store = t.fe.store := rfl
@[simp] theorem Tile.cols_redirect (t : Tile) (c a : Nat) (l d : Bool) : (t.redirect c a l d).fe.cols = t.fe.cols := rfl
@[simp] theorem Tile.seqr_redirect (t : Tile) (c a : Nat) (l d : Bool) : (t.redirect c a l d).fe.seqr = t.fe.seqr := rfl

/-- The tile of the acting word after `State.ctDone`. -/
theorem State.tile_ctDone (s : State) (h : Nat) :
    (s.ctDone h).tile s.cur.tile =
      { (s.tile s.cur.tile).setIq .ct ((s.tile s.cur.tile).iq .ct).tail with
        ct := { (s.tile s.cur.tile).ct with busy := (s.tile s.cur.tile).ct.clk + Nat.max 1 h, prior := none } } := State.tile_modTile_same ..

/-- The tile of the acting word after `State.ctNext`. -/
theorem State.tile_ctNext (s : State) (h : Nat) :
    (s.ctNext h).tile s.cur.tile =
      (let x := s.tile s.cur.tile
       let e := loopEnd s.cur.q.addr (x.ct.entered s.cur.q.addr)
       let t := { x.setIq .ct (x.iq .ct).tail with ct := { x.ct with busy := x.ct.clk + Nat.max 1 h, prior := none, loops := e.1, loopStart := false } }
       match e.2 with
       | some a => t.redirect s.stamp a false false
       | none => t) := by
  unfold State.ctNext
  simp only [State.tile_modTile_same, State.tile_ctDone]
  rfl

/-- What `State.ctNext` leaves of the tile. -/
theorem State.ctNext_keeps (s : State) (h : Nat) :
    let x := s.tile s.cur.tile
    let y := (s.ctNext h).tile s.cur.tile
    y.qs = x.qs ∧ y.st = x.st ∧ y.mx = x.mx ∧ y.sq = x.sq ∧ y.en = x.en ∧ y.id = x.id ∧ y.wa = x.wa ∧ y.cnt = x.cnt ∧ y.run = x.run ∧
      y.pend = x.pend ∧ y.cache = x.cache ∧ y.old = x.old ∧
      { y.ct with busy := x.ct.busy, prior := x.ct.prior, loops := x.ct.loops, loopStart := x.ct.loopStart } = x.ct ∧
      y.ct.busy = x.ct.clk + Nat.max 1 h ∧ y.fe.store = x.fe.store ∧ y.fe.cols = x.fe.cols ∧ y.fe.seqr = x.fe.seqr := by
  intro x y
  have hy : y = _ := State.tile_ctNext s h
  simp only at hy
  split at hy <;> rw [hy] <;> exact ⟨rfl, rfl, rfl, rfl, rfl, rfl, rfl, rfl, rfl, rfl, rfl, rfl, rfl, rfl, rfl, rfl, rfl⟩

/-- Where `State.ctNext` goes on: the loop stack, the queue and the fetch position (R160, R312). -/
theorem ctMoved_ctNext (s : State) : CtMoved s (s.ctNext 1) 1 := by
  have hy := State.tile_ctNext s 1
  simp only at hy
  unfold CtMoved
  dsimp only
  generalize loopEnd s.cur.q.addr ((s.tile s.cur.tile).ct.entered s.cur.q.addr) = e at hy
  obtain ⟨l, _ | a⟩ := e <;> rw [hy]
  · exact ⟨rfl, rfl, rfl, fun _ => ⟨Tile.iq_setIq_same .., rfl, rfl⟩, (by intro _ h; cases h)⟩
  · exact ⟨rfl, rfl, rfl, (by intro h; cases h), (by intro _ h; cases h; exact ⟨Tile.iq_setIq_same .., rfl, rfl, rfl⟩)⟩

/-- What a change g of a tile by a CT word leaves: everything but the g registers, the queues, what is due and the CT words' landings. -/
def CtKeeps (g : Tile → Tile) : Prop :=
  ∀ x : Tile, (g x).st = x.st ∧ (g x).mx = x.mx ∧ (g x).sq = x.sq ∧ (g x).en = x.en ∧ (g x).id = x.id ∧ (g x).wa = x.wa ∧
    (g x).cnt = x.cnt ∧ (g x).run = x.run ∧ (g x).cache = x.cache ∧ (g x).old = x.old ∧
    { (g x).ct with g := x.ct.g, gReady := x.ct.gReady, lands := x.ct.lands } = x.ct ∧ (g x).fe = x.fe

/-- The frame of a CT word that changes its tile by g and moves on. -/
theorem ctFrame_ctNext (s : State) (g : Tile → Tile) (hg : CtKeeps g) :
    CtFrame s ((s.modTile s.cur.tile g).ctNext 1) ∧ CtMoved s ((s.modTile s.cur.tile g).ctNext 1) 1 := by
  have k := State.ctNext_keeps (s.modTile s.cur.tile g) 1
  have st := ctMoved_ctNext (s.modTile s.cur.tile g)
  have ho : OnlyTile s ((s.modTile s.cur.tile g).ctNext 1) s.cur.tile := (onlyTile_modTile ..).trans (onlyTile_ctNext (s.modTile _ g) 1)
  unfold CtMoved at st
  simp only [State.cur_modTile, State.tile_modTile_same] at k st
  obtain ⟨g1, g2, g3, g4, g5, g6, g7, g8, g9, g0, g10, g11⟩ := hg (s.tile s.cur.tile)
  obtain ⟨-, k2, k3, k4, k5, k6, k7, k8, k9, -, k11, k0, k12, -, k14, k15, k16⟩ := k
  have gl : (g (s.tile s.cur.tile)).ct.loops = (s.tile s.cur.tile).ct.loops := by conv => rhs; rw [← g10]
  have gs : (g (s.tile s.cur.tile)).ct.loopStart = (s.tile s.cur.tile).ct.loopStart := by conv => rhs; rw [← g10]
  have gc : (g (s.tile s.cur.tile)).ct.clk = (s.tile s.cur.tile).ct.clk := by conv => rhs; rw [← g10]
  have ge : (g (s.tile s.cur.tile)).ct.entered = (s.tile s.cur.tile).ct.entered := by funext a; unfold Ct.entered; rw [gl, gs]
  have gi : (g (s.tile s.cur.tile)).iq = (s.tile s.cur.tile).iq := by funext c; unfold Tile.iq; rw [g11]
  refine ⟨⟨ho, by rw [k2, g1], by rw [k3, g2], by rw [k4, g3], by rw [k5, g4], by rw [k6, g5], by rw [k7, g6], by rw [k8, g7],
    by rw [k9, g8], by rw [k11, g9], by rw [k0, g0], ?_, by rw [k14, g11], by rw [k15, g11], by rw [k16, g11]⟩, ?_⟩
  · rw [← k12] at g10
    simp only at g10
    rw [← g10]
  · simp only [ge, gi, gc, g11] at st
    exact st

end Sys2Proof.Machine
end

