-- ==== Sys2Proof/Laws/Ct.lean ====
section
/-! SUPPORT. What the shared operations of CT words do when the word starts. -/
namespace Sys2Proof.Machine

open Sys2Proof

/-! ### A landing of CT -/

theorem Tile.g_ctLand (t : Tile) (n ord : Nat) (a : Act) : (t.ctLand n ord a).g = t.g := by unfold Tile.ctLand; split <;> rfl
theorem Tile.queue_ctLand (t : Tile) (n ord : Nat) (a : Act) : (t.ctLand n ord a).queue = t.queue := by unfold Tile.ctLand; split <;> rfl
theorem ctLands_ctLand (t : Tile) (n ord : Nat) (a : Act) : CtLands t (t.ctLand n ord a) n ord a := by
  unfold CtLands Tile.ctLand
  split <;> exact ⟨rfl, rfl⟩
theorem ctKeeps_ctLand (n ord : Nat) (a : Act) : CtKeeps (fun t => t.ctLand n ord a) := by
  intro x
  simp only [Tile.ctLand]
  split <;> exact ⟨rfl, rfl, rfl, rfl, rfl, rfl, rfl, rfl, rfl, rfl, rfl, rfl⟩

/-- A register-form ALU word that starts completes (R294–R296). -/
theorem aluWord_completes (s : State) (o : CrOp) (lat : Nat) (f : Word → Word → Word) (h : CtStarts s (crNeeds o)) (hw : crWf o = true) :
    ∃ t, aluWord o lat f s = .next t ∧ CtFrame s t ∧ CtMoved s t 1 ∧ CrResult o lat f s t := by
  unfold aluWord
  rw [hw, ctWord_starts h]
  let g : Tile → Tile := fun t =>
    if o.qd then (((t.take (crNeeds o)).crPair o).1).ctLand lat (landOrd .ct) (.qpush o.d.toNat (wordRow (f ((t.take (crNeeds o)).crPair o).2.1 ((t.take (crNeeds o)).crPair o).2.2)))
    else (((t.take (crNeeds o)).crPair o).1).setG o.d.toNat (f ((t.take (crNeeds o)).crPair o).2.1 ((t.take (crNeeds o)).crPair o).2.2) lat
  have hg : CtKeeps g := by
    intro x
    simp only [g]
    have hm := Tile.mx_take x (crNeeds o) rfl
    split
    · simp only [Tile.ctLand]
      split <;> simp [hm]
    · simp [Tile.setG, hm]
      split <;> simp [hm]
  obtain ⟨F, M⟩ := ctFrame_ctNext s g hg
  refine ⟨(s.modTile s.cur.tile g).ctNext 1, rfl, F, M, ?_⟩
  have K := State.ctNext_keeps (s.modTile s.cur.tile g) 1
  simp only [State.cur_modTile, State.tile_modTile_same] at K
  obtain ⟨k1, -, -, -, -, -, -, -, -, k10, -, -, k12, -⟩ := K
  obtain ⟨p1, p2⟩ := Tile.crPair_take (s.tile s.cur.tile) (crNeeds o) o
  have ex : ((s.modTile s.cur.tile g).ctNext 1).tile (s.modTile s.cur.tile g).cur.tile = ((s.modTile s.cur.tile g).ctNext 1).tile s.cur.tile := rfl
  have gY : ∀ r, (((s.modTile s.cur.tile g).ctNext 1).tile s.cur.tile).g r = (g (s.tile s.cur.tile)).g r := by
    intro r; unfold Tile.g
    have : (((s.modTile s.cur.tile g).ctNext 1).tile s.cur.tile).ct.g = (g (s.tile s.cur.tile)).ct.g := by rw [← k12]
    rw [this]
  have lY : (((s.modTile s.cur.tile g).ctNext 1).tile s.cur.tile).ct.lands = (g (s.tile s.cur.tile)).ct.lands := by rw [← k12]
  have rY : (((s.modTile s.cur.tile g).ctNext 1).tile s.cur.tile).ct.gReady = (g (s.tile s.cur.tile)).ct.gReady := by rw [← k12]
  refine ⟨fun r => ?_, fun hd h0 => ?_, fun q => ?_, fun hd => ?_, fun hd => ?_⟩
  · rw [gY]
    simp only [g]
    cases hq : o.qd
    · simp only [Bool.false_eq_true, if_false, true_and, Tile.g_setG, p1]
      split <;> simp [Tile.g]
    · simp only [if_true, Tile.g_ctLand]
      simp [Tile.g]
  · rw [rY]
    have : ¬ o.d.toNat = 0 := fun e => h0 (by apply BitVec.eq_of_toNat_eq; simpa using e)
    simp [g, hd, Tile.setG, this]
  · have : (((s.modTile s.cur.tile g).ctNext 1).tile s.cur.tile).queue q = (g (s.tile s.cur.tile)).queue q := by
      unfold Tile.queue; rw [k1]
    rw [this]
    simp only [g]
    cases hq : o.qd
    · simp only [Bool.false_eq_true, if_false, Tile.queue, Tile.qs_setG]
      exact congrFun p2 q
    · simp only [if_true, Tile.queue_ctLand]
      exact congrFun p2 q
  · unfold CtLands
    rw [k10, lY]
    have L := ctLands_ctLand (((s.tile s.cur.tile).take (crNeeds o)).crPair o).1 lat (landOrd .ct)
      (.qpush o.d.toNat (wordRow (f ((s.tile s.cur.tile).crPair o).2.1 ((s.tile s.cur.tile).crPair o).2.2)))
    simpa [CtLands, g, hd, p1] using L
  · rw [k10, lY]
    simp only [g, hd, Bool.false_eq_true, if_false]
    refine ⟨by simp, ?_⟩
    unfold Tile.setG
    split <;> simp

/-- A CT word that changes its tile by g and moves on: the tile it leaves has the registers, queues and landings of g. -/
theorem ctNext_result (s : State) (g : Tile → Tile) :
    let y := ((s.modTile s.cur.tile g).ctNext 1).tile s.cur.tile
    let z := g (s.tile s.cur.tile)
    y.g = z.g ∧ y.ct.gReady = z.ct.gReady ∧ y.qs = z.qs ∧ y.pend = z.pend ∧ y.queue = z.queue ∧ y.ct.lands = z.ct.lands := by
  intro y z
  have K := State.ctNext_keeps (s.modTile s.cur.tile g) 1
  simp only [State.cur_modTile, State.tile_modTile_same] at K
  obtain ⟨k1, -, -, -, -, -, -, -, -, k10, -, -, k12, -⟩ := K
  have k1' : y.qs = z.qs := k1
  have g1 : y.ct.g = z.ct.g := by show (((s.modTile s.cur.tile g).ctNext 1).tile s.cur.tile).ct.g = (g (s.tile s.cur.tile)).ct.g; rw [← k12]
  have g2 : y.ct.gReady = z.ct.gReady := by show (((s.modTile s.cur.tile g).ctNext 1).tile s.cur.tile).ct.gReady = (g (s.tile s.cur.tile)).ct.gReady; rw [← k12]
  have g3 : y.ct.lands = z.ct.lands := by show (((s.modTile s.cur.tile g).ctNext 1).tile s.cur.tile).ct.lands = (g (s.tile s.cur.tile)).ct.lands; rw [← k12]
  exact ⟨by funext r; simp only [Tile.g, g1], g2, k1, k10, by funext r; simp only [Tile.queue, k1'], g3⟩

/-- A word that writes one g register and moves on. -/
theorem setG_completes (s : State) (d : Nat) (f : Tile → Word) (lat : Nat) :
    CtFrame s ((s.modTile s.cur.tile (fun t => t.setG d (f t) lat)).ctNext 1) ∧ CtMoved s ((s.modTile s.cur.tile (fun t => t.setG d (f t) lat)).ctNext 1) 1 ∧
      GResult s ((s.modTile s.cur.tile (fun t => t.setG d (f t) lat)).ctNext 1) d (f (s.tile s.cur.tile)) := by
  obtain ⟨F, M⟩ := ctFrame_ctNext s (fun t => t.setG d (f t) lat) (by intro x; simp [Tile.setG]; split <;> simp)
  obtain ⟨r1, -, r3, r4, -, r6⟩ := ctNext_result s (fun t => t.setG d (f t) lat)
  exact ⟨F, M, fun r => by rw [r1, Tile.g_setG], by rw [r3]; simp, by rw [r4]; simp, by rw [r6]; unfold Tile.setG; split <;> rfl⟩

/-- A word that writes nothing and moves on. -/
theorem nothing_completes (s : State) : CtFrame s (s.ctNext 1) ∧ CtMoved s (s.ctNext 1) 1 ∧ GSame s (s.ctNext 1) := by
  have K := State.ctNext_keeps s 1
  simp only at K
  obtain ⟨k1, k2, k3, k4, k5, k6, k7, k8, k9, k10, k11, k0, k12, k13, k14, k15, k16⟩ := K
  refine ⟨⟨onlyTile_ctNext s 1, k2, k3, k4, k5, k6, k7, k8, k9, k11, k0, ?_, k14, k15, k16⟩, ctMoved_ctNext s, fun r => ?_, k1, k10, ?_⟩
  · exact congrArg (fun c : Ct => { c with g := (s.tile s.cur.tile).ct.g, gReady := (s.tile s.cur.tile).ct.gReady, lands := (s.tile s.cur.tile).ct.lands }) k12
  · have g1 : ((s.ctNext 1).tile s.cur.tile).ct.g = (s.tile s.cur.tile).ct.g := by conv => rhs; rw [← k12]
    simp only [Tile.g, g1]
  · conv => rhs; rw [← k12]

/-- An immediate word that starts completes (R297). -/
theorem immWord_completes (st : State) (d s : Nat) (f : Word → Word) (h : CtStarts st (gNeeds [s] [d])) :
    ∃ t, immWord d s f st = .next t ∧ CtFrame st t ∧ CtMoved st t 1 ∧ GResult st t d (f ((st.tile st.cur.tile).g s)) := by
  unfold immWord
  rw [ctWord_starts h]
  exact ⟨_, rfl, setG_completes st d (fun t => f (t.g s)) 1⟩

/-- A jump that is legal has been made. -/
theorem jump_completes (s : State) (target : Nat) (link : Option (Nat × Word)) (h : (s.tile s.cur.tile).ct.handler = true → target < 0x2000) :
    Jumped s (s.jump target link) target link := by
  have hn : ((s.tile s.cur.tile).ct.handler && decide (0x2000 ≤ target)) = false := by
    cases hh : (s.tile s.cur.tile).ct.handler
    · rfl
    · have := h hh; simp; omega
  unfold State.jump
  simp only [hn, Bool.false_eq_true, if_false]
  have hc : (s.ctDone 1).cur = s.cur := rfl
  refine ⟨(onlyTile_ctDone s 1).trans (onlyTile_modTile ..), ?_⟩
  simp only [State.tile_modTile_same, State.tile_ctDone]
  refine ⟨Tile.iq_setIq_same .., rfl, rfl, rfl, ?_⟩
  cases link with
  | none => exact ⟨rfl, rfl, fun r => rfl, rfl, rfl, rfl, rfl, rfl, rfl, rfl, rfl, rfl, rfl, rfl, rfl⟩
  | some l =>
    obtain ⟨d, v⟩ := l
    refine ⟨?_, ?_, fun r => ?_, ?_⟩
    · simp [Tile.setG]; split <;> rfl
    · unfold Tile.setG; split <;> rfl
    · have := Tile.g_setG (t := { (s.tile s.cur.tile).setIq .ct ((s.tile s.cur.tile).iq .ct).tail with
        ct := { (s.tile s.cur.tile).ct with busy := (s.tile s.cur.tile).ct.clk + Nat.max 1 1, prior := none } }) d v 1 r
      simpa [Tile.g] using this
    · simp

end Sys2Proof.Machine
end

