-- ==== Sys2Proof/Laws/Dispatch.lean ====
section
/-! SUPPORT. Every constructor runs its own meaning: one lemma for each arm of `exec`. -/
namespace Sys2Proof.Machine

open Sys2Proof

@[simp] theorem exec_add (o : CrOp) (st_ : State) : exec (.add o) st_ = execAdd o st_ := rfl
@[simp] theorem exec_sub (o : CrOp) (st_ : State) : exec (.sub o) st_ = execSub o st_ := rfl
@[simp] theorem exec_and (o : CrOp) (st_ : State) : exec (.and o) st_ = execAnd o st_ := rfl
@[simp] theorem exec_or (o : CrOp) (st_ : State) : exec (.or o) st_ = execOr o st_ := rfl
@[simp] theorem exec_xor (o : CrOp) (st_ : State) : exec (.xor o) st_ = execXor o st_ := rfl
@[simp] theorem exec_sll (o : CrOp) (st_ : State) : exec (.sll o) st_ = execSll o st_ := rfl
@[simp] theorem exec_srl (o : CrOp) (st_ : State) : exec (.srl o) st_ = execSrl o st_ := rfl
@[simp] theorem exec_sra (o : CrOp) (st_ : State) : exec (.sra o) st_ = execSra o st_ := rfl
@[simp] theorem exec_slt (o : CrOp) (st_ : State) : exec (.slt o) st_ = execSlt o st_ := rfl
@[simp] theorem exec_sltu (o : CrOp) (st_ : State) : exec (.sltu o) st_ = execSltu o st_ := rfl
@[simp] theorem exec_seq (o : CrOp) (st_ : State) : exec (.seq o) st_ = execSeq o st_ := rfl
@[simp] theorem exec_mul (o : CrOp) (st_ : State) : exec (.mul o) st_ = execMul o st_ := rfl
@[simp] theorem exec_mulh (o : CrOp) (st_ : State) : exec (.mulh o) st_ = execMulh o st_ := rfl
@[simp] theorem exec_div (o : CrOp) (st_ : State) : exec (.div o) st_ = execDiv o st_ := rfl
@[simp] theorem exec_divu (o : CrOp) (st_ : State) : exec (.divu o) st_ = execDivu o st_ := rfl
@[simp] theorem exec_rem (o : CrOp) (st_ : State) : exec (.rem o) st_ = execRem o st_ := rfl
@[simp] theorem exec_min (o : CrOp) (st_ : State) : exec (.min o) st_ = execMin o st_ := rfl
@[simp] theorem exec_max (o : CrOp) (st_ : State) : exec (.max o) st_ = execMax o st_ := rfl
@[simp] theorem exec_addi (o : CiOp) (st_ : State) : exec (.addi o) st_ = execAddi o st_ := rfl
@[simp] theorem exec_andi (o : CiOp) (st_ : State) : exec (.andi o) st_ = execAndi o st_ := rfl
@[simp] theorem exec_ori (o : CiOp) (st_ : State) : exec (.ori o) st_ = execOri o st_ := rfl
@[simp] theorem exec_xori (o : CiOp) (st_ : State) : exec (.xori o) st_ = execXori o st_ := rfl
@[simp] theorem exec_slli (o : ShOp) (st_ : State) : exec (.slli o) st_ = execSlli o st_ := rfl
@[simp] theorem exec_srli (o : ShOp) (st_ : State) : exec (.srli o) st_ = execSrli o st_ := rfl
@[simp] theorem exec_srai (o : ShOp) (st_ : State) : exec (.srai o) st_ = execSrai o st_ := rfl
@[simp] theorem exec_slti (o : CiOp) (st_ : State) : exec (.slti o) st_ = execSlti o st_ := rfl
@[simp] theorem exec_ldi (d : BitVec 5) (imm : BitVec 21) (st_ : State) : exec (.ldi d imm) st_ = execLdi d imm st_ := rfl
@[simp] theorem exec_ldiLong (d : BitVec 5) (imm : BitVec 21) (ext : BitVec 32) (st_ : State) : exec (.ldiLong d imm ext) st_ = execLdiLong d imm ext st_ := rfl
@[simp] theorem exec_orhi (d : BitVec 5) (sh : BitVec 2) (imm : BitVec 16) (st_ : State) : exec (.orhi d sh imm) st_ = execOrhi d sh imm st_ := rfl
@[simp] theorem exec_beq (o : CbOp) (st_ : State) : exec (.beq o) st_ = execBeq o st_ := rfl
@[simp] theorem exec_bne (o : CbOp) (st_ : State) : exec (.bne o) st_ = execBne o st_ := rfl
@[simp] theorem exec_blt (o : CbOp) (st_ : State) : exec (.blt o) st_ = execBlt o st_ := rfl
@[simp] theorem exec_bge (o : CbOp) (st_ : State) : exec (.bge o) st_ = execBge o st_ := rfl
@[simp] theorem exec_bltu (o : CbOp) (st_ : State) : exec (.bltu o) st_ = execBltu o st_ := rfl
@[simp] theorem exec_bgeu (o : CbOp) (st_ : State) : exec (.bgeu o) st_ = execBgeu o st_ := rfl
@[simp] theorem exec_jal (d : BitVec 5) (off : BitVec 21) (st_ : State) : exec (.jal d off) st_ = execJal d off st_ := rfl
@[simp] theorem exec_jalr (o : CiOp) (st_ : State) : exec (.jalr o) st_ = execJalr o st_ := rfl
@[simp] theorem exec_lds (o : LdsOp) (st_ : State) : exec (.lds o) st_ = execLds o st_ := rfl
@[simp] theorem exec_sts (o : StsOp) (st_ : State) : exec (.sts o) st_ = execSts o st_ := rfl
@[simp] theorem exec_fence (mask : BitVec 4) (scope : BitVec 3) (st_ : State) : exec (.fence mask scope) st_ = execFence mask scope st_ := rfl
@[simp] theorem exec_cmo (opc : BitVec 2) (lvl : BitVec 2) (a : BitVec 5) (n : BitVec 5) (st_ : State) : exec (.cmo opc lvl a n) st_ = execCmo opc lvl a n st_ := rfl
@[simp] theorem exec_semw (o : SemOp) (st_ : State) : exec (.semw o) st_ = execSemw o st_ := rfl
@[simp] theorem exec_semr (d : BitVec 5) (sm : BitVec 6) (st_ : State) : exec (.semr d sm) st_ = execSemr d sm st_ := rfl
@[simp] theorem exec_sems (o : SemOp) (st_ : State) : exec (.sems o) st_ = execSems o st_ := rfl
@[simp] theorem exec_wfe (st_ : State) : exec (.wfe) st_ = execWfe st_ := rfl
@[simp] theorem exec_sev (st_ : State) : exec (.sev) st_ = execSev st_ := rfl
@[simp] theorem exec_gbar (mask : BitVec 4) (st_ : State) : exec (.gbar mask) st_ = execGbar mask st_ := rfl
@[simp] theorem exec_mark (sr : BitVec 5) (st_ : State) : exec (.mark sr) st_ = execMark sr st_ := rfl
@[simp] theorem exec_done (st_ : State) : exec (.done) st_ = execDone st_ := rfl
@[simp] theorem exec_mloop (b : BitVec 6) (ii : BitVec 7) (sc : BitVec 5) (sr : BitVec 5) (st_ : State) : exec (.mloop b ii sc sr) st_ = execMloop b ii sc sr st_ := rfl
@[simp] theorem exec_mloopLcb (b : BitVec 6) (ii : BitVec 7) (sc : BitVec 5) (st_ : State) : exec (.mloopLcb b ii sc) st_ = execMloopLcb b ii sc st_ := rfl
@[simp] theorem exec_mlcb (idx : BitVec 3) (a : BitVec 5) (st_ : State) : exec (.mlcb idx a) st_ = execMlcb idx a st_ := rfl
@[simp] theorem exec_loop (sr : BitVec 5) (e : BitVec 11) (st_ : State) : exec (.loop sr e) st_ = execLoop sr e st_ := rfl
@[simp] theorem exec_unloop (st_ : State) : exec (.unloop) st_ = execUnloop st_ := rfl
@[simp] theorem exec_rdid (d : BitVec 5) (sel : BitVec 4) (st_ : State) : exec (.rdid d sel) st_ = execRdid d sel st_ := rfl
@[simp] theorem exec_srr (d : BitVec 5) (sys : BitVec 12) (st_ : State) : exec (.srr d sys) st_ = execSrr d sys st_ := rfl
@[simp] theorem exec_srw (sr : BitVec 5) (sys : BitVec 12) (st_ : State) : exec (.srw sr sys) st_ = execSrw sr sys st_ := rfl
@[simp] theorem exec_rdstamp (d : BitVec 5) (st_ : State) : exec (.rdstamp d) st_ = execRdstamp d st_ := rfl
@[simp] theorem exec_mova (tgt : BitVec 7) (sr : BitVec 5) (st_ : State) : exec (.mova tgt sr) st_ = execMova tgt sr st_ := rfl
@[simp] theorem exec_trap (code : BitVec 16) (st_ : State) : exec (.trap code) st_ = execTrap code st_ := rfl
@[simp] theorem exec_eret (st_ : State) : exec (.eret) st_ = execEret st_ := rfl
@[simp] theorem exec_halt (st_ : State) : exec (.halt) st_ = execHalt st_ := rfl
@[simp] theorem exec_ldv (o : LdOp) (st_ : State) : exec (.ldv o) st_ = execLdv o st_ := rfl
@[simp] theorem exec_ldq (o : LdOp) (st_ : State) : exec (.ldq o) st_ = execLdq o st_ := rfl
@[simp] theorem exec_ldt (o : LdNOp) (st_ : State) : exec (.ldt o) st_ = execLdt o st_ := rfl
@[simp] theorem exec_ldg (o : LdOp) (st_ : State) : exec (.ldg o) st_ = execLdg o st_ := rfl
@[simp] theorem exec_ldb (o : LdNOp) (st_ : State) : exec (.ldb o) st_ = execLdb o st_ := rfl
@[simp] theorem exec_ldsc (o : LdOp) (st_ : State) : exec (.ldsc o) st_ = execLdsc o st_ := rfl
@[simp] theorem exec_ldp (o : LdOp) (st_ : State) : exec (.ldp o) st_ = execLdp o st_ := rfl
@[simp] theorem exec_lpf (o : LdPOp) (st_ : State) : exec (.lpf o) st_ = execLpf o st_ := rfl
@[simp] theorem exec_ldx (o : LdOp) (st_ : State) : exec (.ldx o) st_ = execLdx o st_ := rfl
@[simp] theorem exec_ldbc (o : LdOp) (st_ : State) : exec (.ldbc o) st_ = execLdbc o st_ := rfl
@[simp] theorem exec_stv (o : StOp) (st_ : State) : exec (.stv o) st_ = execStv o st_ := rfl
@[simp] theorem exec_stq (o : StOp) (st_ : State) : exec (.stq o) st_ = execStq o st_ := rfl
@[simp] theorem exec_stt (o : StNOp) (st_ : State) : exec (.stt o) st_ = execStt o st_ := rfl
@[simp] theorem exec_sct (o : StOp) (st_ : State) : exec (.sct o) st_ = execSct o st_ := rfl
@[simp] theorem exec_stp (o : StOp) (st_ : State) : exec (.stp o) st_ = execStp o st_ := rfl
@[simp] theorem exec_stc (o : StOp) (st_ : State) : exec (.stc o) st_ = execStc o st_ := rfl
@[simp] theorem exec_stz (o : StZOp) (st_ : State) : exec (.stz o) st_ = execStz o st_ := rfl
@[simp] theorem exec_stm (o : StOp) (st_ : State) : exec (.stm o) st_ = execStm o st_ := rfl
@[simp] theorem exec_copy (o : CeOp) (st_ : State) : exec (.copy o) st_ = execCopy o st_ := rfl
@[simp] theorem exec_copya (o : CeOp) (st_ : State) : exec (.copya o) st_ = execCopya o st_ := rfl
@[simp] theorem exec_fill (o : CeOp) (st_ : State) : exec (.fill o) st_ = execFill o st_ := rfl
@[simp] theorem exec_accw (o : CeOp) (st_ : State) : exec (.accw o) st_ = execAccw o st_ := rfl
@[simp] theorem exec_xadd (o : CeOp) (st_ : State) : exec (.xadd o) st_ = execXadd o st_ := rfl
@[simp] theorem exec_cas (o : CeOp) (st_ : State) : exec (.cas o) st_ = execCas o st_ := rfl
@[simp] theorem exec_mcast (o : CeOp) (st_ : State) : exec (.mcast o) st_ = execMcast o st_ := rfl
@[simp] theorem exec_msend (o : CeOp) (st_ : State) : exec (.msend o) st_ = execMsend o st_ := rfl
@[simp] theorem exec_mrecv (o : CeOp) (st_ : State) : exec (.mrecv o) st_ = execMrecv o st_ := rfl
@[simp] theorem exec_cmoa (o : CeOp) (st_ : State) : exec (.cmoa o) st_ = execCmoa o st_ := rfl
@[simp] theorem exec_pfb (o : CeOp) (st_ : State) : exec (.pfb o) st_ = execPfb o st_ := rfl
@[simp] theorem exec_ceflush (o : CeOp) (st_ : State) : exec (.ceflush o) st_ = execCeflush o st_ := rfl
@[simp] theorem exec_vadd (o : VxOp) (st_ : State) : exec (.vadd o) st_ = execVadd o st_ := rfl
@[simp] theorem exec_vsub (o : VxOp) (st_ : State) : exec (.vsub o) st_ = execVsub o st_ := rfl
@[simp] theorem exec_vmul (o : VxOp) (st_ : State) : exec (.vmul o) st_ = execVmul o st_ := rfl
@[simp] theorem exec_vfma (o : VxOp) (st_ : State) : exec (.vfma o) st_ = execVfma o st_ := rfl
@[simp] theorem exec_vfms (o : VxOp) (st_ : State) : exec (.vfms o) st_ = execVfms o st_ := rfl
@[simp] theorem exec_vmax (o : VxOp) (st_ : State) : exec (.vmax o) st_ = execVmax o st_ := rfl
@[simp] theorem exec_vmin (o : VxOp) (st_ : State) : exec (.vmin o) st_ = execVmin o st_ := rfl
@[simp] theorem exec_vabs (o : VxOp) (st_ : State) : exec (.vabs o) st_ = execVabs o st_ := rfl
@[simp] theorem exec_vneg (o : VxOp) (st_ : State) : exec (.vneg o) st_ = execVneg o st_ := rfl
@[simp] theorem exec_vand (o : VxOp) (st_ : State) : exec (.vand o) st_ = execVand o st_ := rfl
@[simp] theorem exec_vor (o : VxOp) (st_ : State) : exec (.vor o) st_ = execVor o st_ := rfl
@[simp] theorem exec_vxor (o : VxOp) (st_ : State) : exec (.vxor o) st_ = execVxor o st_ := rfl
@[simp] theorem exec_vshl (o : VxOp) (st_ : State) : exec (.vshl o) st_ = execVshl o st_ := rfl
@[simp] theorem exec_vshr (o : VxOp) (st_ : State) : exec (.vshr o) st_ = execVshr o st_ := rfl
@[simp] theorem exec_vsra (o : VxOp) (st_ : State) : exec (.vsra o) st_ = execVsra o st_ := rfl
@[simp] theorem exec_vcmp (o : VxOp) (st_ : State) : exec (.vcmp o) st_ = execVcmp o st_ := rfl
@[simp] theorem exec_vsel (o : VxOp) (st_ : State) : exec (.vsel o) st_ = execVsel o st_ := rfl
@[simp] theorem exec_vcvt (o : VxOp) (st_ : State) : exec (.vcvt o) st_ = execVcvt o st_ := rfl
@[simp] theorem exec_vqblk (o : VxOp) (st_ : State) : exec (.vqblk o) st_ = execVqblk o st_ := rfl
@[simp] theorem exec_vrcp (o : VxOp) (st_ : State) : exec (.vrcp o) st_ = execVrcp o st_ := rfl
@[simp] theorem exec_vrsq (o : VxOp) (st_ : State) : exec (.vrsq o) st_ = execVrsq o st_ := rfl
@[simp] theorem exec_vexp2 (o : VxOp) (st_ : State) : exec (.vexp2 o) st_ = execVexp2 o st_ := rfl
@[simp] theorem exec_vlog2 (o : VxOp) (st_ : State) : exec (.vlog2 o) st_ = execVlog2 o st_ := rfl
@[simp] theorem exec_vtie (o : VxOp) (st_ : State) : exec (.vtie o) st_ = execVtie o st_ := rfl
@[simp] theorem exec_vtld (o : VxOp) (st_ : State) : exec (.vtld o) st_ = execVtld o st_ := rfl
@[simp] theorem exec_vred (o : VxOp) (st_ : State) : exec (.vred o) st_ = execVred o st_ := rfl
@[simp] theorem exec_vbcast (o : VxOp) (st_ : State) : exec (.vbcast o) st_ = execVbcast o st_ := rfl
@[simp] theorem exec_vperm (o : VxOp) (st_ : State) : exec (.vperm o) st_ = execVperm o st_ := rfl
@[simp] theorem exec_vpack (o : VxOp) (st_ : State) : exec (.vpack o) st_ = execVpack o st_ := rfl
@[simp] theorem exec_vunpk (o : VxOp) (st_ : State) : exec (.vunpk o) st_ = execVunpk o st_ := rfl
@[simp] theorem exec_vmov (o : VxOp) (st_ : State) : exec (.vmov o) st_ = execVmov o st_ := rfl
@[simp] theorem exec_vidx (o : VxOp) (st_ : State) : exec (.vidx o) st_ = execVidx o st_ := rfl
@[simp] theorem exec_vwin (o : VxOp) (st_ : State) : exec (.vwin o) st_ = execVwin o st_ := rfl
@[simp] theorem exec_vamax (o : VxOp) (st_ : State) : exec (.vamax o) st_ = execVamax o st_ := rfl
@[simp] theorem exec_vrng (o : VxOp) (st_ : State) : exec (.vrng o) st_ = execVrng o st_ := rfl
@[simp] theorem exec_vclr (o : VxOp) (st_ : State) : exec (.vclr o) st_ = execVclr o st_ := rfl
@[simp] theorem exec_mma (t : MTok) (acc : BitVec 7) (p : BitVec 3) (et : BitVec 3) (ovw : Bool) (st_ : State) : exec (.mma t acc p et ovw) st_ = execMma t acc p et ovw st_ := rfl
@[simp] theorem exec_mmas (t : MTok) (acc : BitVec 7) (p : BitVec 3) (et : BitVec 3) (ovw : Bool) (st_ : State) : exec (.mmas t acc p et ovw) st_ = execMmas t acc p et ovw st_ := rfl
@[simp] theorem exec_mmax (t : MTok) (acc : BitVec 7) (p : BitVec 3) (et : BitVec 3) (ovw : Bool) (st_ : State) : exec (.mmax t acc p et ovw) st_ = execMmax t acc p et ovw st_ := rfl
@[simp] theorem exec_mtile (t : MTok) (acc : BitVec 7) (p : BitVec 3) (et : BitVec 3) (ovw : Bool) (st_ : State) : exec (.mtile t acc p et ovw) st_ = execMtile t acc p et ovw st_ := rfl
@[simp] theorem exec_mbsel (t : MTok) (spn : BitVec 2) (ksel : BitVec 4) (st_ : State) : exec (.mbsel t spn ksel) st_ = execMbsel t spn ksel st_ := rfl
@[simp] theorem exec_maclr (t : MTok) (d : BitVec 7) (n : BitVec 5) (st_ : State) : exec (.maclr t d n) st_ = execMaclr t d n st_ := rfl
@[simp] theorem exec_macmv (t : MTok) (d : BitVec 7) (sr : BitVec 7) (n : BitVec 5) (st_ : State) : exec (.macmv t d sr n) st_ = execMacmv t d sr n st_ := rfl
@[simp] theorem exec_mwake (t : MTok) (m : BitVec 4) (st_ : State) : exec (.mwake t m) st_ = execMwake t m st_ := rfl
@[simp] theorem exec_mmsk (t : MTok) (m : BitVec 2) (b : BitVec 7) (r : BitVec 4) (q : BitVec 4) (st_ : State) : exec (.mmsk t m b r q) st_ = execMmsk t m b r q st_ := rfl
@[simp] theorem exec_mscl (t : MTok) (b : BitVec 1) (a : BitVec 11) (st_ : State) : exec (.mscl t b a) st_ = execMscl t b a st_ := rfl
@[simp] theorem exec_mtrn (t : MTok) (d : BitVec 7) (sr : BitVec 7) (g : BitVec 2) (st_ : State) : exec (.mtrn t d sr g) st_ = execMtrn t d sr g st_ := rfl
@[simp] theorem exec_mspx (t : MTok) (p : BitVec 3) (st_ : State) : exec (.mspx t p) st_ = execMspx t p st_ := rfl
@[simp] theorem exec_sopdef (t : MTok) (op : BitVec 3) (v : BitVec 7) (st_ : State) : exec (.sopdef t op v) st_ = execSopdef t op v st_ := rfl
@[simp] theorem exec_scan (t : MTok) (op : BitVec 3) (ws : BitVec 6) (v : BitVec 7) (st_ : State) : exec (.scan t op ws v) st_ = execScan t op ws v st_ := rfl
@[simp] theorem exec_sup (t : MTok) (op : BitVec 3) (ws : BitVec 6) (v : BitVec 7) (st_ : State) : exec (.sup t op ws v) st_ = execSup t op ws v st_ := rfl
@[simp] theorem exec_sdn (t : MTok) (op : BitVec 3) (ws : BitVec 6) (v : BitVec 7) (st_ : State) : exec (.sdn t op ws v) st_ = execSdn t op ws v st_ := rfl
@[simp] theorem exec_sxsc (t : MTok) (op : BitVec 3) (ws : BitVec 6) (v : BitVec 7) (st_ : State) : exec (.sxsc t op ws v) st_ = execSxsc t op ws v st_ := rfl
@[simp] theorem exec_slbk (t : MTok) (op : BitVec 3) (va : BitVec 7) (vb : BitVec 7) (st_ : State) : exec (.slbk t op va vb) st_ = execSlbk t op va vb st_ := rfl
@[simp] theorem exec_scsnd (t : MTok) (ch : BitVec 8) (tag : BitVec 8) (rb : BitVec 3) (st_ : State) : exec (.scsnd t ch tag rb) st_ = execScsnd t ch tag rb st_ := rfl
@[simp] theorem exec_scrcv (t : MTok) (ch : BitVec 8) (tag : BitVec 8) (rb : BitVec 3) (st_ : State) : exec (.scrcv t ch tag rb) st_ = execScrcv t ch tag rb st_ := rfl
@[simp] theorem exec_pbind (t : MTok) (ps : BitVec 6) (st_ : State) : exec (.pbind t ps) st_ = execPbind t ps st_ := rfl
@[simp] theorem exec_pbindPair (t : MTok) (ps : BitVec 6) (ph : BitVec 6) (st_ : State) : exec (.pbindPair t ps ph) st_ = execPbindPair t ps ph st_ := rfl
@[simp] theorem exec_punb (t : MTok) (ps : BitVec 6) (st_ : State) : exec (.punb t ps) st_ = execPunb t ps st_ := rfl
@[simp] theorem exec_pld (t : MTok) (ps : BitVec 6) (row : BitVec 4) (v : BitVec 7) (st_ : State) : exec (.pld t ps row v) st_ = execPld t ps row v st_ := rfl
@[simp] theorem exec_pst (t : MTok) (ps : BitVec 6) (row : BitVec 4) (v : BitVec 7) (st_ : State) : exec (.pst t ps row v) st_ = execPst t ps row v st_ := rfl
@[simp] theorem exec_step (t : MTok) (ps : BitVec 6) (k : BitVec 4) (op : BitVec 3) (v : BitVec 6) (st_ : State) : exec (.step t ps k op v) st_ = execStep t ps k op v st_ := rfl
@[simp] theorem exec_pspill (t : MTok) (ps : BitVec 6) (sw : BitVec 6) (sr : BitVec 6) (now : Bool) (st_ : State) : exec (.pspill t ps sw sr now) st_ = execPspill t ps sw sr now st_ := rfl
@[simp] theorem exec_pfill (t : MTok) (ps : BitVec 6) (sw : BitVec 6) (sr : BitVec 6) (now : Bool) (st_ : State) : exec (.pfill t ps sw sr now) st_ = execPfill t ps sw sr now st_ := rfl
@[simp] theorem exec_pshd (t : MTok) (ps : BitVec 6) (st_ : State) : exec (.pshd t ps) st_ = execPshd t ps st_ := rfl
@[simp] theorem exec_coll (o : LkOp) (st_ : State) : exec (.coll o) st_ = execColl o st_ := rfl
@[simp] theorem exec_radd (o : LkOp) (st_ : State) : exec (.radd o) st_ = execRadd o st_ := rfl
@[simp] theorem exec_send (o : LkOp) (st_ : State) : exec (.send o) st_ = execSend o st_ := rfl
@[simp] theorem exec_recv (o : LkOp) (st_ : State) : exec (.recv o) st_ = execRecv o st_ := rfl
@[simp] theorem exec_put (o : LkOp) (st_ : State) : exec (.put o) st_ = execPut o st_ := rfl
@[simp] theorem exec_get (o : LkOp) (st_ : State) : exec (.get o) st_ = execGet o st_ := rfl
@[simp] theorem exec_append (o : LkOp) (st_ : State) : exec (.append o) st_ = execAppend o st_ := rfl
@[simp] theorem exec_pred (o : LkOp) (st_ : State) : exec (.pred o) st_ = execPred o st_ := rfl
@[simp] theorem exec_lbar (o : LkOp) (st_ : State) : exec (.lbar o) st_ = execLbar o st_ := rfl
@[simp] theorem exec_grpdef (o : LkOp) (st_ : State) : exec (.grpdef o) st_ = execGrpdef o st_ := rfl
@[simp] theorem exec_lquiet (o : LkOp) (st_ : State) : exec (.lquiet o) st_ = execLquiet o st_ := rfl
@[simp] theorem exec_lfence (o : LkOp) (st_ : State) : exec (.lfence o) st_ = execLfence o st_ := rfl
@[simp] theorem exec_lldl (d : BitVec 4) (st_ : State) : exec (.lldl d) st_ = execLldl d st_ := rfl
@[simp] theorem exec_lbias (d : BitVec 4) (a : BitVec 4) (st_ : State) : exec (.lbias d a) st_ = execLbias d a st_ := rfl
@[simp] theorem exec_lpen (d : BitVec 4) (a : BitVec 4) (k : BitVec 3) (m : BitVec 2) (st_ : State) : exec (.lpen d a k m) st_ = execLpen d a k m st_ := rfl
@[simp] theorem exec_ltemp (d : BitVec 4) (a : BitVec 4) (k : BitVec 3) (st_ : State) : exec (.ltemp d a k) st_ = execLtemp d a k st_ := rfl
@[simp] theorem exec_lmask (d : BitVec 4) (a : BitVec 4) (st_ : State) : exec (.lmask d a) st_ = execLmask d a st_ := rfl
@[simp] theorem exec_lmax (a : BitVec 4) (k : BitVec 3) (st_ : State) : exec (.lmax a k) st_ = execLmax a k st_ := rfl
@[simp] theorem exec_lsubx (d : BitVec 4) (a : BitVec 4) (k : BitVec 3) (st_ : State) : exec (.lsubx d a k) st_ = execLsubx d a k st_ := rfl
@[simp] theorem exec_lsum (a : BitVec 4) (k : BitVec 3) (e : BitVec 1) (st_ : State) : exec (.lsum a k e) st_ = execLsum a k e st_ := rfl
@[simp] theorem exec_llogp (d : BitVec 4) (a : BitVec 4) (st_ : State) : exec (.llogp d a) st_ = execLlogp d a st_ := rfl
@[simp] theorem exec_ltopk (d : BitVec 4) (a : BitVec 4) (k : BitVec 3) (st_ : State) : exec (.ltopk d a k) st_ = execLtopk d a k st_ := rfl
@[simp] theorem exec_ltopp (d : BitVec 4) (a : BitVec 4) (k : BitVec 3) (st_ : State) : exec (.ltopp d a k) st_ = execLtopp d a k st_ := rfl
@[simp] theorem exec_lminp (d : BitVec 4) (a : BitVec 4) (k : BitVec 3) (st_ : State) : exec (.lminp d a k) st_ = execLminp d a k st_ := rfl
@[simp] theorem exec_lgumb (d : BitVec 4) (a : BitVec 4) (st_ : State) : exec (.lgumb d a) st_ = execLgumb d a st_ := rfl
@[simp] theorem exec_larg (a : BitVec 4) (k : BitVec 3) (st_ : State) : exec (.larg a k) st_ = execLarg a k st_ := rfl
@[simp] theorem exec_lcmp (d : BitVec 4) (a : BitVec 4) (b : BitVec 4) (c : BitVec 3) (st_ : State) : exec (.lcmp d a b c) st_ = execLcmp d a b c st_ := rfl
@[simp] theorem exec_lcmpK (d : BitVec 4) (a : BitVec 4) (k : BitVec 3) (c : BitVec 3) (st_ : State) : exec (.lcmpK d a k c) st_ = execLcmpK d a k c st_ := rfl
@[simp] theorem exec_lsel (d : BitVec 4) (a : BitVec 4) (b : BitVec 4) (c : BitVec 4) (st_ : State) : exec (.lsel d a b c) st_ = execLsel d a b c st_ := rfl
@[simp] theorem exec_lmov (d : BitVec 4) (a : BitVec 4) (st_ : State) : exec (.lmov d a) st_ = execLmov d a st_ := rfl
@[simp] theorem exec_lmovK (d : BitVec 4) (k : BitVec 3) (st_ : State) : exec (.lmovK d k) st_ = execLmovK d k st_ := rfl
@[simp] theorem exec_lldk (k : BitVec 3) (sr : BitVec 4) (st_ : State) : exec (.lldk k sr) st_ = execLldk k sr st_ := rfl
@[simp] theorem exec_lldkLit (k : BitVec 3) (sr : BitVec 4) (lit : BitVec 32) (st_ : State) : exec (.lldkLit k sr lit) st_ = execLldkLit k sr lit st_ := rfl
@[simp] theorem exec_lcnt (d : BitVec 4) (st_ : State) : exec (.lcnt d) st_ = execLcnt d st_ := rfl
@[simp] theorem exec_lskip (k : BitVec 3) (m : BitVec 6) (iv : BitVec 1) (c : BitVec 3) (st_ : State) : exec (.lskip k m iv c) st_ = execLskip k m iv c st_ := rfl
@[simp] theorem exec_lemit (a : BitVec 4) (b : BitVec 4) (st_ : State) : exec (.lemit a b) st_ = execLemit a b st_ := rfl
@[simp] theorem exec_lgrp (k : BitVec 3) (sr : BitVec 3) (st_ : State) : exec (.lgrp k sr) st_ = execLgrp k sr st_ := rfl
@[simp] theorem exec_lgrpAddcum (d : BitVec 4) (a : BitVec 4) (st_ : State) : exec (.lgrpAddcum d a) st_ = execLgrpAddcum d a st_ := rfl
@[simp] theorem exec_lend (st_ : State) : exec (.lend) st_ = execLend st_ := rfl
@[simp] theorem exec_ladd (d : BitVec 4) (a : BitVec 4) (b : BitVec 4) (st_ : State) : exec (.ladd d a b) st_ = execLadd d a b st_ := rfl
@[simp] theorem exec_laddK (d : BitVec 4) (a : BitVec 4) (k : BitVec 3) (st_ : State) : exec (.laddK d a k) st_ = execLaddK d a k st_ := rfl
@[simp] theorem exec_unassignedOpcode (col : Col) (word : BitVec 32) (ext : Option (BitVec 32)) (st_ : State) : exec (.unassignedOpcode col word ext) st_ = execUnassignedOpcode col word ext st_ := rfl
@[simp] theorem exec_packageReset (st_ : State) : exec (.packageReset) st_ = execPackageReset st_ := rfl
@[simp] theorem exec_securityCoreError (st_ : State) : exec (.securityCoreError) st_ = execSecurityCoreError st_ := rfl
@[simp] theorem exec_thermalTrip (st_ : State) : exec (.thermalTrip) st_ = execThermalTrip st_ := rfl
@[simp] theorem exec_thermalRelease (st_ : State) : exec (.thermalRelease) st_ = execThermalRelease st_ := rfl
@[simp] theorem exec_weirWindow (st_ : State) : exec (.weirWindow) st_ = execWeirWindow st_ := rfl
@[simp] theorem exec_throttleHoldEnd (st_ : State) : exec (.throttleHoldEnd) st_ = execThrottleHoldEnd st_ := rfl
@[simp] theorem exec_weirSlopeWrite (st_ : State) : exec (.weirSlopeWrite) st_ = execWeirSlopeWrite st_ := rfl
@[simp] theorem exec_timeFreqWrite (st_ : State) : exec (.timeFreqWrite) st_ = execTimeFreqWrite st_ := rfl
@[simp] theorem exec_timeFreqApply (st_ : State) : exec (.timeFreqApply) st_ = execTimeFreqApply st_ := rfl
@[simp] theorem exec_timeStartWrite (st_ : State) : exec (.timeStartWrite) st_ = execTimeStartWrite st_ := rfl
@[simp] theorem exec_epochStart (st_ : State) : exec (.epochStart) st_ = execEpochStart st_ := rfl
@[simp] theorem exec_ppsEdge (st_ : State) : exec (.ppsEdge) st_ = execPpsEdge st_ := rfl
@[simp] theorem exec_eventMessage (st_ : State) : exec (.eventMessage) st_ = execEventMessage st_ := rfl
@[simp] theorem exec_telemetrySample (st_ : State) : exec (.telemetrySample) st_ = execTelemetrySample st_ := rfl
@[simp] theorem exec_teleWrite (st_ : State) : exec (.teleWrite) st_ = execTeleWrite st_ := rfl
@[simp] theorem exec_subarrayGate (st_ : State) : exec (.subarrayGate) st_ = execSubarrayGate st_ := rfl
@[simp] theorem exec_flitReplay (st_ : State) : exec (.flitReplay) st_ = execFlitReplay st_ := rfl
@[simp] theorem exec_portDown (st_ : State) : exec (.portDown) st_ = execPortDown st_ := rfl
@[simp] theorem exec_linkProtocolError (st_ : State) : exec (.linkProtocolError) st_ = execLinkProtocolError st_ := rfl
@[simp] theorem exec_portEnable (st_ : State) : exec (.portEnable) st_ = execPortEnable st_ := rfl
@[simp] theorem exec_portDisable (st_ : State) : exec (.portDisable) st_ = execPortDisable st_ := rfl
@[simp] theorem exec_routeWrite (st_ : State) : exec (.routeWrite) st_ = execRouteWrite st_ := rfl
@[simp] theorem exec_ctmoWrite (st_ : State) : exec (.ctmoWrite) st_ = execCtmoWrite st_ := rfl
@[simp] theorem exec_contributionArrival (st_ : State) : exec (.contributionArrival) st_ = execContributionArrival st_ := rfl
@[simp] theorem exec_contributionRetry (st_ : State) : exec (.contributionRetry) st_ = execContributionRetry st_ := rfl
@[simp] theorem exec_collectiveCommit (st_ : State) : exec (.collectiveCommit) st_ = execCollectiveCommit st_ := rfl
@[simp] theorem exec_collectiveTimeout (st_ : State) : exec (.collectiveTimeout) st_ = execCollectiveTimeout st_ := rfl
@[simp] theorem exec_towpathArrival (st_ : State) : exec (.towpathArrival) st_ = execTowpathArrival st_ := rfl
@[simp] theorem exec_cxlPortDown (st_ : State) : exec (.cxlPortDown) st_ = execCxlPortDown st_ := rfl
@[simp] theorem exec_sliceAccess (st_ : State) : exec (.sliceAccess) st_ = execSliceAccess st_ := rfl
@[simp] theorem exec_lineFill (st_ : State) : exec (.lineFill) st_ = execLineFill st_ := rfl
@[simp] theorem exec_writeBack (st_ : State) : exec (.writeBack) st_ = execWriteBack st_ := rfl
@[simp] theorem exec_dramScrub (st_ : State) : exec (.dramScrub) st_ = execDramScrub st_ := rfl
@[simp] theorem exec_basinMapWrite (st_ : State) : exec (.basinMapWrite) st_ = execBasinMapWrite st_ := rfl
@[simp] theorem exec_basinMapApply (st_ : State) : exec (.basinMapApply) st_ = execBasinMapApply st_ := rfl
@[simp] theorem exec_movedone (st_ : State) : exec (.movedone) st_ = execMovedone st_ := rfl
@[simp] theorem exec_carveCreate (st_ : State) : exec (.carveCreate) st_ = execCarveCreate st_ := rfl
@[simp] theorem exec_carveReady (st_ : State) : exec (.carveReady) st_ = execCarveReady st_ := rfl
@[simp] theorem exec_carveRelease (st_ : State) : exec (.carveRelease) st_ = execCarveRelease st_ := rfl
@[simp] theorem exec_shootdownGo (st_ : State) : exec (.shootdownGo) st_ = execShootdownGo st_ := rfl
@[simp] theorem exec_shootdownTileClean (st_ : State) : exec (.shootdownTileClean) st_ = execShootdownTileClean st_ := rfl
@[simp] theorem exec_shootdownBasinClean (st_ : State) : exec (.shootdownBasinClean) st_ = execShootdownBasinClean st_ := rfl
@[simp] theorem exec_shootdownRelease (st_ : State) : exec (.shootdownRelease) st_ = execShootdownRelease st_ := rfl
@[simp] theorem exec_migrationCopy (st_ : State) : exec (.migrationCopy) st_ = execMigrationCopy st_ := rfl
@[simp] theorem exec_pagerReply (st_ : State) : exec (.pagerReply) st_ = execPagerReply st_ := rfl
@[simp] theorem exec_hostRead (st_ : State) : exec (.hostRead) st_ = execHostRead st_ := rfl
@[simp] theorem exec_hostWrite (st_ : State) : exec (.hostWrite) st_ = execHostWrite st_ := rfl
@[simp] theorem exec_flr (st_ : State) : exec (.flr) st_ = execFlr st_ := rfl
@[simp] theorem exec_qbaseWrite (st_ : State) : exec (.qbaseWrite) st_ = execQbaseWrite st_ := rfl
@[simp] theorem exec_qctlWrite (st_ : State) : exec (.qctlWrite) st_ = execQctlWrite st_ := rfl
@[simp] theorem exec_qctlFlush (st_ : State) : exec (.qctlFlush) st_ = execQctlFlush st_ := rfl
@[simp] theorem exec_qtailWrite (st_ : State) : exec (.qtailWrite) st_ = execQtailWrite st_ := rfl
@[simp] theorem exec_ringConfigWrite (st_ : State) : exec (.ringConfigWrite) st_ = execRingConfigWrite st_ := rfl
@[simp] theorem exec_partCtlRst (st_ : State) : exec (.partCtlRst) st_ = execPartCtlRst st_ := rfl
@[simp] theorem exec_partRstTrig (st_ : State) : exec (.partRstTrig) st_ = execPartRstTrig st_ := rfl
@[simp] theorem exec_partitionAbortDone (st_ : State) : exec (.partitionAbortDone) st_ = execPartitionAbortDone st_ := rfl
@[simp] theorem exec_partRstGo (st_ : State) : exec (.partRstGo) st_ = execPartRstGo st_ := rfl
@[simp] theorem exec_partitionQuiesceDone (st_ : State) : exec (.partitionQuiesceDone) st_ = execPartitionQuiesceDone st_ := rfl
@[simp] theorem exec_partitionClearDone (st_ : State) : exec (.partitionClearDone) st_ = execPartitionClearDone st_ := rfl
@[simp] theorem exec_partHerrClear (st_ : State) : exec (.partHerrClear) st_ = execPartHerrClear st_ := rfl
@[simp] theorem exec_partFrconsWrite (st_ : State) : exec (.partFrconsWrite) st_ = execPartFrconsWrite st_ := rfl
@[simp] theorem exec_partFrctlClr (st_ : State) : exec (.partFrctlClr) st_ = execPartFrctlClr st_ := rfl
@[simp] theorem exec_partSaveWrite (st_ : State) : exec (.partSaveWrite) st_ = execPartSaveWrite st_ := rfl
@[simp] theorem exec_partHwinWrite (st_ : State) : exec (.partHwinWrite) st_ = execPartHwinWrite st_ := rfl
@[simp] theorem exec_assign (st_ : State) : exec (.assign) st_ = execAssign st_ := rfl
@[simp] theorem exec_release (st_ : State) : exec (.release) st_ = execRelease st_ := rfl
@[simp] theorem exec_clearDone (st_ : State) : exec (.clearDone) st_ = execClearDone st_ := rfl
@[simp] theorem exec_setwt (st_ : State) : exec (.setwt) st_ = execSetwt st_ := rfl
@[simp] theorem exec_enable (st_ : State) : exec (.enable) st_ = execEnable st_ := rfl
@[simp] theorem exec_disable (st_ : State) : exec (.disable) st_ = execDisable st_ := rfl
@[simp] theorem exec_attest (st_ : State) : exec (.attest) st_ = execAttest st_ := rfl
@[simp] theorem exec_watchdogExpiry (st_ : State) : exec (.watchdogExpiry) st_ = execWatchdogExpiry st_ := rfl
@[simp] theorem exec_bargeHeadRead (st_ : State) : exec (.bargeHeadRead) st_ = execBargeHeadRead st_ := rfl
@[simp] theorem exec_bargeSelect (st_ : State) : exec (.bargeSelect) st_ = execBargeSelect st_ := rfl
@[simp] theorem exec_channelTableRead (st_ : State) : exec (.channelTableRead) st_ = execChannelTableRead st_ := rfl
@[simp] theorem exec_gangStart (st_ : State) : exec (.gangStart) st_ = execGangStart st_ := rfl
@[simp] theorem exec_joinDecrement (st_ : State) : exec (.joinDecrement) st_ = execJoinDecrement st_ := rfl
@[simp] theorem exec_sliceCtlWrite (st_ : State) : exec (.sliceCtlWrite) st_ = execSliceCtlWrite st_ := rfl
@[simp] theorem exec_sliceSwitch (st_ : State) : exec (.sliceSwitch) st_ = execSliceSwitch st_ := rfl
@[simp] theorem exec_contextSaveDone (st_ : State) : exec (.contextSaveDone) st_ = execContextSaveDone st_ := rfl
@[simp] theorem exec_sliceResume (st_ : State) : exec (.sliceResume) st_ = execSliceResume st_ := rfl
@[simp] theorem exec_gangRestore (st_ : State) : exec (.gangRestore) st_ = execGangRestore st_ := rfl
@[simp] theorem exec_restoreDone (st_ : State) : exec (.restoreDone) st_ = execRestoreDone st_ := rfl
@[simp] theorem exec_gwConfigWrite (st_ : State) : exec (.gwConfigWrite) st_ = execGwConfigWrite st_ := rfl
@[simp] theorem exec_gwStart (st_ : State) : exec (.gwStart) st_ = execGwStart st_ := rfl
@[simp] theorem exec_gwStop (st_ : State) : exec (.gwStop) st_ = execGwStop st_ := rfl
@[simp] theorem exec_bargeNode (st_ : State) : exec (.bargeNode) st_ = execBargeNode st_ := rfl
@[simp] theorem exec_engineNode (st_ : State) : exec (.engineNode) st_ = execEngineNode st_ := rfl
@[simp] theorem exec_waitNode (st_ : State) : exec (.waitNode) st_ = execWaitNode st_ := rfl
@[simp] theorem exec_raiseNode (st_ : State) : exec (.raiseNode) st_ = execRaiseNode st_ := rfl
@[simp] theorem exec_condNode (st_ : State) : exec (.condNode) st_ = execCondNode st_ := rfl
@[simp] theorem exec_loopNode (st_ : State) : exec (.loopNode) st_ = execLoopNode st_ := rfl
@[simp] theorem exec_switchNode (st_ : State) : exec (.switchNode) st_ = execSwitchNode st_ := rfl
@[simp] theorem exec_rearmNode (st_ : State) : exec (.rearmNode) st_ = execRearmNode st_ := rfl
@[simp] theorem exec_endNode (st_ : State) : exec (.endNode) st_ = execEndNode st_ := rfl
@[simp] theorem exec_fetchLine (st_ : State) : exec (.fetchLine) st_ = execFetchLine st_ := rfl
@[simp] theorem exec_trapEntry (st_ : State) : exec (.trapEntry) st_ = execTrapEntry st_ := rfl
@[simp] theorem exec_stallWireFreeze (st_ : State) : exec (.stallWireFreeze) st_ = execStallWireFreeze st_ := rfl
@[simp] theorem exec_stallWireResume (st_ : State) : exec (.stallWireResume) st_ = execStallWireResume st_ := rfl
@[simp] theorem exec_scheduleMissRecovery (st_ : State) : exec (.scheduleMissRecovery) st_ = execScheduleMissRecovery st_ := rfl
@[simp] theorem exec_schedmiss (st_ : State) : exec (.schedmiss) st_ = execSchedmiss st_ := rfl
@[simp] theorem exec_sequencerAdvance (st_ : State) : exec (.sequencerAdvance) st_ = execSequencerAdvance st_ := rfl
@[simp] theorem exec_barrierComplete (st_ : State) : exec (.barrierComplete) st_ = execBarrierComplete st_ := rfl
@[simp] theorem exec_flightLevel (st_ : State) : exec (.flightLevel) st_ = execFlightLevel st_ := rfl
@[simp] theorem exec_messageArrival (st_ : State) : exec (.messageArrival) st_ = execMessageArrival st_ := rfl
@[simp] theorem exec_multicastLineArrival (st_ : State) : exec (.multicastLineArrival) st_ = execMulticastLineArrival st_ := rfl
@[simp] theorem exec_sendMatch (st_ : State) : exec (.sendMatch) st_ = execSendMatch st_ := rfl
@[simp] theorem exec_sluiceSequence (st_ : State) : exec (.sluiceSequence) st_ = execSluiceSequence st_ := rfl
@[simp] theorem exec_acceptSequence (st_ : State) : exec (.acceptSequence) st_ = execAcceptSequence st_ := rfl
@[simp] theorem exec_commitUnit (st_ : State) : exec (.commitUnit) st_ = execCommitUnit st_ := rfl
@[simp] theorem exec_jobEnd (st_ : State) : exec (.jobEnd) st_ = execJobEnd st_ := rfl
@[simp] theorem exec_coalesceTimer (st_ : State) : exec (.coalesceTimer) st_ = execCoalesceTimer st_ := rfl
@[simp] theorem exec_beat (st_ : State) : exec (.beat) st_ = execBeat st_ := rfl
@[simp] theorem exec_judgement (st_ : State) : exec (.judgement) st_ = execJudgement st_ := rfl
@[simp] theorem exec_evaluation (st_ : State) : exec (.evaluation) st_ = execEvaluation st_ := rfl
@[simp] theorem exec_appealStart (st_ : State) : exec (.appealStart) st_ = execAppealStart st_ := rfl
@[simp] theorem exec_selfTestEnd (st_ : State) : exec (.selfTestEnd) st_ = execSelfTestEnd st_ := rfl
@[simp] theorem exec_selfTestTimeout (st_ : State) : exec (.selfTestTimeout) st_ = execSelfTestTimeout st_ := rfl
@[simp] theorem exec_watchCmdFence (st_ : State) : exec (.watchCmdFence) st_ = execWatchCmdFence st_ := rfl
@[simp] theorem exec_watchCtlEn (st_ : State) : exec (.watchCtlEn) st_ = execWatchCtlEn st_ := rfl
@[simp] theorem exec_registerWrite (st_ : State) : exec (.registerWrite) st_ = execRegisterWrite st_ := rfl
@[simp] theorem exec_bridgeFailure (st_ : State) : exec (.bridgeFailure) st_ = execBridgeFailure st_ := rfl
@[simp] theorem exec_laneLoss (st_ : State) : exec (.laneLoss) st_ = execLaneLoss st_ := rfl
@[simp] theorem exec_switchAbandon (st_ : State) : exec (.switchAbandon) st_ = execSwitchAbandon st_ := rfl
@[simp] theorem exec_putArrival (st_ : State) : exec (.putArrival) st_ = execPutArrival st_ := rfl
@[simp] theorem exec_protocolViolation (st_ : State) : exec (.protocolViolation) st_ = execProtocolViolation st_ := rfl
@[simp] theorem exec_commandEnd (st_ : State) : exec (.commandEnd) st_ = execCommandEnd st_ := rfl

end Sys2Proof.Machine
end

