-- ==== Sys2Proof/Laws/Mem.lean ====
section
/-! SUPPORT. What the operations on virtual memory can change: physical memory and the memory of other packages, each kept in its canonical
form, the dies, what is told to Wharf and Redric and to a port, and the data caches of the tiles; nothing else. -/
namespace Sys2Proof.Machine

open Sys2Proof

theorem all_put (p : α → Bool) (m : SMap α) (k : Nat) (v : α) (h : m.all (fun e => p e.2) = true) (hv : p v = true) :
    (put m k v).all (fun e => p e.2) = true := by
  induction m with
  | nil => simp [put, hv]
  | cons e r ih =>
    obtain ⟨i, u⟩ := e
    simp only [List.all_cons, Bool.and_eq_true] at h
    unfold put
    split
    · simp [hv]; simpa using h.2
    · split
      · simp only [List.all_cons, Bool.and_eq_true]; exact ⟨hv, h⟩
      · simp only [List.all_cons, Bool.and_eq_true]; exact ⟨h.1, ih h.2⟩

theorem of_get (p : α → Bool) (d : α) (m : SMap α) (k : Nat) (h : m.all (fun e => p e.2) = true) (hd : p d = true) : p (get d m k) = true := by
  induction m with
  | nil => exact hd
  | cons e r ih =>
    obtain ⟨i, u⟩ := e
    simp only [List.all_cons, Bool.and_eq_true] at h
    unfold get
    split
    · exact h.1
    · exact ih h.2

/-- Every listed tile keeps its scratchpad in canonical form. -/
def spadsOk (m : SMap Tile) : Bool := m.all (fun t => t.2.st.spad.wf)

theorem spadsOk_put {m : SMap Tile} {k : Nat} {t : Tile} (h : spadsOk m = true) (ht : t.st.spad.wf = true) : spadsOk (put m k t) = true :=
  all_put (fun t : Tile => t.st.spad.wf) m k t h ht
theorem spad_of_get {m : SMap Tile} (h : spadsOk m = true) (k : Nat) : (get Tile.reset m k).st.spad.wf = true :=
  of_get (fun t : Tile => t.st.spad.wf) _ m k h rfl

theorem MemOnly.refl (s : State) : MemOnly s s := ⟨rfl, id, id, fun _ => rfl, id⟩

theorem MemOnly.trans {s t u : State} (a : MemOnly s t) (b : MemOnly t u) : MemOnly s u := by
  refine ⟨?_, b.mem ∘ a.mem, b.far ∘ a.far, fun n => ?_, b.spads ∘ a.spads⟩
  · have h : { u with tiles := s.tiles, dies := s.dies, mem := s.mem, far := s.far, notices := s.notices, laneErrors := s.laneErrors, free := s.free } =
        { { u with tiles := t.tiles, dies := t.dies, mem := t.mem, far := t.far, notices := t.notices, laneErrors := t.laneErrors, free := t.free } with
          tiles := s.tiles, dies := s.dies, mem := s.mem, far := s.far, notices := s.notices, laneErrors := s.laneErrors, free := s.free } := rfl
    rw [h, b.rest, a.rest]
  · have h : { u.tile n with cache := (s.tile n).cache } = { { u.tile n with cache := (t.tile n).cache } with cache := (s.tile n).cache } := rfl
    rw [h, b.tiles, a.tiles]

theorem MemOnly.cur {s t : State} (h : MemOnly s t) : t.cur = s.cur := by
  have := h.rest
  rw [← this]

theorem MemOnly.foldl {β : Type} (f : State → β → State) (hf : ∀ s x, MemOnly s (f s x)) (l : List β) : ∀ s, MemOnly s (l.foldl f s) := by
  induction l with
  | nil => exact fun s => .refl s
  | cons x r ih => exact fun s => (hf s x).trans (ih _)

theorem memOnly_setDie (s : State) (d : Nat) (x : Die) : MemOnly s (s.setDie d x) := ⟨rfl, id, id, fun _ => rfl, id⟩
theorem memOnly_modDie (s : State) (d : Nat) (f : Die → Die) : MemOnly s (s.modDie d f) := memOnly_setDie ..
theorem memOnly_notices (s : State) (l : List (List Nat)) : MemOnly s { s with notices := l } := ⟨rfl, id, id, fun _ => rfl, id⟩
theorem memOnly_laneErrors (s : State) (l : List (Nat × Nat)) : MemOnly s { s with laneErrors := l } := ⟨rfl, id, id, fun _ => rfl, id⟩
theorem memOnly_free (s : State) (k : Nat) : MemOnly s { s with free := k } := ⟨rfl, id, id, fun _ => rfl, id⟩
theorem memOnly_mem (s : State) (m : Memory) (h : s.mem.wf = true → m.wf = true) : MemOnly s { s with mem := m } := ⟨rfl, h, id, fun _ => rfl, id⟩
theorem memOnly_far (s : State) (m : Memory) (h : s.far.wf = true → m.wf = true) : MemOnly s { s with far := m } := ⟨rfl, id, h, fun _ => rfl, id⟩

theorem memOnly_cache (s : State) (n : Nat) (f : Tile → Tile) (hf : ∀ x : Tile, { f x with cache := x.cache } = x) : MemOnly s (s.modTile n f) := by
  refine ⟨rfl, id, id, fun k => ?_, fun h => spadsOk_put h ?_⟩
  · rw [State.tile_modTile]
    split
    · subst k; exact hf _
    · rfl
  · have := hf (s.tile n)
    have e : (f (s.tile n)).st = (s.tile n).st := by conv => rhs; rw [← this]
    rw [e]; exact spad_of_get h n

theorem memOnly_choose {α : Type} (s : State) (l : List α) : MemOnly s (s.choose l).1 := by
  unfold State.choose
  split
  · exact .refl s
  · exact memOnly_free ..

/-! ### Translation and checks -/

theorem memOnly_markLeaf (s : State) (d : Nat) (t : Tlb) (b : Nat) : MemOnly s (s.markLeaf d t b).1 := by
  unfold State.markLeaf
  split
  · exact memOnly_mem _ _ (fun h => Memory.wf_store _ _ _ h)
  · exact .refl s

theorem memOnly_tlbRoom (s : State) (d : Nat) (t : Tlb) : MemOnly s (s.tlbRoom d t) := by
  unfold State.tlbRoom
  simp only
  split
  · exact .refl s
  · have h := memOnly_choose s ((s.die d).tlb.filter (fun x => x.slice == t.slice && x.set == t.set))
    split <;> (rename_i e; rw [e] at h)
    · exact h.trans (memOnly_modDie ..)
    · exact h

theorem memOnly_translate (s : State) (d part off : Nat) : MemOnly s (s.translate d part off).1 := by
  unfold State.translate
  split
  · exact .refl s
  · split
    · exact .refl s
    · rename_i t _
      have h := memOnly_markLeaf s d t 0x40
      revert h
      generalize s.markLeaf d t 0x40 = q
      obtain ⟨a, b⟩ := q
      intro h
      dsimp only at h ⊢
      exact (h.trans (memOnly_tlbRoom ..)).trans (memOnly_modDie ..)

theorem memOnly_ite {β : Type} {c : Prop} [Decidable c] {s : State} {x y : State × β} (hx : MemOnly s x.1) (hy : MemOnly s y.1) :
    MemOnly s (if c then x else y).1 := by
  split
  · exact hx
  · exact hy

theorem memOnly_markWrite (s : State) (part va : Nat) : MemOnly s (s.markWrite part va) := by
  unfold State.markWrite
  split
  · exact .refl s
  · rename_i d _
    split
    · exact .refl s
    · rename_i t _
      split
      · exact .refl s
      · have h := memOnly_markLeaf s d t 0x80
        revert h
        generalize s.markLeaf d t 0x80 = q
        obtain ⟨a, b⟩ := q
        intro h
        dsimp only at h ⊢
        exact h.trans (memOnly_modDie ..)

theorem memOnly_fail (s : State) (f : Flt) (part d : Nat) :
    MemOnly s (if f.sub = 6 then { s with notices := s.notices ++ [[2, part, d]] } else s) := by
  split
  · exact memOnly_notices ..
  · exact .refl s

theorem memOnly_checkLocal (s : State) (d part va n : Nat) (acc : Acc) (whole : Nat → Bool) : MemOnly s (s.checkLocal d part va n acc whole).1 := by
  unfold State.checkLocal
  have h1 := memOnly_translate s d part (vaOff va)
  split
  · rename_i s1 f e; rw [e] at h1; exact h1.trans (memOnly_fail ..)
  · rename_i s1 t e; rw [e] at h1
    split
    · exact h1
    · have h2 := (memOnly_modDie s1 d (fun x => { x with tlb := x.tlb.filter (· != t) })).trans (memOnly_translate _ d part (vaOff va))
      split
      · rename_i s2 f e2; rw [e2] at h2; exact (h1.trans h2).trans (memOnly_fail ..)
      · rename_i s2 u e2; rw [e2] at h2
        split <;> exact h1.trans h2

theorem memOnly_checkFar (s : State) (va : Nat) : MemOnly s (s.checkFar va).1 := by
  unfold State.checkFar
  split
  · exact .refl s
  · split
    · exact .refl s
    · exact memOnly_laneErrors ..

theorem memOnly_check (s : State) (part va n : Nat) (acc : Acc) (whole : Nat → Bool) : MemOnly s (s.check part va n acc whole).1 := by
  unfold State.check
  split
  · exact .refl s
  · split
    · exact memOnly_checkFar ..
    · split
      · exact .refl s
      · exact memOnly_checkLocal ..

theorem memOnly_nameFailed (s : State) (w a b : Nat) : MemOnly s (s.nameFailed w a b) := by
  unfold State.nameFailed
  split
  · exact memOnly_notices ..
  · exact .refl s

theorem memOnly_nameWay (s : State) (w a va : Nat) : MemOnly s (s.nameWay w a va) := by
  unfold State.nameWay
  split
  · exact memOnly_nameFailed ..
  · exact memOnly_nameFailed ..
  · exact .refl s

/-! ### The coherence point -/

theorem memOnly_fill (s : State) (d key k : Nat) : MemOnly s (s.fill d key k) := by
  unfold State.fill
  split
  · exact .refl s
  · split
    · exact .refl s
    · exact memOnly_modDie ..

theorem memOnly_cleanLine (s : State) (d key : Nat) : MemOnly s (s.cleanLine d key) := by
  unfold State.cleanLine
  split
  · exact .refl s
  · split
    · exact .refl s
    · exact (memOnly_mem _ _ (fun h => Memory.wf_storeMasked _ _ _ h)).trans (memOnly_modDie ..)

theorem memOnly_enterLost (s : State) (d key : Nat) : MemOnly s (s.enterLost d key) := by
  unfold State.enterLost
  simp only
  split
  · exact .refl s
  · split
    · exact memOnly_notices ..
    · exact memOnly_modDie ..

theorem memOnly_loseLine (s : State) (d key : Nat) : MemOnly s (s.loseLine d key) := (memOnly_modDie ..).trans (memOnly_enterLost ..)

theorem memOnly_dropLine (s : State) (d key : Nat) : MemOnly s (s.dropLine d key) := by
  unfold State.dropLine
  split
  · exact .refl s
  · split
    · exact memOnly_loseLine ..
    · exact (memOnly_cleanLine ..).trans (memOnly_modDie ..)

theorem memOnly_lineRoom (s : State) (d sl : Nat) : MemOnly s (s.lineRoom d sl) := by
  unfold State.lineRoom
  simp only
  split
  · exact .refl s
  · split
    · exact .refl s
    · have h := memOnly_choose s ((s.die d).linesIn sl)
      split <;> (rename_i e; rw [e] at h)
      · exact h.trans (memOnly_dropLine ..)
      · exact h

theorem memOnly_withLine (s : State) (d key pa : Nat) : MemOnly s (s.withLine d key pa) := by
  unfold State.withLine
  split
  · split
    · exact .refl s
    · exact memOnly_modDie ..
  · exact (memOnly_lineRoom ..).trans (memOnly_modDie ..)

theorem memOnly_readByte (s : State) (part va pa attr : Nat) : MemOnly s (s.readByte part va pa attr).1 := by
  unfold State.readByte
  split
  · exact .refl s
  · rename_i d _
    simp only
    split
    · exact .refl s
    · have h1 := memOnly_withLine s d (lineKey part va) pa
      split
      · exact h1
      · rename_i l _
        have h2 : MemOnly s (if (l.dirty.getLsbD (va % 128) || l.valid.getLsbD (va % 128 / 32)) = true then s.withLine d (lineKey part va) pa
            else (s.withLine d (lineKey part va) pa).fill d (lineKey part va) (va % 128 / 32)) := by
          split
          · exact h1
          · exact h1.trans (memOnly_fill ..)
        split <;> exact h2

theorem memOnly_readAt (part attr n : Nat) : ∀ (s : State) (va pa : Nat), MemOnly s (s.readAt part va pa attr n).1 := by
  induction n with
  | zero => exact fun s _ _ => .refl s
  | succ k ih => exact fun s va pa => (memOnly_readByte s part va pa attr).trans (ih _ _ _)

theorem memOnly_writeByte (s : State) (part va pa attr : Nat) (b : Byte) : MemOnly s (s.writeByte part va pa attr b) := by
  unfold State.writeByte
  split
  · exact memOnly_far _ _ (fun h => Memory.wf_write _ _ _ h)
  · rename_i d _
    simp only
    split
    · exact memOnly_mem _ _ (fun h => Memory.wf_write _ _ _ h)
    · split
      · exact memOnly_withLine ..
      · exact (memOnly_withLine ..).trans (memOnly_modDie ..)

theorem memOnly_writeAt (part attr : Nat) (bs : List (Option Byte)) : ∀ (s : State) (va pa : Nat), MemOnly s (s.writeAt part va pa attr bs) := by
  induction bs with
  | nil => exact fun s _ _ => .refl s
  | cons b r ih =>
    intro s va pa
    cases b with
    | none => exact ih ..
    | some b => exact (memOnly_writeByte ..).trans (ih ..)

theorem memOnly_mend (s : State) (va pa : Nat) (bs : List (Option Byte)) : MemOnly s (s.mend va pa bs) := by
  unfold State.mend
  split
  · exact .refl s
  · exact memOnly_modDie ..

theorem memOnly_coRead (s : State) (part va n : Nat) (acc : Acc) : MemOnly s (s.coRead part va n acc).1 := by
  unfold State.coRead
  have h := memOnly_check s part va n acc noneWhole
  split
  · rename_i e; rw [e] at h; exact h
  · rename_i e; rw [e] at h; exact h
  · rename_i e; rw [e] at h; exact h.trans (memOnly_readAt ..)

theorem memOnly_coWrite (s : State) (part va : Nat) (bs : List (Option Byte)) : MemOnly s (s.coWrite part va bs).1 := by
  unfold State.coWrite
  have h := memOnly_check s part va bs.length .wr (covers va bs)
  split
  · rename_i e; rw [e] at h; exact h
  · rename_i e; rw [e] at h; exact h
  · rename_i e; rw [e] at h; exact ((h.trans (memOnly_markWrite ..)).trans (memOnly_mend ..)).trans (memOnly_writeAt ..)

/-! ### The tile data cache -/

theorem memOnly_loseBack (s : State) (d part va : Nat) : MemOnly s (s.loseBack d part va) := (memOnly_notices ..).trans (memOnly_enterLost ..)

theorem memOnly_landBack (s : State) (part va : Nat) (c : Sector) : MemOnly s (s.landBack part va c) := by
  unfold State.landBack
  split
  · exact memOnly_coWrite ..
  · rename_i d _
    simp only
    split
    · split
      · exact (memOnly_mend ..).trans (memOnly_writeAt ..)
      · exact memOnly_loseBack ..
    · have h := memOnly_checkLocal s d part va 32 .wr (covers va c.dirtyBytes)
      split <;> (rename_i e; rw [e] at h)
      · exact ((h.trans (memOnly_markWrite ..)).trans (memOnly_mend ..)).trans (memOnly_writeAt ..)
      · exact h.trans (memOnly_loseBack ..)

theorem memOnly_writeBack (s : State) (f part va : Nat) (c : Sector) : MemOnly s (s.writeBack f part va c) := by
  unfold State.writeBack
  split
  · exact .refl s
  · split
    · split
      · exact memOnly_loseBack ..
      · exact memOnly_landBack ..
    · exact memOnly_landBack ..

theorem memOnly_cleanCache (s : State) (n : Nat) (p : Nat → Bool) : MemOnly s (s.cleanCache n p) := by
  unfold State.cleanCache
  simp only
  split
  · exact .refl s
  · exact (MemOnly.foldl _ (fun s e => memOnly_writeBack ..) _ s).trans (memOnly_cache _ n _ (fun _ => rfl))

theorem memOnly_dropCache (s : State) (n : Nat) (p : Nat → Bool) : MemOnly s (s.dropCache n p) := memOnly_cache _ _ _ (fun _ => rfl)
theorem memOnly_flushPart (s : State) (n : Nat) (p : Nat → Bool) : MemOnly s (s.flushPart n p) := by
  unfold State.flushPart
  exact (memOnly_cleanCache s n p).trans (memOnly_dropCache ..)
theorem memOnly_flushCache (s : State) (n : Nat) : MemOnly s (s.flushCache n) := memOnly_flushPart ..
theorem memOnly_flushRange (s : State) (n va len : Nat) : MemOnly s (s.flushRange n va len) := memOnly_flushPart ..

theorem memOnly_cacheRoom (s : State) (n va lo len : Nat) : MemOnly s (s.cacheRoom n va lo len) := by
  unfold State.cacheRoom
  simp only
  split
  · exact .refl s
  · have h := (memOnly_free s (s.free + 1)).trans (memOnly_choose { s with free := s.free + 1 } (s.victims n lo len))
    split <;> (rename_i e; rw [e] at h)
    · split
      · exact h.trans (memOnly_flushPart ..)
      · exact h
    · exact h

theorem memOnly_cacheFill (s : State) (n va pa attr : Nat) (r w : Bool) (lo len : Nat) : MemOnly s (s.cacheFill n va pa attr r w lo len) := by
  unfold State.cacheFill
  dsimp only
  have h := (memOnly_cacheRoom s n va lo len).trans
    (memOnly_readAt ((s.cacheRoom n va lo len).tile n).id.part attr 32 (s.cacheRoom n va lo len) (va / 32 * 32) (pa / 32 * 32))
  revert h
  generalize (s.cacheRoom n va lo len).readAt ((s.cacheRoom n va lo len).tile n).id.part (va / 32 * 32) (pa / 32 * 32) attr 32 = q
  obtain ⟨a, b⟩ := q
  intro h
  dsimp only at h ⊢
  exact h.trans (memOnly_cache a n (fun t => { t with cache := put t.cache (sectorKey va) _ }) (fun _ => rfl))

theorem memOnly_tileRead (s : State) (n va len : Nat) (a : Bool) : MemOnly s (s.tileRead n va len a).1 := by
  unfold State.tileRead
  simp only
  split
  · exact .refl s
  split
  · exact .refl s
  split
  · exact .refl s
  · have h := memOnly_check s (s.tile n).id.part va len .rd noneWhole
    split
    · rename_i e; rw [e] at h; exact h
    · rename_i e; rw [e] at h; exact h
    · rename_i e; rw [e] at h
      split
      · exact (h.trans (memOnly_flushRange ..)).trans (memOnly_readAt ..)
      · split
        · exact h
        · exact h.trans (MemOnly.foldl _ (fun s x => memOnly_cacheFill ..) _ _)

theorem memOnly_storeCheck (s : State) (n va len : Nat) (r : Bool) (w : Nat → Bool) : MemOnly s (s.storeCheck n va len r w).1 := by
  unfold State.storeCheck
  simp only
  split
  · exact .refl s
  split
  · exact .refl s
  split
  · exact .refl s
  · have h := memOnly_check s (s.tile n).id.part va len .wr w
    split <;> (rename_i e; rw [e] at h)
    · exact h
    · exact h
    · rename_i u pa attr r w
      exact h.trans (memOnly_markWrite u (s.tile n).id.part va)

theorem memOnly_releaseCache (s : State) (n : Nat) (m : BitVec 4) (sc : Nat) : MemOnly s (s.releaseCache n m sc) := by
  unfold State.releaseCache
  split
  · exact memOnly_cleanCache ..
  · exact .refl s

theorem memOnly_acquireCache (s : State) (n : Nat) (m : BitVec 4) (sc : Nat) : MemOnly s (s.acquireCache n m sc) := by
  unfold State.acquireCache
  split
  · exact memOnly_flushCache ..
  · exact .refl s

/-- Putting bytes into the cache changes only the cache of the tile. -/
theorem Tile.cachePut_rest (r w : Bool) (via : Option Tlb) (bs : List (Option Byte)) :
    ∀ (t : Tile) (va : Nat), { t.cachePut va bs r w via with cache := t.cache } = t := by
  induction bs with
  | nil => exact fun _ _ => rfl
  | cons b l ih =>
    intro t va
    cases b with
    | none => exact ih t (va + 1)
    | some b =>
      obtain ⟨c, e⟩ : ∃ c, t.cachePut va (some b :: l) r w via = Tile.cachePut { t with cache := c } (va + 1) l r w via := ⟨_, rfl⟩
      rw [e]
      exact congrArg (fun x : Tile => { x with cache := t.cache }) (ih { t with cache := c } (va + 1))

theorem memOnly_cacheStore (s : State) (n va : Nat) (bs : List (Option Byte)) (r w : Bool) (via : Option Tlb) : MemOnly s (s.cacheStore n va bs r w via) :=
  MemOnly.foldl _ (fun _ _ => (memOnly_cacheRoom ..).trans (memOnly_cache _ _ _ (fun _ => Tile.cachePut_rest ..))) _ s

end Sys2Proof.Machine
end

