-- ==== Sys2Proof/Laws/Sync.lean ====
section
/-! SUPPORT. What the shared operations of the synchronous columns do when a word starts: LD, ST and VX. -/
namespace Sys2Proof.Machine

open Sys2Proof

/-! ### Landings -/

theorem landAll_append (l m : List Pend) (d : List Pend) : landAll (l ++ m) d = landAll m (landAll l d) := by simp [landAll, List.foldl_append]
@[simp] theorem landAll_nil (d : List Pend) : landAll [] d = d := rfl
@[simp] theorem landAll_cons (p : Pend) (l d : List Pend) : landAll (p :: l) d = landAll l (insertPend p d) := rfl

theorem pend_pushToks (fs : List Nat) (n : Nat) : ∀ t : Tile,
    (t.pushToks fs n).pend = landAll (fs.map (fun f => (⟨t.cnt + n + 1, 0, .token f⟩ : Pend))) t.pend := by
  induction fs with
  | nil => exact fun _ => rfl
  | cons f r ih => exact fun t => ih (t.land (t.cnt + n + 1) 0 (.token f))

/-! ### `State.fire` -/

/-- A word that takes what it needs and changes its tile by g has issued. -/
theorem fire_done (s : State) (k : Needs) (hold : Nat) (g : Tile → Tile) (l : List Pend)
    (hg : let x := (s.tile s.cur.tile).take k
      (g x).ct = x.ct ∧ (g x).st = x.st ∧ (g x).en = x.en ∧ (g x).id = x.id ∧ (g x).wa = x.wa ∧ (g x).cnt = x.cnt ∧ (g x).run = x.run ∧
      (g x).cache = x.cache ∧ (g x).old = x.old ∧ (g x).fe = x.fe ∧ (g x).qs.sm = x.qs.sm ∧ (g x).qs.raises = x.qs.raises)
    (hp : (g ((s.tile s.cur.tile).take k)).pend = landAll l (s.tile s.cur.tile).pend) :
    SyncDone s (s.fire k hold g) hold l ∧ ((s.fire k hold g).tile s.cur.tile).mx = (g ((s.tile s.cur.tile).take k)).mx ∧
      ((s.fire k hold g).tile s.cur.tile).sq = (g ((s.tile s.cur.tile).take k)).sq ∧
      ((s.fire k hold g).tile s.cur.tile).queue = (g ((s.tile s.cur.tile).take k)).queue := by
  have sm : ∀ t : Tile, (t.take k).qs.sm = t.qs.sm ∧ (t.take k).qs.raises = t.qs.raises := by
    intro t
    have h : ∀ {γ : Type} (p : Queues → γ) (h1 : ∀ q r, p { q with room := r } = p q) (h2 : ∀ q r, p { q with tok := r } = p q)
        (h3 : ∀ q r, p { q with tokRoom := r } = p q), p (t.take k).qs = p t.qs := by
      intro γ p h1 h2 h3
      unfold Tile.take
      rw [foldl_keeps (fun t => p t.qs) Tile.reserve (fun t x => h1 _ _)]
      cases k.arrays
      · exact (foldl_keeps (fun t => p t.qs) Tile.reserveTok (fun t x => h3 _ _) ..).trans (foldl_keeps (fun t => p t.qs) Tile.popTok (fun t x => h2 _ _) ..)
      · exact (foldl_keeps (fun t => p t.qs) Tile.reserveTok (fun t x => h3 _ _) ..).trans (foldl_keeps (fun t => p t.qs) Tile.popTok (fun t x => h2 _ _) ..)
    exact ⟨h (·.sm) (fun _ _ => rfl) (fun _ _ => rfl) (fun _ _ => rfl), h (·.raises) (fun _ _ => rfl) (fun _ _ => rfl) (fun _ _ => rfl)⟩
  simp only at hg
  obtain ⟨g1, g2, g3, g4, g5, g6, g7, g8, g0, g9, g10, g11⟩ := hg
  obtain ⟨sm1, sm2⟩ := sm (s.tile s.cur.tile)
  have e : (s.fire k hold g).tile s.cur.tile =
      (fun t : Tile =>
        let t := if s.cur.body then
            { t with fe := { t.fe with seqr := { t.fe.seqr with due := t.fe.seqr.due.filter (fun b => b.col != s.cur.col) } } }
          else t.setIq s.cur.col (t.iq s.cur.col).tail
        let t := if s.cur.body then t else
          { t with fe := { t.fe.issuedAt s.stamp true with seqr := { t.fe.seqr with ahead := upd 0 t.fe.seqr.ahead (colCode s.cur.col) (· - 1) } } }
        t.setCol s.cur.col ⟨t.cnt + 1, t.cnt + Nat.max 1 hold, .untested, none, []⟩) (g ((s.tile s.cur.tile).take k)) := by
    unfold State.fire State.issued
    simp only [State.cur_modTile, State.stamp_modTile, State.tile_modTile_same]
  refine ⟨⟨⟨onlyTile_fire .., ?_⟩, ?_⟩, ?_⟩
  · rw [e]
    cases hb : s.cur.body <;> simp [g1, g2, g3, g4, g5, g6, g7, g8, g0, g9, g10, g11, sm1, sm2] <;> simp [Tile.setCol, Tile.setIq, g9]
  · rw [e]
    cases hb : s.cur.body <;> simp [g6, hp] <;> simp [Tile.setCol, Tile.setIq, Tile.iq, g9]
  · rw [e]
    cases hb : s.cur.body <;> exact ⟨rfl, rfl, rfl⟩

/-- A word whose only effect on its tile is landings has issued. -/
theorem fire_lands (s : State) (k : Needs) (hold : Nat) (g : Tile → Tile) (l : List Pend) (ha : k.arrays = false)
    (hg : { g ((s.tile s.cur.tile).take k) with pend := (s.tile s.cur.tile).pend } = (s.tile s.cur.tile).take k)
    (hp : (g ((s.tile s.cur.tile).take k)).pend = landAll l (s.tile s.cur.tile).pend) :
    SyncDone s (s.fire k hold g) hold l ∧ ((s.fire k hold g).tile s.cur.tile).mx = (s.tile s.cur.tile).mx ∧
      ((s.fire k hold g).tile s.cur.tile).sq = (s.tile s.cur.tile).sq ∧ ((s.fire k hold g).tile s.cur.tile).queue = (s.tile s.cur.tile).queue := by
  have e : ∀ {γ : Type} (p : Tile → γ), (∀ t l, p { t with pend := l } = p t) → p (g ((s.tile s.cur.tile).take k)) = p ((s.tile s.cur.tile).take k) := by
    intro γ p h
    have := congrArg p hg
    rwa [h] at this
  obtain ⟨d, m, q, u⟩ := fire_done s k hold g l
    ⟨e (·.ct) (fun _ _ => rfl), e (·.st) (fun _ _ => rfl), e (·.en) (fun _ _ => rfl), e (·.id) (fun _ _ => rfl), e (·.wa) (fun _ _ => rfl),
      e (·.cnt) (fun _ _ => rfl), e (·.run) (fun _ _ => rfl), e (·.cache) (fun _ _ => rfl), e (·.old) (fun _ _ => rfl), e (·.fe) (fun _ _ => rfl),
      e (·.qs.sm) (fun _ _ => rfl), e (·.qs.raises) (fun _ _ => rfl)⟩ hp
  refine ⟨d, ?_, ?_, ?_⟩
  · rw [m, e (·.mx) (fun _ _ => rfl), Tile.mx_take _ _ ha]
  · rw [q, e (·.sq) (fun _ _ => rfl)]; simp
  · rw [u, e (·.queue) (fun _ _ => rfl)]; simp

/-- A local form of LD that is legal is done. -/
theorem ldLocalFire_done (s : State) (k : Needs) (a p c lat hold : Nat) (bad : Tile → List Nat → Bool) (eff : Tile → List Nat → Tile) (l : List Pend)
    (ha : k.arrays = false) (hp : (s.tile s.cur.tile).patOk p = true)
    (hb : bad (s.tile s.cur.tile) ((s.tile s.cur.tile).patAddrs p a c) = false)
    (he : ∀ x : Tile, { eff x ((s.tile s.cur.tile).patAddrs p a c) with pend := x.pend } = x)
    (hl : (eff ((s.tile s.cur.tile).take k) ((s.tile s.cur.tile).patAddrs p a c)).pend = landAll l (s.tile s.cur.tile).pend) :
    ∃ t, ldLocalFire s k a p c lat hold bad eff = .next t ∧ LdDone s t k a c lat hold l := by
  unfold ldLocalFire
  simp only [hp, hb, Bool.not_true, Bool.false_eq_true, if_false]
  refine ⟨_, rfl, ?_⟩
  have e : ∀ {γ : Type} (q : Tile → γ), (∀ t l, q { t with pend := l } = q t) → ∀ x, q (eff x ((s.tile s.cur.tile).patAddrs p a c)) = q x := by
    intro γ q h x
    have := congrArg q (he x)
    rwa [h] at this
  refine fire_lands s k hold _ _ ha ?_ ?_
  · have h := he ((s.tile s.cur.tile).take k)
    rw [Tile.pend_take] at h
    conv => rhs; rw [← h]
    simp only [Tile.stepAreg, Tile.ct_pushToks, Tile.qs_pushToks, Tile.st_pushToks, Tile.mx_pushToks, Tile.sq_pushToks, Tile.fe_pushToks,
      Tile.en_pushToks, Tile.id_pushToks, Tile.wa_pushToks, Tile.cnt_pushToks, Tile.run_pushToks, Tile.cache_pushToks, Tile.old_pushToks]
    rfl
  · simp only [pend_pushToks, Tile.stepAreg, Tile.pend_after, Tile.cnt_after, hl, landAll_append, landAll_cons, landAll_nil, aregLanding, tokLandings]
    rw [e (·.cnt) (fun _ _ => rfl), Tile.cnt_take]
    have ar : (eff ((s.tile s.cur.tile).take k) ((s.tile s.cur.tile).patAddrs p a c)).areg a = (s.tile s.cur.tile).areg a := by
      unfold Tile.areg; rw [e (·.ct) (fun _ _ => rfl), Tile.ct_take]
    rw [ar]

/-! ### VX -/

/-- Reading source rows keeps every field of a tile but its queues, and the queues keep their semaphores and what is held. -/
theorem Tile.vxSrcs_keeps {γ : Type} (p : Tile → γ) (h : ∀ (t : Tile) q, p (t.pop q) = p t) (l : List (BitVec 8)) :
    ∀ a : Tile × List Row, p (l.foldl (fun (a : Tile × List Row) r => let (t, v) := a.1.vxSrc r; (t, a.2 ++ [v])) a).1 = p a.1 := by
  induction l with
  | nil => exact fun _ => rfl
  | cons r l ih =>
    intro a
    refine (ih _).trans ?_
    show p (a.1.vxSrc r).1 = p a.1
    unfold Tile.vxSrc
    split
    · exact h ..
    · rfl

theorem Tile.vxSrcs_congr (l : List (BitVec 8)) : ∀ a b : Tile × List Row, a.2 = b.2 → a.1.queue = b.1.queue → a.1.qs.held = b.1.qs.held → a.1.st = b.1.st → a.1.sq = b.1.sq →
    let f := fun (a : Tile × List Row) r => let (t, v) := a.1.vxSrc r; (t, a.2 ++ [v])
    (l.foldl f a).2 = (l.foldl f b).2 ∧ (l.foldl f a).1.queue = (l.foldl f b).1.queue := by
  induction l with
  | nil => exact fun a b h1 h2 _ _ _ => ⟨h1, h2⟩
  | cons r l ih =>
    intro a b h1 h2 h3 h4 h5
    refine ih _ _ ?_ ?_ ?_ ?_ ?_
    all_goals simp only [Tile.vxSrc]
    all_goals cases hq : qName r
    all_goals simp [Tile.front, Tile.row, Tile.vrow, h1, h2, h3, h4, h5]
    · funext j; simp [Tile.queue_pop, h2, h3]
    · show a.1.qs.held = b.1.qs.held; exact h3

/-- The advance of the random counter keeps every field of a tile that does not depend on SQ. -/
theorem Tile.vxAdvance_keeps {γ : Type} (q : Tile → γ) (h : ∀ (t : Tile) x, q { t with sq := x } = q t) (b : Bool) (t : Tile) :
    q (if b then t.vxAdvance else t) = q t := by
  cases b
  · rfl
  · exact h ..

/-- A VX word whose effect F on its tile is the landings f completes. -/
theorem vxWord_completes {s : State} {i : Instr} {o : VxOp} {srcs : List (BitVec 8)} {pushes : List Nat} {lat : Nat} {rng : Bool}
    {F : Tile → List Row → (Nat → Nat) → Tile} {f : Tile → List Row → (Nat → Nat) → List Pend}
    (hi : exec i s = vxWord s (wellFormed i) o srcs pushes lat rng F)
    (hF : ∀ (t : Tile) rows u, t.cnt = (s.tile s.cur.tile).cnt → t.sq = (s.tile s.cur.tile).sq → t.st = (s.tile s.cur.tile).st →
      { F t rows u with pend := t.pend } = t ∧ (F t rows u).pend = landAll (f (s.tile s.cur.tile) rows u) t.pend) :
    VxCompletes i o srcs pushes lat rng f s := by
  unfold VxCompletes
  intro k hs hw x p
  unfold Completes
  rw [hi, hw]
  unfold vxWord
  rw [syncIssue_starts hs]
  refine ⟨_, rfl, ?_⟩
  have hk : (syncNeeds .vx o.tok (srcPops srcs) pushes).arrays = false := rfl
  generalize hx : (s.tile s.cur.tile).take (syncNeeds .vx o.tok (srcPops srcs) pushes) = x1
  have keep : ∀ {γ : Type} (q : Tile → γ), (∀ (t : Tile) r, q (t.pop r) = q t) → q (x1.vxSrcs srcs).1 = q x1 := fun q h => Tile.vxSrcs_keeps q h srcs (x1, [])
  obtain ⟨r1, r2⟩ := Tile.vxSrcs_congr srcs (x1, []) (x, []) rfl (by rw [← hx]; simp [x]) (by rw [← hx]; simp [x]) (by rw [← hx]; simp [x]) (by rw [← hx]; simp [x])
  have r1' : (x1.vxSrcs srcs).2 = p.2 := r1
  have r2' : (x1.vxSrcs srcs).1.queue = p.1.queue := r2
  have e1 : (x1.vxSrcs srcs).1.cnt = x.cnt := by rw [keep (·.cnt) (fun _ _ => rfl), ← hx]; simp [x]
  have e2 : (x1.vxSrcs srcs).1.sq = x.sq := by rw [keep (·.sq) (fun _ _ => rfl), ← hx]; simp [x]
  have e3 : (x1.vxSrcs srcs).1.st = x.st := by rw [keep (·.st) (fun _ _ => rfl), ← hx]; simp [x]
  have hu : (fun i => x1.vxRand (get 0 s.key (s.tile s.cur.tile).id.part) i) = x.vxRand (get 0 s.key x.id.part) := by
    funext i; unfold Tile.vxRand; rw [← hx]; simp [x]
  have key := hF (x1.vxSrcs srcs).1 p.2 (x.vxRand (get 0 s.key x.id.part)) e1 e2 e3
  obtain ⟨key1, key2⟩ := key
  have kf : ∀ {γ : Type} (q : Tile → γ), (∀ t l, q { t with pend := l } = q t) →
      q (F (x1.vxSrcs srcs).1 p.2 (x.vxRand (get 0 s.key x.id.part))) = q (x1.vxSrcs srcs).1 := by
    intro γ q h
    have := congrArg q key1
    rwa [h] at this
  have fd := fire_done s (syncNeeds .vx o.tok (srcPops srcs) pushes) 1 (fun t =>
      let u := fun i => t.vxRand (get 0 s.key (s.tile s.cur.tile).id.part) i
      let (t, rows) := t.vxSrcs srcs
      let t := F t rows u
      (if rng then t.vxAdvance else t).pushToks (syncNeeds .vx o.tok (srcPops srcs) pushes).outs lat)
      (f x p.2 (x.vxRand (get 0 s.key x.id.part)) ++ tokLandings x (syncNeeds .vx o.tok (srcPops srcs) pushes) lat)
  rw [hx] at fd
  simp only [hu, r1'] at fd
  have fd' := fd (by
    cases rng <;> simp [Tile.vxAdvance] <;>
      exact ⟨(kf (·.ct) (fun _ _ => rfl)).trans (keep (·.ct) (fun _ _ => rfl)), (kf (·.st) (fun _ _ => rfl)).trans (keep (·.st) (fun _ _ => rfl)),
        (kf (·.en) (fun _ _ => rfl)).trans (keep (·.en) (fun _ _ => rfl)), (kf (·.id) (fun _ _ => rfl)).trans (keep (·.id) (fun _ _ => rfl)),
        (kf (·.wa) (fun _ _ => rfl)).trans (keep (·.wa) (fun _ _ => rfl)), (kf (·.cnt) (fun _ _ => rfl)).trans (keep (·.cnt) (fun _ _ => rfl)),
        (kf (·.run) (fun _ _ => rfl)).trans (keep (·.run) (fun _ _ => rfl)), (kf (·.cache) (fun _ _ => rfl)).trans (keep (·.cache) (fun _ _ => rfl)), (kf (·.old) (fun _ _ => rfl)).trans (keep (·.old) (fun _ _ => rfl)),
        (kf (·.fe) (fun _ _ => rfl)).trans (keep (·.fe) (fun _ _ => rfl)), (kf (·.qs.sm) (fun _ _ => rfl)).trans (keep (·.qs.sm) (fun _ _ => rfl)),
        (kf (·.qs.raises) (fun _ _ => rfl)).trans (keep (·.qs.raises) (fun _ _ => rfl))⟩)
    (by
      rw [pend_pushToks, landAll_append]
      have c1 : (if rng then (F (x1.vxSrcs srcs).1 p.2 (x.vxRand (get 0 s.key x.id.part))).vxAdvance else F (x1.vxSrcs srcs).1 p.2 (x.vxRand (get 0 s.key x.id.part))).cnt = x.cnt := by
        rw [Tile.vxAdvance_keeps (·.cnt) (fun _ _ => rfl)]
        exact (kf (·.cnt) (fun _ _ => rfl)).trans e1
      have c2 : (if rng then (F (x1.vxSrcs srcs).1 p.2 (x.vxRand (get 0 s.key x.id.part))).vxAdvance else F (x1.vxSrcs srcs).1 p.2 (x.vxRand (get 0 s.key x.id.part))).pend =
          landAll (f x p.2 (x.vxRand (get 0 s.key x.id.part))) x.pend := by
        have c3 : (x1.vxSrcs srcs).1.pend = x.pend := by rw [keep (·.pend) (fun _ _ => rfl), ← hx]; simp [x]
        rw [Tile.vxAdvance_keeps (·.pend) (fun _ _ => rfl)]
        exact key2.trans (by rw [c3])
      rw [c1, c2]; rfl)
  obtain ⟨d1, d2, d3, d4⟩ := fd'
  refine ⟨d1, ?_, ?_, ?_⟩
  · refine d4.trans ?_
    rw [← r2']
    have : ∀ t : Tile, (t.pushToks (syncNeeds .vx o.tok (srcPops srcs) pushes).outs lat).queue = t.queue := by intro t; funext q; simp [Tile.queue]
    rw [this]
    rw [Tile.vxAdvance_keeps (·.queue) (fun _ _ => rfl)]
    exact kf (·.queue) (fun _ _ => rfl)
  · refine d2.trans ?_
    simp only [Tile.mx_pushToks]
    have m : (x1.vxSrcs srcs).1.mx = x.mx := by rw [keep (·.mx) (fun _ _ => rfl), ← hx]; simp [x, Tile.mx_take _ _ hk]
    rw [Tile.vxAdvance_keeps (·.mx) (fun _ _ => rfl)]
    exact (kf (·.mx) (fun _ _ => rfl)).trans m
  · refine d3.trans ?_
    simp only [Tile.sq_pushToks]
    have q := (kf (·.sq) (fun _ _ => rfl)).trans e2
    cases rng with
    | false => exact q
    | true => exact congrArg (fun z : Sq => { z with rng := wset z.rng 0 32 (wfld z.rng 0 32 + 256) }) q

end Sys2Proof.Machine
end

