-- ==== Sys2Proof/Machine/Regs.lean ====
section
/-! DEFINITION. What a read of a register page answers: the VF page (R115), the PF page (R117) and the management block of a die (R118). A
field that only acts when written reads 0 (R7), and so do Reserved fields and offsets that are not listed. A read changes nothing. -/
namespace Sys2Proof.Machine

open Sys2Proof

/-- A word from its fields: the value of each and its lowest bit. -/
def fieldsWord (l : List (Nat × Nat)) : Word := BitVec.ofNat 64 (l.foldl (fun a f => a + f.1 * 2 ^ f.2) 0)

/-- PART.STAT (R116). -/
def State.partStat (s : State) (p : Nat) : Word :=
  let x := s.part p
  fieldsWord [(s.outst p, 48), (Nat.min 255 x.trig, 40), (b2n x.awaitGo, 11), (x.phase, 8), (x.st, 0)]

/-- The pending-bit array of a VF (R115). -/
def State.pendingBits (s : State) (p : Nat) : Word := fieldsWord ((List.range 16).map (fun v => (b2n (s.pba.contains (p, v)), v)))

/-- The registers of a queue, a ring and a walker, by offset (R101, R103, R134). -/
def Queue.reg (q : Queue) (off : Nat) : Word :=
  match off with
  | 0x0 => q.base | 0x8 => q.ctl | 0x10 => BitVec.ofNat 64 q.head | 0x18 => BitVec.ofNat 64 q.tail | _ => 0
def Ring.page (r : Ring) (off : Nat) : Word :=
  match off with
  | 0x0 => r.base | 0x8 => r.paddr | 0x10 => r.ctl | 0x18 => BitVec.ofNat 64 r.cidx | 0x20 => BitVec.ofNat 64 r.pidx | _ => 0
def Walker.reg (w : Walker) (off : Nat) : Word :=
  match off with
  | 0x0 => w.base | 0x8 => w.ctl | 0x10 => w.stat | _ => 0

/-- An 8-byte read at an offset of a VF page (R115). -/
def State.vfRead (s : State) (p off : Nat) : Word :=
  let x := s.part p
  if off < 0x800 then (s.queue p (off / 0x20)).reg (off % 0x20)
  else if off < 0x900 then (s.ring p ((off - 0x800) / 0x40)).page (off % 0x40)
  else if off < 0x980 then (s.walker p ((off - 0x900) / 0x20)).reg (off % 0x20)
  else if 0xA80 ≤ off && off < 0xAA0 && off % 8 = 0 then get 0 x.hwin ((off - 0xA80) / 8)
  else if 0xAC0 ≤ off && off < 0xAE0 && off % 8 = 0 then get 0 x.save ((off - 0xAC0) / 8)
  else if 0x8000 ≤ off && off < 0x8100 && off % 8 = 0 then s.msixWord (1 + p) off
  else match off with
    | 0xA08 => s.partStat p
    | 0xA10 => x.herrVa
    | 0xA18 => x.herrInfo
    | 0xA20 => x.chbase
    | 0xA28 => x.frbase
    | 0xA30 => BitVec.ofNat 64 x.frprod
    | 0xA38 => BitVec.ofNat 64 x.frcons
    | 0xA40 => fieldsWord [(x.junder, 16), (x.drop, 0)]
    | 0x9000 => s.pendingBits p
    | _ => 0

/-- A 4-byte read reads one half of the register (R115). -/
def State.vfReadHalf (s : State) (p off : Nat) : Lane := BitVec.ofNat 32 ((s.vfRead p (off / 8 * 8)).toNat / 2 ^ (8 * (off % 8)))

/-- An 8-byte read at an offset of the PF page (R117). DEDUCED: the spec has nothing signal a vector of the PF, so its pending-bit array reads 0. -/
def State.pfRead (s : State) (off : Nat) : Word :=
  if off = 0 then s.boot
  else if 0x1000 ≤ off && off < 0x2000 && off % 8 = 0 then get 0 s.plain off
  else if 0x8000 ≤ off && off < 0x8200 && off % 8 = 0 then s.msixWord 0 off
  else 0

/-- WATCH.TSTAT (R252). -/
def Health.code (h : Health) : Nat :=
  match h with
  | .healthy => 0 | .suspect => 1 | .fenced => 2 | .testing => 3 | .appealing => 4 | .readmitted => 5
def State.tstat (s : State) (n : Nat) : Word :=
  let w := (s.tile n).wa
  fieldsWord [(w.appn.toNat, 40), (b2n w.perm, 31), (w.health.code, 28), (w.fsrc.toNat, 24), ((voteBits (directions n)).toNat, 20), (w.lastVotes.toNat, 16),
    (w.verd.toNat, 8), (w.clean, 3)]

/-- The Weir, time and telemetry registers (R31, R40, R43); a limit and a demand read in whole watts, truncated. -/
def State.powerTimeRead (s : State) (off : Nat) : Word :=
  let p := s.pw
  let t := s.tm
  match off with
  | 0x0 => fieldsWord [(b2n p.balEn, 2), (b2n p.fillEn, 1), (b2n p.en, 0)]
  | 0x8 => fieldsWord [(p.up.toNat, 16), (p.dn.toNat, 0)]
  | 0x10 => fieldsWord [(p.dnExc.toNat, 48), (p.lim / 10000, 32), (p.demand / 10000, 16), (b2n p.badw, 7), (b2n p.fill, 6), (p.mode.toNat, 4)]
  | 0x100 => fieldsWord [(b2n t.badw, 3), (b2n t.lock, 2), (b2n t.arm, 1), (b2n t.run, 0)]
  | 0x108 => fieldsWord [(t.freq.toNat, 0)]
  | 0x110 => fieldsWord [(t.epoch.toNat, 0)]
  | 0x118 => t.start
  | 0x120 => BitVec.ofNat 64 t.pre
  | 0x128 => BitVec.ofNat 64 t.ppsPre
  | 0x130 => BitVec.ofNat 64 t.ppsStamp
  | 0x200 => s.te.base
  | 0x208 => fieldsWord [(b2n s.te.badw, 9), (b2n s.te.en, 8), (s.te.log2n, 0)]
  | 0x210 => fieldsWord [(s.te.widx.toNat, 0)]
  | 0x218 => fieldsWord [(s.te.lost.toNat, 0)]
  | _ => 0

/-- ADX.PCTL and ADX.PSTAT of a port (R65). -/
def Port.pctl (x : Port) : Word := fieldsWord [(x.vlen.toNat, 8), (x.towq.toNat, 4), (b2n x.en, 0)]
def Port.pstat (x : Port) : Word := fieldsWord [(x.replay.toNat, 48), (x.downs.toNat, 32), (if x.up then x.lanes else 0, 4), (b2n x.up, 0)]

/-- The registers of D0's block that exist once for the package or the module (R118). -/
def State.d0Read (s : State) (off : Nat) : Word :=
  if off < 0x300 then s.powerTimeRead off
  else if off = 0x300 then s.ctmo
  else if 0x10000 ≤ off && off < 0x14000 then ((get 0 s.routes ((off - 0x10000) / 16)) >>> (if off % 16 = 8 then 64 else 0)).setWidth 64
  else if 0x40000 ≤ off && off < 0x40400 then
    let x := s.part ((off - 0x40000) / 0x40)
    match off % 0x40 with
    | 0x0 => x.next
    | 0x8 => x.slice
    | 0x10 => BitVec.ofNat 64 x.wgt
    | _ => 0
  else if 0x41000 ≤ off && off < 0x41200 then get 0 (s.part ((off - 0x41000) / 0x20)).hwin (off % 0x20 / 8)
  else if 0x90000 ≤ off && off < 0x91000 then get 0 s.plain (2 ^ 25 + off)
  else 0

/-- An 8-byte read at an offset of the management block of a die (R118). -/
def State.mgmtRead (s : State) (d off : Nat) : Word :=
  let x := s.die d
  if off % 8 ≠ 0 then 0
  else if 0x1000 ≤ off && off < 0x1200 then
    let port := s.port (32 * d + (off - 0x1000) / 16)
    if off % 16 = 0 then port.pctl else port.pstat
  else if 0x20000 ≤ off && off < 0x20080 then get 0 x.rootReg ((off - 0x20000) / 8)
  else if 0x20300 ≤ off && off < 0x20340 then get 0 x.carve ((off - 0x20300) / 8)
  else if 0x20208 ≤ off && off < 0x20228 then
    let i := (off - 0x20208) / 8
    fieldsWord ((List.range 8).map (fun j => (get 0 x.ents (8 * i + j), 8 * j)))
  else if 0x31000 ≤ off && off < 0x31800 then
    let n := 128 * d + (off - 0x31000) / 16
    if off % 16 = 0 then s.tstat n else BitVec.ofNat 64 (s.tile n).wa.tfence
  else if 0x80000 ≤ off && off < 0x81000 then get 0 x.mailbox ((off - 0x80000) / 8)
  else match off with
    | 0x20100 => x.shva
    | 0x20108 => x.shn
    | 0x20110 => x.shctl
    | 0x20200 => BitVec.ofNat 64 x.gen
    | 0x30000 => x.wctl
    | _ => if d = 0 then s.d0Read off else 0

end Sys2Proof.Machine
end

