-- ==== Sys2Proof/Tests/Slice0.lean ====
section
/-! SUPPORT. The row's own tests: ill-formed terms that the well-formedness check refuses, words written from the encodings of the spec and what they
decode to, states that meet the hypotheses of the statements together, and single steps whose results are worked out from the rules. -/
namespace Sys2Proof.Tests

open Sys2Proof Sys2Proof.Machine

/-- A word from its fields: each a value and the position of its lowest bit. -/
def word (l : List (Nat × Nat)) : Lane := BitVec.ofNat 32 (l.foldl (fun n f => n + f.1 * 2 ^ f.2) 0)

/-! ### Decoding (R258–R272) -/

/-- Every mnemonic of this group, its word written from the fields of CR (R261, R269). -/
theorem test_decode_alu :
    decode .ct (word [(1, 26), (3, 21), (17, 16), (9, 11)]) none = .add ⟨3, 17, 9, false, false, false⟩ ∧
    decode .ct (word [(2, 26), (2, 21), (17, 16), (9, 11), (1, 10)]) none = .sub ⟨2, 17, 9, true, false, false⟩ ∧
    decode .ct (word [(3, 26), (3, 21), (1, 16), (9, 11), (1, 9)]) none = .and ⟨3, 1, 9, false, true, false⟩ ∧
    decode .ct (word [(4, 26), (30, 21), (17, 16), (2, 11), (1, 8)]) none = .or ⟨30, 17, 2, false, false, true⟩ ∧
    decode .ct (word [(5, 26), (3, 21), (17, 16), (9, 11)]) none = .xor ⟨3, 17, 9, false, false, false⟩ ∧
    decode .ct (word [(6, 26), (2, 21), (17, 16), (9, 11), (1, 10)]) none = .sll ⟨2, 17, 9, true, false, false⟩ ∧
    decode .ct (word [(7, 26), (3, 21), (1, 16), (9, 11), (1, 9)]) none = .srl ⟨3, 1, 9, false, true, false⟩ ∧
    decode .ct (word [(8, 26), (30, 21), (17, 16), (2, 11), (1, 8)]) none = .sra ⟨30, 17, 2, false, false, true⟩ ∧
    decode .ct (word [(9, 26), (3, 21), (17, 16), (9, 11)]) none = .slt ⟨3, 17, 9, false, false, false⟩ ∧
    decode .ct (word [(10, 26), (2, 21), (17, 16), (9, 11), (1, 10)]) none = .sltu ⟨2, 17, 9, true, false, false⟩ ∧
    decode .ct (word [(11, 26), (3, 21), (1, 16), (9, 11), (1, 9)]) none = .seq ⟨3, 1, 9, false, true, false⟩ ∧
    decode .ct (word [(12, 26), (30, 21), (17, 16), (2, 11), (1, 8)]) none = .mul ⟨30, 17, 2, false, false, true⟩ ∧
    decode .ct (word [(13, 26), (3, 21), (17, 16), (9, 11)]) none = .mulh ⟨3, 17, 9, false, false, false⟩ ∧
    decode .ct (word [(14, 26), (2, 21), (17, 16), (9, 11), (1, 10)]) none = .div ⟨2, 17, 9, true, false, false⟩ ∧
    decode .ct (word [(15, 26), (3, 21), (1, 16), (9, 11), (1, 9)]) none = .divu ⟨3, 1, 9, false, true, false⟩ ∧
    decode .ct (word [(16, 26), (30, 21), (17, 16), (2, 11), (1, 8)]) none = .rem ⟨30, 17, 2, false, false, true⟩ ∧
    decode .ct (word [(17, 26), (3, 21), (17, 16), (9, 11)]) none = .min ⟨3, 17, 9, false, false, false⟩ ∧
    decode .ct (word [(18, 26), (2, 21), (17, 16), (9, 11), (1, 10)]) none = .max ⟨2, 17, 9, true, false, false⟩ := by decide

/-- Every mnemonic of this group, its word written from the fields of CI, CL and CH (R261, R268). -/
theorem test_decode_imm :
    decode .ct (word [(19, 26), (7, 21), (20, 16), (0x8123, 0)]) none = .addi ⟨7, 20, 0x8123⟩ ∧
    decode .ct (word [(20, 26), (7, 21), (20, 16), (0x8123, 0)]) none = .andi ⟨7, 20, 0x8123⟩ ∧
    decode .ct (word [(21, 26), (7, 21), (20, 16), (0x8123, 0)]) none = .ori ⟨7, 20, 0x8123⟩ ∧
    decode .ct (word [(22, 26), (7, 21), (20, 16), (0x8123, 0)]) none = .xori ⟨7, 20, 0x8123⟩ ∧
    decode .ct (word [(23, 26), (7, 21), (20, 16), (42, 0)]) none = .slli ⟨7, 20, 0x2A⟩ ∧
    decode .ct (word [(24, 26), (7, 21), (20, 16), (42, 0)]) none = .srli ⟨7, 20, 0x2A⟩ ∧
    decode .ct (word [(25, 26), (7, 21), (20, 16), (42, 0)]) none = .srai ⟨7, 20, 0x2A⟩ ∧
    decode .ct (word [(26, 26), (7, 21), (20, 16), (0x8123, 0)]) none = .slti ⟨7, 20, 0x8123⟩ ∧
    decode .ct (word [(27, 26), (9, 21), (0x12345, 0)]) none = .ldi 9 0x12345 ∧
    decode .ct (word [(27, 26), (9, 21), (0x12345, 0)]) (some 0xDEADBEEF) = .ldiLong 9 0x12345 0xDEADBEEF ∧
    decode .ct (word [(28, 26), (9, 21), (2, 16), (0xbeef, 0)]) none = .orhi 9 2 0xBEEF := by decide

/-- Every mnemonic of this group, its word written from the fields of CB and CJ (R261). -/
theorem test_decode_flow :
    decode .ct (word [(29, 26), (6, 21), (25, 16), (0xfffe, 0)]) none = .beq ⟨6, 25, 0xFFFE⟩ ∧
    decode .ct (word [(30, 26), (6, 21), (25, 16), (0xfffe, 0)]) none = .bne ⟨6, 25, 0xFFFE⟩ ∧
    decode .ct (word [(31, 26), (6, 21), (25, 16), (0xfffe, 0)]) none = .blt ⟨6, 25, 0xFFFE⟩ ∧
    decode .ct (word [(32, 26), (6, 21), (25, 16), (0xfffe, 0)]) none = .bge ⟨6, 25, 0xFFFE⟩ ∧
    decode .ct (word [(33, 26), (6, 21), (25, 16), (0xfffe, 0)]) none = .bltu ⟨6, 25, 0xFFFE⟩ ∧
    decode .ct (word [(34, 26), (6, 21), (25, 16), (0xfffe, 0)]) none = .bgeu ⟨6, 25, 0xFFFE⟩ ∧
    decode .ct (word [(35, 26), (31, 21), (0x1ffff0, 0)]) none = .jal 31 0x1FFFF0 ∧
    decode .ct (word [(36, 26), (31, 21), (4, 16), (0xfffc, 0)]) none = .jalr ⟨31, 4, 0xFFFC⟩ := by decide

/-- Every mnemonic of this group, its word written from the fields of CM and the layouts of R261. -/
theorem test_decode_scalar :
    decode .ct (word [(37, 26), (10, 21), (11, 16), (2, 14), (1, 13), (0x1ff8, 0)]) none = .lds ⟨10, 11, 2, true, 0x1FF8⟩ ∧
    decode .ct (word [(38, 26), (10, 21), (11, 16), (1, 14), (0xff8, 0)]) none = .sts ⟨10, 11, 1, 0x0FF8⟩ ∧
    decode .ct (word [(39, 26), (11, 22), (4, 19)]) none = .fence 0xB 4 ∧
    decode .ct (word [(40, 26), (2, 24), (1, 22), (12, 17), (13, 12)]) none = .cmo 2 1 12 13 ∧
    decode .ct (word [(41, 26), (33, 20), (14, 15), (5, 11), (3, 8)]) none = .semw ⟨33, 14, 5, 3⟩ ∧
    decode .ct (word [(42, 26), (15, 21), (34, 15)]) none = .semr 15 34 ∧
    decode .ct (word [(43, 26), (35, 20), (16, 15), (6, 11), (2, 8)]) none = .sems ⟨35, 16, 6, 2⟩ ∧
    decode .ct (word [(44, 26)]) none = .wfe ∧
    decode .ct (word [(45, 26)]) none = .sev ∧
    decode .ct (word [(46, 26), (9, 22)]) none = .gbar 9 ∧
    decode .ct (word [(47, 26), (18, 16)]) none = .mark 18 ∧
    decode .ct (word [(48, 26)]) none = .done := by decide

/-- Every mnemonic of this group, its word written from the fields of the layouts of R261 and R271. -/
theorem test_decode_system :
    decode .ct (word [(49, 26), (32, 20), (64, 13), (16, 8), (21, 2)]) none = .mloop 32 64 16 21 ∧
    decode .ct (word [(49, 26), (3, 20), (5, 13), (2, 8), (1, 7)]) none = .mloopLcb 3 5 2 ∧
    decode .ct (word [(50, 26), (7, 23), (22, 18)]) none = .mlcb 7 22 ∧
    decode .ct (word [(51, 26), (23, 21), (0x7ff, 10)]) none = .loop 23 2047 ∧
    decode .ct (word [(52, 26)]) none = .unloop ∧
    decode .ct (word [(53, 26), (24, 21), (6, 17)]) none = .rdid 24 6 ∧
    decode .ct (word [(54, 26), (25, 21), (79, 9)]) none = .srr 25 0x04F ∧
    decode .ct (word [(55, 26), (26, 21), (130, 9)]) none = .srw 26 0x082 ∧
    decode .ct (word [(56, 26), (27, 21)]) none = .rdstamp 27 ∧
    decode .ct (word [(57, 26), (87, 19), (28, 14)]) none = .mova 87 28 ∧
    decode .ct (word [(58, 26), (0xcafe, 10)]) none = .trap 0xCAFE ∧
    decode .ct (word [(59, 26)]) none = .eret ∧
    decode .ct (word [(60, 26)]) none = .halt := by decide

/-- Every mnemonic of this group, its word written from the fields of XL and XM (R258, R262). -/
theorem test_decode_ld :
    decode .ld (word [(1, 26), (5, 23), (1, 21), (1, 19), (9, 15), (10, 11), (6, 8), (100, 0)]) none = .ldv ⟨5, true, true, 9, 10, 6, 100⟩ ∧
    decode .ld (word [(2, 26), (5, 23), (1, 21), (1, 19), (9, 15), (10, 11), (6, 8), (130, 0)]) none = .ldq ⟨5, true, true, 9, 10, 6, 130⟩ ∧
    decode .ld (word [(3, 26), (5, 23), (1, 21), (10, 11), (6, 8), (101, 0)]) none = .ldt ⟨5, true, false, 10, 6, 101⟩ ∧
    decode .ld (word [(4, 26), (5, 23), (1, 21), (1, 19), (9, 15), (10, 11), (6, 8), (133, 0)]) none = .ldg ⟨5, true, true, 9, 10, 6, 133⟩ ∧
    decode .ld (word [(5, 26), (5, 23), (1, 21), (10, 11), (6, 8), (15, 0)]) none = .ldb ⟨5, true, false, 10, 6, 15⟩ ∧
    decode .ld (word [(6, 26), (5, 23), (1, 21), (1, 19), (9, 15), (10, 11), (6, 8), (14, 0)]) none = .ldsc ⟨5, true, true, 9, 10, 6, 14⟩ ∧
    decode .ld (word [(7, 26), (5, 23), (1, 21), (1, 19), (9, 15), (10, 11), (6, 8), (63, 0)]) none = .ldp ⟨5, true, true, 9, 10, 6, 63⟩ ∧
    decode .ld (word [(8, 26), (5, 23), (1, 19), (10, 11), (6, 8)]) none = .lpf ⟨5, false, true, 10, 6⟩ ∧
    decode .ld (word [(9, 26), (5, 23), (1, 21), (1, 19), (9, 15), (10, 11), (6, 8), (129, 0)]) none = .ldx ⟨5, true, true, 9, 10, 6, 129⟩ ∧
    decode .ld (word [(10, 26), (5, 23), (1, 21), (1, 19), (9, 15), (10, 11), (6, 8), (135, 0)]) none = .ldbc ⟨5, true, true, 9, 10, 6, 135⟩ := by decide

/-- Every mnemonic of this group, its word written from the fields of XL and XM (R258, R262). -/
theorem test_decode_st :
    decode .st (word [(1, 26), (3, 23), (1, 22), (1, 19), (9, 15), (10, 11), (6, 8), (100, 0)]) none = .stv ⟨⟨3, true, false, false, true⟩, 9, 10, 6, 100⟩ ∧
    decode .st (word [(2, 26), (3, 23), (1, 22), (1, 19), (9, 15), (10, 11), (6, 8), (130, 0)]) none = .stq ⟨⟨3, true, false, false, true⟩, 9, 10, 6, 130⟩ ∧
    decode .st (word [(3, 26), (3, 23), (1, 22), (1, 19), (10, 11), (6, 8), (101, 0)]) none = .stt ⟨⟨3, true, false, false, true⟩, 10, 6, 101⟩ ∧
    decode .st (word [(4, 26), (3, 23), (1, 22), (1, 19), (9, 15), (10, 11), (6, 8), (133, 0)]) none = .sct ⟨⟨3, true, false, false, true⟩, 9, 10, 6, 133⟩ ∧
    decode .st (word [(5, 26), (3, 23), (1, 22), (1, 19), (9, 15), (10, 11), (6, 8), (63, 0)]) none = .stp ⟨⟨3, true, false, false, true⟩, 9, 10, 6, 63⟩ ∧
    decode .st (word [(6, 26), (3, 23), (1, 22), (1, 19), (9, 15), (10, 11), (6, 8), (129, 0)]) none = .stc ⟨⟨3, true, false, false, true⟩, 9, 10, 6, 129⟩ ∧
    decode .st (word [(7, 26), (3, 23), (1, 22), (1, 19), (9, 15), (10, 11), (6, 8)]) none = .stz ⟨⟨3, true, false, false, true⟩, 9, 10, 6⟩ ∧
    decode .st (word [(8, 26), (3, 23), (1, 22), (1, 19), (9, 15), (10, 11), (6, 8), (126, 0)]) none = .stm ⟨⟨3, true, false, false, true⟩, 9, 10, 6, 126⟩ := by decide

/-- Every mnemonic of this group, its word written from the fields of CE (R267). -/
theorem test_decode_ce :
    decode .ce (word [(1, 26), (165, 18), (33, 12), (34, 6), (3, 3), (1, 0)]) (some 0xCDAABCDE) = .copy ⟨0xA5, 33, 34, 3, false, false, true, true, 9, 0x5A, 0xABCDE⟩ ∧
    decode .ce (word [(2, 26), (4, 3), (1, 2), (1, 1)]) (some 0x2100000) = .copya ⟨0, 0, 0, 4, true, true, false, false, 0, 0x21, 0⟩ ∧
    decode .ce (word [(3, 26), (165, 18), (33, 12), (34, 6), (3, 3), (1, 0)]) (some 0xCDAABCDE) = .fill ⟨0xA5, 33, 34, 3, false, false, true, true, 9, 0x5A, 0xABCDE⟩ ∧
    decode .ce (word [(4, 26), (4, 3), (1, 2), (1, 1)]) (some 0x2100000) = .accw ⟨0, 0, 0, 4, true, true, false, false, 0, 0x21, 0⟩ ∧
    decode .ce (word [(5, 26), (165, 18), (33, 12), (34, 6), (3, 3), (1, 0)]) (some 0xCDAABCDE) = .xadd ⟨0xA5, 33, 34, 3, false, false, true, true, 9, 0x5A, 0xABCDE⟩ ∧
    decode .ce (word [(6, 26), (4, 3), (1, 2), (1, 1)]) (some 0x2100000) = .cas ⟨0, 0, 0, 4, true, true, false, false, 0, 0x21, 0⟩ ∧
    decode .ce (word [(7, 26), (165, 18), (33, 12), (34, 6), (3, 3), (1, 0)]) (some 0xCDAABCDE) = .mcast ⟨0xA5, 33, 34, 3, false, false, true, true, 9, 0x5A, 0xABCDE⟩ ∧
    decode .ce (word [(8, 26), (4, 3), (1, 2), (1, 1)]) (some 0x2100000) = .msend ⟨0, 0, 0, 4, true, true, false, false, 0, 0x21, 0⟩ ∧
    decode .ce (word [(9, 26), (165, 18), (33, 12), (34, 6), (3, 3), (1, 0)]) (some 0xCDAABCDE) = .mrecv ⟨0xA5, 33, 34, 3, false, false, true, true, 9, 0x5A, 0xABCDE⟩ ∧
    decode .ce (word [(10, 26), (4, 3), (1, 2), (1, 1)]) (some 0x2100000) = .cmoa ⟨0, 0, 0, 4, true, true, false, false, 0, 0x21, 0⟩ ∧
    decode .ce (word [(11, 26), (165, 18), (33, 12), (34, 6), (3, 3), (1, 0)]) (some 0xCDAABCDE) = .pfb ⟨0xA5, 33, 34, 3, false, false, true, true, 9, 0x5A, 0xABCDE⟩ ∧
    decode .ce (word [(12, 26), (4, 3), (1, 2), (1, 1)]) (some 0x2100000) = .ceflush ⟨0, 0, 0, 4, true, true, false, false, 0, 0x21, 0⟩ := by decide

/-- Every mnemonic of this group, its word written from the fields of VX (R258, R263). -/
theorem test_decode_vx0 :
    decode .vx (word [(1, 26), (3, 23), (1, 22), (1, 19), (10, 15), (4, 12), (0x9a5, 0)]) (some 0x102847F) = .vadd ⟨⟨3, true, false, false, true⟩, 10, 4, 0x9A5, 1, 2, 0x84, 0x7F⟩ ∧
    decode .vx (word [(2, 26), (3, 23), (1, 22), (1, 19), (10, 15), (4, 12), (0x9a5, 0)]) (some 0x102847F) = .vsub ⟨⟨3, true, false, false, true⟩, 10, 4, 0x9A5, 1, 2, 0x84, 0x7F⟩ ∧
    decode .vx (word [(3, 26), (3, 23), (1, 22), (1, 19), (10, 15), (4, 12), (0x9a5, 0)]) (some 0x102847F) = .vmul ⟨⟨3, true, false, false, true⟩, 10, 4, 0x9A5, 1, 2, 0x84, 0x7F⟩ ∧
    decode .vx (word [(4, 26), (3, 23), (1, 22), (1, 19), (10, 15), (4, 12), (0x9a5, 0)]) (some 0x102847F) = .vfma ⟨⟨3, true, false, false, true⟩, 10, 4, 0x9A5, 1, 2, 0x84, 0x7F⟩ ∧
    decode .vx (word [(5, 26), (3, 23), (1, 22), (1, 19), (10, 15), (4, 12), (0x9a5, 0)]) (some 0x102847F) = .vfms ⟨⟨3, true, false, false, true⟩, 10, 4, 0x9A5, 1, 2, 0x84, 0x7F⟩ ∧
    decode .vx (word [(6, 26), (3, 23), (1, 22), (1, 19), (10, 15), (4, 12), (0x9a5, 0)]) (some 0x102847F) = .vmax ⟨⟨3, true, false, false, true⟩, 10, 4, 0x9A5, 1, 2, 0x84, 0x7F⟩ ∧
    decode .vx (word [(7, 26), (3, 23), (1, 22), (1, 19), (10, 15), (4, 12), (0x9a5, 0)]) (some 0x102847F) = .vmin ⟨⟨3, true, false, false, true⟩, 10, 4, 0x9A5, 1, 2, 0x84, 0x7F⟩ ∧
    decode .vx (word [(8, 26), (3, 23), (1, 22), (1, 19), (10, 15), (4, 12), (0x9a5, 0)]) (some 0x102847F) = .vabs ⟨⟨3, true, false, false, true⟩, 10, 4, 0x9A5, 1, 2, 0x84, 0x7F⟩ ∧
    decode .vx (word [(9, 26), (3, 23), (1, 22), (1, 19), (10, 15), (4, 12), (0x9a5, 0)]) (some 0x102847F) = .vneg ⟨⟨3, true, false, false, true⟩, 10, 4, 0x9A5, 1, 2, 0x84, 0x7F⟩ ∧
    decode .vx (word [(10, 26), (3, 23), (1, 22), (1, 19), (10, 15), (4, 12), (0x9a5, 0)]) (some 0x102847F) = .vand ⟨⟨3, true, false, false, true⟩, 10, 4, 0x9A5, 1, 2, 0x84, 0x7F⟩ ∧
    decode .vx (word [(11, 26), (3, 23), (1, 22), (1, 19), (10, 15), (4, 12), (0x9a5, 0)]) (some 0x102847F) = .vor ⟨⟨3, true, false, false, true⟩, 10, 4, 0x9A5, 1, 2, 0x84, 0x7F⟩ ∧
    decode .vx (word [(12, 26), (3, 23), (1, 22), (1, 19), (10, 15), (4, 12), (0x9a5, 0)]) (some 0x102847F) = .vxor ⟨⟨3, true, false, false, true⟩, 10, 4, 0x9A5, 1, 2, 0x84, 0x7F⟩ ∧
    decode .vx (word [(13, 26), (3, 23), (1, 22), (1, 19), (10, 15), (4, 12), (0x9a5, 0)]) (some 0x102847F) = .vshl ⟨⟨3, true, false, false, true⟩, 10, 4, 0x9A5, 1, 2, 0x84, 0x7F⟩ ∧
    decode .vx (word [(14, 26), (3, 23), (1, 22), (1, 19), (10, 15), (4, 12), (0x9a5, 0)]) (some 0x102847F) = .vshr ⟨⟨3, true, false, false, true⟩, 10, 4, 0x9A5, 1, 2, 0x84, 0x7F⟩ ∧
    decode .vx (word [(15, 26), (3, 23), (1, 22), (1, 19), (10, 15), (4, 12), (0x9a5, 0)]) (some 0x102847F) = .vsra ⟨⟨3, true, false, false, true⟩, 10, 4, 0x9A5, 1, 2, 0x84, 0x7F⟩ ∧
    decode .vx (word [(16, 26), (3, 23), (1, 22), (1, 19), (10, 15), (4, 12), (0x9a5, 0)]) (some 0x102847F) = .vcmp ⟨⟨3, true, false, false, true⟩, 10, 4, 0x9A5, 1, 2, 0x84, 0x7F⟩ ∧
    decode .vx (word [(17, 26), (3, 23), (1, 22), (1, 19), (10, 15), (4, 12), (0x9a5, 0)]) (some 0x102847F) = .vsel ⟨⟨3, true, false, false, true⟩, 10, 4, 0x9A5, 1, 2, 0x84, 0x7F⟩ ∧
    decode .vx (word [(18, 26), (3, 23), (1, 22), (1, 19), (10, 15), (4, 12), (0x9a5, 0)]) (some 0x102847F) = .vcvt ⟨⟨3, true, false, false, true⟩, 10, 4, 0x9A5, 1, 2, 0x84, 0x7F⟩ := by decide

/-- Every mnemonic of this group, its word written from the fields of VX (R258, R263). -/
theorem test_decode_vx1 :
    decode .vx (word [(19, 26), (3, 23), (1, 22), (1, 19), (10, 15), (4, 12), (0x9a5, 0)]) (some 0x102847F) = .vqblk ⟨⟨3, true, false, false, true⟩, 10, 4, 0x9A5, 1, 2, 0x84, 0x7F⟩ ∧
    decode .vx (word [(20, 26), (3, 23), (1, 22), (1, 19), (10, 15), (4, 12), (0x9a5, 0)]) (some 0x102847F) = .vrcp ⟨⟨3, true, false, false, true⟩, 10, 4, 0x9A5, 1, 2, 0x84, 0x7F⟩ ∧
    decode .vx (word [(21, 26), (3, 23), (1, 22), (1, 19), (10, 15), (4, 12), (0x9a5, 0)]) (some 0x102847F) = .vrsq ⟨⟨3, true, false, false, true⟩, 10, 4, 0x9A5, 1, 2, 0x84, 0x7F⟩ ∧
    decode .vx (word [(22, 26), (3, 23), (1, 22), (1, 19), (10, 15), (4, 12), (0x9a5, 0)]) (some 0x102847F) = .vexp2 ⟨⟨3, true, false, false, true⟩, 10, 4, 0x9A5, 1, 2, 0x84, 0x7F⟩ ∧
    decode .vx (word [(23, 26), (3, 23), (1, 22), (1, 19), (10, 15), (4, 12), (0x9a5, 0)]) (some 0x102847F) = .vlog2 ⟨⟨3, true, false, false, true⟩, 10, 4, 0x9A5, 1, 2, 0x84, 0x7F⟩ ∧
    decode .vx (word [(24, 26), (3, 23), (1, 22), (1, 19), (10, 15), (4, 12), (0x9a5, 0)]) (some 0x102847F) = .vtie ⟨⟨3, true, false, false, true⟩, 10, 4, 0x9A5, 1, 2, 0x84, 0x7F⟩ ∧
    decode .vx (word [(25, 26), (3, 23), (1, 22), (1, 19), (10, 15), (4, 12), (0x9a5, 0)]) (some 0x102847F) = .vtld ⟨⟨3, true, false, false, true⟩, 10, 4, 0x9A5, 1, 2, 0x84, 0x7F⟩ ∧
    decode .vx (word [(26, 26), (3, 23), (1, 22), (1, 19), (10, 15), (4, 12), (0x9a5, 0)]) (some 0x102847F) = .vred ⟨⟨3, true, false, false, true⟩, 10, 4, 0x9A5, 1, 2, 0x84, 0x7F⟩ ∧
    decode .vx (word [(27, 26), (3, 23), (1, 22), (1, 19), (10, 15), (4, 12), (0x9a5, 0)]) (some 0x102847F) = .vbcast ⟨⟨3, true, false, false, true⟩, 10, 4, 0x9A5, 1, 2, 0x84, 0x7F⟩ ∧
    decode .vx (word [(28, 26), (3, 23), (1, 22), (1, 19), (10, 15), (4, 12), (0x9a5, 0)]) (some 0x102847F) = .vperm ⟨⟨3, true, false, false, true⟩, 10, 4, 0x9A5, 1, 2, 0x84, 0x7F⟩ ∧
    decode .vx (word [(29, 26), (3, 23), (1, 22), (1, 19), (10, 15), (4, 12), (0x9a5, 0)]) (some 0x102847F) = .vpack ⟨⟨3, true, false, false, true⟩, 10, 4, 0x9A5, 1, 2, 0x84, 0x7F⟩ ∧
    decode .vx (word [(30, 26), (3, 23), (1, 22), (1, 19), (10, 15), (4, 12), (0x9a5, 0)]) (some 0x102847F) = .vunpk ⟨⟨3, true, false, false, true⟩, 10, 4, 0x9A5, 1, 2, 0x84, 0x7F⟩ ∧
    decode .vx (word [(31, 26), (3, 23), (1, 22), (1, 19), (10, 15), (4, 12), (0x9a5, 0)]) (some 0x102847F) = .vmov ⟨⟨3, true, false, false, true⟩, 10, 4, 0x9A5, 1, 2, 0x84, 0x7F⟩ ∧
    decode .vx (word [(32, 26), (3, 23), (1, 22), (1, 19), (10, 15), (4, 12), (0x9a5, 0)]) (some 0x102847F) = .vidx ⟨⟨3, true, false, false, true⟩, 10, 4, 0x9A5, 1, 2, 0x84, 0x7F⟩ ∧
    decode .vx (word [(33, 26), (3, 23), (1, 22), (1, 19), (10, 15), (4, 12), (0x9a5, 0)]) (some 0x102847F) = .vwin ⟨⟨3, true, false, false, true⟩, 10, 4, 0x9A5, 1, 2, 0x84, 0x7F⟩ ∧
    decode .vx (word [(34, 26), (3, 23), (1, 22), (1, 19), (10, 15), (4, 12), (0x9a5, 0)]) (some 0x102847F) = .vamax ⟨⟨3, true, false, false, true⟩, 10, 4, 0x9A5, 1, 2, 0x84, 0x7F⟩ ∧
    decode .vx (word [(35, 26), (3, 23), (1, 22), (1, 19), (10, 15), (4, 12), (0x9a5, 0)]) (some 0x102847F) = .vrng ⟨⟨3, true, false, false, true⟩, 10, 4, 0x9A5, 1, 2, 0x84, 0x7F⟩ ∧
    decode .vx (word [(36, 26), (3, 23), (1, 22), (1, 19), (10, 15), (4, 12), (0x9a5, 0)]) (some 0x102847F) = .vclr ⟨⟨3, true, false, false, true⟩, 10, 4, 0x9A5, 1, 2, 0x84, 0x7F⟩ := by decide

/-- Every mnemonic of this group, its word written from the fields of XA, XR and XK (R258, R264, R268, R373–R378). -/
theorem test_decode_mx :
    decode .mx (word [(1, 26), (3, 23), (1, 22), (1, 19), (100, 12), (5, 9), (6, 6), (1, 5)]) none = .mma ⟨⟨3, true, false, false, true⟩, none⟩ 100 5 6 true ∧
    decode .mx (word [(2, 26), (3, 23), (1, 22), (1, 19), (100, 12), (5, 9), (6, 6), (1, 5)]) (some 0x12345678) = .mmas ⟨⟨3, true, false, false, true⟩, some 0x12345678⟩ 100 5 6 true ∧
    decode .mx (word [(3, 26), (3, 23), (1, 22), (1, 19), (100, 12), (5, 9), (6, 6), (1, 5)]) none = .mmax ⟨⟨3, true, false, false, true⟩, none⟩ 100 5 6 true ∧
    decode .mx (word [(4, 26), (3, 23), (1, 22), (1, 19), (100, 12), (5, 9), (6, 6), (1, 5)]) (some 0x12345678) = .mtile ⟨⟨3, true, false, false, true⟩, some 0x12345678⟩ 100 5 6 true ∧
    decode .mx (word [(5, 26), (3, 23), (1, 22), (1, 19), (13, 0), (2, 4)]) none = .mbsel ⟨⟨3, true, false, false, true⟩, none⟩ 2 13 ∧
    decode .mx (word [(6, 26), (3, 23), (1, 22), (1, 19), (99, 12), (31, 0)]) none = .maclr ⟨⟨3, true, false, false, true⟩, none⟩ 99 31 ∧
    decode .mx (word [(7, 26), (3, 23), (1, 22), (1, 19), (99, 12), (70, 5), (30, 0)]) (some 0x12345678) = .macmv ⟨⟨3, true, false, false, true⟩, some 0x12345678⟩ 99 70 30 ∧
    decode .mx (word [(8, 26), (3, 23), (1, 22), (1, 19), (11, 0)]) none = .mwake ⟨⟨3, true, false, false, true⟩, none⟩ 11 ∧
    decode .mx (word [(9, 26), (3, 23), (1, 22), (1, 19), (2, 17), (77, 10), (12, 6), (13, 2)]) none = .mmsk ⟨⟨3, true, false, false, true⟩, none⟩ 2 77 12 13 ∧
    decode .mx (word [(10, 26), (3, 23), (1, 22), (1, 19), (1, 17), (0x7d0, 0)]) none = .mscl ⟨⟨3, true, false, false, true⟩, none⟩ 1 2000 ∧
    decode .mx (word [(11, 26), (3, 23), (1, 22), (1, 19), (96, 12), (64, 5), (3, 0)]) none = .mtrn ⟨⟨3, true, false, false, true⟩, none⟩ 96 64 3 ∧
    decode .mx (word [(12, 26), (3, 23), (1, 22), (1, 19), (6, 9)]) none = .mspx ⟨⟨3, true, false, false, true⟩, none⟩ 6 := by decide

/-- Every mnemonic of this group, its word written from the fields of SF, SB, SC, SP, SS, SD and SX (R258, R265, R268). -/
theorem test_decode_sq :
    decode .sq (word [(1, 26), (3, 23), (1, 22), (1, 19), (5, 16), (99, 3)]) none = .sopdef ⟨⟨3, true, false, false, true⟩, none⟩ 5 99 ∧
    decode .sq (word [(2, 26), (3, 23), (1, 22), (1, 19), (5, 16), (40, 10), (99, 3)]) none = .scan ⟨⟨3, true, false, false, true⟩, none⟩ 5 40 99 ∧
    decode .sq (word [(3, 26), (3, 23), (1, 22), (1, 19), (5, 16), (40, 10), (99, 3)]) (some 0x12345678) = .sup ⟨⟨3, true, false, false, true⟩, some 0x12345678⟩ 5 40 99 ∧
    decode .sq (word [(4, 26), (3, 23), (1, 22), (1, 19), (5, 16), (40, 10), (99, 3)]) none = .sdn ⟨⟨3, true, false, false, true⟩, none⟩ 5 40 99 ∧
    decode .sq (word [(5, 26), (3, 23), (1, 22), (1, 19), (5, 16), (40, 10), (99, 3)]) none = .sxsc ⟨⟨3, true, false, false, true⟩, none⟩ 5 40 99 ∧
    decode .sq (word [(6, 26), (3, 23), (1, 22), (1, 19), (5, 16), (70, 9), (99, 2)]) none = .slbk ⟨⟨3, true, false, false, true⟩, none⟩ 5 70 99 ∧
    decode .sq (word [(7, 26), (3, 23), (1, 22), (1, 19), (200, 11), (201, 3), (6, 0)]) none = .scsnd ⟨⟨3, true, false, false, true⟩, none⟩ 200 201 6 ∧
    decode .sq (word [(8, 26), (3, 23), (1, 22), (1, 19), (200, 11), (201, 3), (6, 0)]) none = .scrcv ⟨⟨3, true, false, false, true⟩, none⟩ 200 201 6 ∧
    decode .sq (word [(9, 26), (3, 23), (1, 22), (1, 19), (50, 13)]) none = .pbind ⟨⟨3, true, false, false, true⟩, none⟩ 50 ∧
    decode .sq (word [(9, 26), (3, 23), (1, 22), (1, 19), (50, 13), (51, 7), (1, 6)]) none = .pbindPair ⟨⟨3, true, false, false, true⟩, none⟩ 50 51 ∧
    decode .sq (word [(10, 26), (3, 23), (1, 22), (1, 19), (50, 13)]) none = .punb ⟨⟨3, true, false, false, true⟩, none⟩ 50 ∧
    decode .sq (word [(11, 26), (3, 23), (1, 22), (1, 19), (50, 13), (15, 9), (99, 2)]) none = .pld ⟨⟨3, true, false, false, true⟩, none⟩ 50 15 99 ∧
    decode .sq (word [(12, 26), (3, 23), (1, 22), (1, 19), (50, 13), (15, 9), (99, 2)]) none = .pst ⟨⟨3, true, false, false, true⟩, none⟩ 50 15 99 ∧
    decode .sq (word [(13, 26), (3, 23), (1, 22), (1, 19), (50, 13), (15, 9), (5, 6), (63, 0)]) none = .step ⟨⟨3, true, false, false, true⟩, none⟩ 50 15 5 63 ∧
    decode .sq (word [(14, 26), (3, 23), (1, 22), (1, 19), (50, 13), (33, 7), (34, 1)]) none = .pspill ⟨⟨3, true, false, false, true⟩, none⟩ 50 33 34 false ∧
    decode .sq (word [(15, 26), (3, 23), (1, 22), (1, 19), (50, 13), (34, 1), (1, 0)]) none = .pfill ⟨⟨3, true, false, false, true⟩, none⟩ 50 0 34 true ∧
    decode .sq (word [(16, 26), (3, 23), (1, 22), (1, 19), (50, 13)]) none = .pshd ⟨⟨3, true, false, false, true⟩, none⟩ 50 := by decide

/-- Every mnemonic of this group, its word written from the fields of LK (R258, R267). -/
theorem test_decode_lk :
    decode .lk (word [(1, 26), (3, 23), (1, 22), (1, 20), (165, 11), (33, 5), (1, 2)]) (some 0x89E6EBCD) = .coll ⟨⟨3, true, false, true, false⟩, 0xA5, 33, false, false, true, 34, 3, true, 9, 11, 0x2BCD⟩ ∧
    decode .lk (word [(2, 26), (3, 23), (1, 22), (1, 20), (1, 4), (1, 3)]) (some 0x2018000) = .radd ⟨⟨3, true, false, true, false⟩, 0, 0, true, true, false, 0, 4, false, 0, 6, 0⟩ ∧
    decode .lk (word [(3, 26), (3, 23), (1, 22), (1, 20), (165, 11), (33, 5), (1, 2)]) (some 0x89E6EBCD) = .send ⟨⟨3, true, false, true, false⟩, 0xA5, 33, false, false, true, 34, 3, true, 9, 11, 0x2BCD⟩ ∧
    decode .lk (word [(4, 26), (3, 23), (1, 22), (1, 20), (1, 4), (1, 3)]) (some 0x2018000) = .recv ⟨⟨3, true, false, true, false⟩, 0, 0, true, true, false, 0, 4, false, 0, 6, 0⟩ ∧
    decode .lk (word [(5, 26), (3, 23), (1, 22), (1, 20), (165, 11), (33, 5), (1, 2)]) (some 0x89E6EBCD) = .put ⟨⟨3, true, false, true, false⟩, 0xA5, 33, false, false, true, 34, 3, true, 9, 11, 0x2BCD⟩ ∧
    decode .lk (word [(6, 26), (3, 23), (1, 22), (1, 20), (1, 4), (1, 3)]) (some 0x2018000) = .get ⟨⟨3, true, false, true, false⟩, 0, 0, true, true, false, 0, 4, false, 0, 6, 0⟩ ∧
    decode .lk (word [(7, 26), (3, 23), (1, 22), (1, 20), (165, 11), (33, 5), (1, 2)]) (some 0x89E6EBCD) = .append ⟨⟨3, true, false, true, false⟩, 0xA5, 33, false, false, true, 34, 3, true, 9, 11, 0x2BCD⟩ ∧
    decode .lk (word [(8, 26), (3, 23), (1, 22), (1, 20), (1, 4), (1, 3)]) (some 0x2018000) = .pred ⟨⟨3, true, false, true, false⟩, 0, 0, true, true, false, 0, 4, false, 0, 6, 0⟩ ∧
    decode .lk (word [(9, 26), (3, 23), (1, 22), (1, 20), (165, 11), (33, 5), (1, 2)]) (some 0x89E6EBCD) = .lbar ⟨⟨3, true, false, true, false⟩, 0xA5, 33, false, false, true, 34, 3, true, 9, 11, 0x2BCD⟩ ∧
    decode .lk (word [(10, 26), (3, 23), (1, 22), (1, 20), (1, 4), (1, 3)]) (some 0x2018000) = .grpdef ⟨⟨3, true, false, true, false⟩, 0, 0, true, true, false, 0, 4, false, 0, 6, 0⟩ ∧
    decode .lk (word [(11, 26), (3, 23), (1, 22), (1, 20), (165, 11), (33, 5), (1, 2)]) (some 0x89E6EBCD) = .lquiet ⟨⟨3, true, false, true, false⟩, 0xA5, 33, false, false, true, 34, 3, true, 9, 11, 0x2BCD⟩ ∧
    decode .lk (word [(12, 26), (3, 23), (1, 22), (1, 20), (1, 4), (1, 3)]) (some 0x2018000) = .lfence ⟨⟨3, true, false, true, false⟩, 0, 0, true, true, false, 0, 4, false, 0, 6, 0⟩ := by decide

/-- Every mnemonic of this group, its word written from the fields of logit words (R272, R407–R409). -/
theorem test_decode_logit :
    decode .logit (word [(1, 26), (13, 22)]) none = .lldl 13 ∧
    decode .logit (word [(2, 26), (13, 22), (12, 18)]) none = .lbias 13 12 ∧
    decode .logit (word [(3, 26), (13, 22), (12, 18), (6, 11), (2, 1)]) none = .lpen 13 12 6 2 ∧
    decode .logit (word [(4, 26), (13, 22), (12, 18), (6, 11)]) none = .ltemp 13 12 6 ∧
    decode .logit (word [(5, 26), (13, 22), (12, 18)]) none = .lmask 13 12 ∧
    decode .logit (word [(6, 26), (12, 18), (6, 11)]) none = .lmax 12 6 ∧
    decode .logit (word [(7, 26), (13, 22), (12, 18), (6, 11)]) none = .lsubx 13 12 6 ∧
    decode .logit (word [(8, 26), (12, 18), (6, 11), (1, 1)]) none = .lsum 12 6 1 ∧
    decode .logit (word [(9, 26), (13, 22), (12, 18)]) none = .llogp 13 12 ∧
    decode .logit (word [(10, 26), (13, 22), (12, 18), (6, 11)]) none = .ltopk 13 12 6 ∧
    decode .logit (word [(11, 26), (13, 22), (12, 18), (6, 11)]) none = .ltopp 13 12 6 ∧
    decode .logit (word [(12, 26), (13, 22), (12, 18), (6, 11)]) none = .lminp 13 12 6 ∧
    decode .logit (word [(13, 26), (13, 22), (12, 18)]) none = .lgumb 13 12 ∧
    decode .logit (word [(14, 26), (12, 18), (6, 11)]) none = .larg 12 6 ∧
    decode .logit (word [(15, 26), (13, 22), (12, 18), (11, 14), (5, 1)]) none = .lcmp 13 12 11 5 ∧
    decode .logit (word [(15, 26), (13, 22), (12, 18), (6, 11), (13, 1)]) none = .lcmpK 13 12 6 5 ∧
    decode .logit (word [(16, 26), (13, 22), (12, 18), (11, 14), (10, 1)]) none = .lsel 13 12 11 10 ∧
    decode .logit (word [(17, 26), (13, 22), (12, 18)]) none = .lmov 13 12 ∧
    decode .logit (word [(17, 26), (13, 22), (6, 11), (1, 1)]) none = .lmovK 13 6 ∧
    decode .logit (word [(18, 26), (6, 11), (4, 1)]) none = .lldk 6 4 ∧
    decode .logit (word [(18, 26), (6, 11), (1, 0)]) (some 0xC0FFEE00) = .lldkLit 6 0 0xC0FFEE00 ∧
    decode .logit (word [(19, 26), (13, 22)]) none = .lcnt 13 ∧
    decode .logit (word [(20, 26), (6, 11), (0x3fb, 1)]) none = .lskip 6 63 1 3 ∧
    decode .logit (word [(21, 26), (12, 18), (11, 14)]) none = .lemit 12 11 ∧
    decode .logit (word [(22, 26), (6, 11), (4, 1)]) none = .lgrp 6 4 ∧
    decode .logit (word [(22, 26), (13, 22), (12, 18), (5, 1)]) none = .lgrpAddcum 13 12 ∧
    decode .logit (word [(23, 26)]) none = .lend ∧
    decode .logit (word [(24, 26), (13, 22), (12, 18), (11, 14)]) none = .ladd 13 12 11 ∧
    decode .logit (word [(24, 26), (13, 22), (12, 18), (6, 11), (1, 1)]) none = .laddK 13 12 6 := by decide
/-- Opcode 0x00, an opcode above the last one and a bit that must be 0 are no row of the table (R260, R270). -/
theorem test_decode_unassigned :
    decode .ct 0 none = .unassignedOpcode .ct 0 none ∧ decode .ct (word [(0x3D, 26)]) none = .unassignedOpcode .ct (word [(0x3D, 26)]) none ∧
    decode .ld (word [(0x0B, 26)]) none = .unassignedOpcode .ld (word [(0x0B, 26)]) none ∧
    decode .st (word [(0x09, 26)]) none = .unassignedOpcode .st (word [(0x09, 26)]) none ∧
    decode .vx (word [(0x25, 26)]) (some 0) = .unassignedOpcode .vx (word [(0x25, 26)]) (some 0) ∧
    decode .mx (word [(0x0D, 26)]) none = .unassignedOpcode .mx (word [(0x0D, 26)]) none ∧
    decode .sq (word [(0x11, 26)]) none = .unassignedOpcode .sq (word [(0x11, 26)]) none ∧
    decode .logit (word [(0x19, 26)]) none = .unassignedOpcode .logit (word [(0x19, 26)]) none ∧
    decode .ct (word [(0x2C, 26), (1, 3)]) none = .unassignedOpcode .ct (word [(0x2C, 26), (1, 3)]) none ∧
    decode .mx (word [(0x05, 26), (1, 6)]) none = .unassignedOpcode .mx (word [(0x05, 26), (1, 6)]) none := by decide

/-! ### Well-formedness: for each check a term that it refuses -/

def tok0 : Tok := ⟨0, false, false, false, false⟩
def mt0 : MTok := ⟨tok0, none⟩
/-- A VX word with row operands v0 and the fields ET, RND and FN. -/
def vxo (et : BitVec 4) (rnd : BitVec 3) (fn : BitVec 12) (d a b c : BitVec 8) : VxOp := ⟨tok0, et, rnd, fn, d, a, b, c⟩

/-- CT: a queue number above 3 (R261), a scope above 4 (R172), a sign-extended 8-byte load, and the reserved operands of R261 and R271. -/
theorem test_wf_refuses_ct :
    ([.add ⟨4, 0, 0, true, false, false⟩, .sub ⟨0, 5, 0, false, true, false⟩, .mul ⟨0, 0, 31, false, false, true⟩, .lds ⟨0, 0, 3, true, 0⟩,
      .fence 1 5, .cmo 3 0 0 0, .semw ⟨0, 0, 0, 6⟩, .sems ⟨0, 0, 0, 7⟩, .mlcb 0 1, .loop 1 0, .rdid 1 7, .srr 1 0x004, .srw 1 0x083, .mova 88 1] : List Instr).all
      (fun i => !wellFormed i) = true := by decide

/-- LD and ST: a row name or a number above its limit (R262), and a mask row beyond v127 (R332). -/
theorem test_wf_refuses_ld_st :
    ([.ldv ⟨0, false, false, 0, 0, 0, 0x80⟩, .ldq ⟨0, false, false, 0, 0, 0, 0x84⟩, .ldt ⟨0, false, false, 0, 0, 0x88⟩, .ldg ⟨0, false, false, 0, 0, 0, 0x7F⟩, .ldb ⟨0, false, false, 0, 0, 16⟩,
      .ldsc ⟨0, false, false, 0, 0, 0, 16⟩, .ldp ⟨0, false, false, 0, 0, 0, 64⟩, .ldx ⟨0, false, false, 0, 0, 0, 0x84⟩, .ldbc ⟨0, false, false, 0, 0, 0, 0x80⟩,
      .stv ⟨tok0, 0, 0, 0, 0x83⟩, .stq ⟨tok0, 0, 0, 0, 0⟩, .stt ⟨tok0, 0, 0, 0xFF⟩, .sct ⟨tok0, 0, 0, 0, 0x83⟩, .stp ⟨tok0, 0, 0, 0, 64⟩, .stc ⟨tok0, 0, 0, 0, 0x84⟩,
      .stm ⟨tok0, 0, 0, 0, 0x7F⟩] : List Instr).all (fun i => !wellFormed i) = true := by decide

/-- CE and LK: the required zeros of R267, the spaces and OPX of R334, the channel that a command needs, and the right neighbour that LK lacks. -/
theorem test_wf_refuses_ce_lk :
    ([.copy ⟨0, 1, 0, 0, true, false, false, false, 0, 0, 0⟩, .copy ⟨0, 0, 1, 0, false, true, false, false, 0, 0, 0⟩, .copya ⟨1, 0, 0, 0, false, false, false, false, 0, 0, 0⟩,
      .fill ⟨0, 0, 0, 0, false, false, false, false, 1, 0, 0⟩, .fill ⟨0, 0, 0, 5, false, false, false, false, 0, 0, 0⟩, .fill ⟨0, 0, 0, 0, false, false, false, false, 0, 0x20, 0⟩,
      .copy ⟨0, 0, 0, 0, false, false, false, false, 0, 0x40, 0⟩, .copy ⟨0, 0, 0, 0, false, false, false, false, 0, 0x10, 0⟩, .accw ⟨0, 0, 0, 0, false, false, true, false, 0, 0x18, 0⟩,
      .xadd ⟨0, 0, 0, 0, false, false, false, false, 0, 4, 0⟩, .cas ⟨0, 0, 0, 0, false, false, false, false, 0, 0x20, 0⟩, .mcast ⟨0, 0, 0, 0, false, false, false, false, 0, 0x10, 0⟩,
      .msend ⟨0, 0, 0, 0, false, false, false, false, 0, 0, 0⟩, .mrecv ⟨0, 0, 0, 0, false, true, true, false, 0, 0, 0⟩, .cmoa ⟨0, 0, 0, 0, false, false, false, false, 0, 3, 0⟩,
      .pfb ⟨0, 0, 0, 0, false, false, false, false, 0, 1, 0⟩, .ceflush ⟨0, 0, 0, 0, false, false, false, false, 0, 2, 0⟩,
      .coll ⟨tok0, 0, 0, false, false, true, 0, 0, false, 0, 1, 0⟩, .radd ⟨tok0, 0, 0, false, false, true, 0, 0, false, 0, 11, 0⟩, .send ⟨tok0, 0, 0, false, false, false, 0, 0, false, 0, 0, 0⟩,
      .recv ⟨⟨0, false, true, false, false⟩, 0, 0, false, false, true, 0, 0, false, 0, 0, 0⟩, .put ⟨tok0, 0, 0, false, false, true, 0, 0, false, 0, 2, 0⟩,
      .get ⟨tok0, 0, 0, true, false, true, 0, 0, false, 0, 0, 1⟩, .append ⟨tok0, 0, 0, false, true, true, 1, 0, false, 0, 0, 0⟩, .pred ⟨tok0, 0, 0, false, false, true, 0, 5, false, 0, 0, 0⟩,
      .lbar ⟨tok0, 0, 0, false, false, true, 0, 0, false, 1, 0, 0⟩, .grpdef ⟨tok0, 0, 0, false, false, true, 0, 0, false, 0, 2, 0⟩,
      .lquiet ⟨tok0, 0, 0, false, false, true, 0, 0, false, 0, 0, 0⟩, .lfence ⟨tok0, 1, 0, false, false, false, 0, 0, false, 0, 0, 0⟩] : List Instr).all
      (fun i => !wellFormed i) = true := by decide

/-- VX: an element type outside the set of R347, a rounding mode a word does not take, FN bits that must be 0, row names and the limits of R348 to R363. -/
theorem test_wf_refuses_vx :
    ([.vadd (vxo 3 0 0 0 0 0 0), .vadd (vxo 6 1 0 0 0 0 0), .vsub (vxo 0 5 0 0 0 0 0), .vmul (vxo 0 0 2 0 0 0 0), .vfma (vxo 0 0 0 0 0 0 0x80), .vfms (vxo 0 0 0 0x88 0 0 0),
      .vmax (vxo 0 1 0 0 0 0 0), .vmin (vxo 0 0 0 0 0 0 1), .vabs (vxo 0 0 1 0 0 0 0), .vneg (vxo 0 0 0 0 0 1 0), .vand (vxo 1 0 0 0 0 0 0), .vor (vxo 0 0 1 0 0 0 0), .vxor (vxo 0 0 0 0 0x83 0 0),
      .vshl (vxo 0 0 0 0 0 0 0), .vshr (vxo 10 0 0x801 0 0 1 0), .vsra (vxo 10 0 1 0 0 0 0), .vcmp (vxo 0 0 7 0 0 0 0), .vcmp (vxo 10 0 6 0 0 0 0), .vsel (vxo 5 0 0 0 0 0 0),
      .vcvt (vxo 12 0 0 0 0 0 0), .vcvt (vxo 0 0 0x40 0 0 0 0), .vcvt (vxo 3 0 0x200 0 0 0 0), .vqblk (vxo 3 0 0x200 0 0 0 0), .vrcp (vxo 3 0 0 0 0 0 0), .vrsq (vxo 0 0 1 0 0 0 0),
      .vexp2 (vxo 0 5 0 0 0 0 0), .vlog2 (vxo 0 0 0 0 0 1 0), .vtie (vxo 0 0 4 0 0 0 0), .vtld (vxo 0 0 0 1 0 0 0), .vred (vxo 0 0 3 0 0 0 0), .vred (vxo 0 0 8 0x80 0 0 0),
      .vbcast (vxo 0 0 128 0 0 0 0), .vperm (vxo 0 0 0 0 0 1 0), .vpack (vxo 0 0 0x200 0 0 0 0), .vunpk (vxo 0 0 1 0 0 0 0), .vmov (vxo 1 0 0 0 0 0 0), .vidx (vxo 1 0 0 0 0 0 0),
      .vwin (vxo 0 0 0 0 129 0 0), .vwin (vxo 0 0 4 0 4 0 0), .vamax (vxo 6 0 0 0 0 0 0), .vrng (vxo 0 0 0 0 0 0 0), .vclr (vxo 0 0 0 0 1 0 0)] : List Instr).all
      (fun i => !wellFormed i) = true := by decide

/-- MX, SQ and logit words: element types, accumulator ranges and modes that R369 to R378, R388 and R407 to R409 reserve. -/
theorem test_wf_refuses_mx_sq_logit :
    ([.mma mt0 0 0 4 false, .mmas mt0 0 0 7 false, .mmax mt0 0 0 2 false, .mtile mt0 0 0 4 false, .maclr mt0 100 31, .macmv mt0 0 127 1, .mmsk mt0 3 0 0 0, .mmsk mt0 0 1 0 0,
      .mmsk mt0 1 0 1 0, .mtrn mt0 97 0 0, .mtrn mt0 0 97 0, .pspill mt0 0 1 0 true, .pfill mt0 0 1 0 true,
      .lpen 0 0 0 3, .lcmp 0 0 0 7, .lcmpK 0 0 0 7, .lldk 0 6, .lldkLit 0 1 0, .lskip 0 0 0 0, .lskip 0 1 0 5, .lskip 1 1 0 4, .lgrp 0 5,
      .unassignedOpcode .ct 0 none] : List Instr).all (fun i => !wellFormed i) = true := by decide

/-! ### States that meet the hypotheses of the statements

Tile 0 stands alone on die 0; each state is small, and what it lists beside the reset values is what its statement asks for. -/

/-- Tile 0 with the word that acts at an address of a column; CT is in service mode and the sub-arrays are ungated. -/
def at0 (c : Col) (f : Tile → Tile) : State :=
  { State.reset.modTile 0 (fun t => f { t with run := true, cnt := 128, ct := { t.ct with mode := false, clk := 128 }, mx := { t.mx with gated := 0 } }) with cur := ⟨0, c, ⟨0x1004, 0, none⟩, false⟩ }
/-- The same with CT as f makes it. -/
def ctAt (f : Ct → Ct) : State := at0 .ct (fun t => { t with ct := f t.ct })
/-- In the handler. -/
def hdlAt (f : Ct → Ct) : State := ctAt (fun c => f { c with handler := true, mode := true })
/-- The tile of a state that acts. -/
def me (s : State) : Tile := s.tile s.cur.tile

theorem ctStarts_of (s : State) (k : Needs)
    (h : (!(me s).faulted .ct && decide ((me s).ct.busy ≤ (me s).ct.clk) && (me s).has k && (me s).ct.loops.isEmpty) = true) : CtStarts s k := by
  simp only [Bool.and_eq_true, Bool.not_eq_true', decide_eq_true_eq, List.isEmpty_iff] at h
  exact ⟨h.1.1.1, h.1.1.2, h.1.2, fun e r q => by simp [me] at h; simp [h.2] at q⟩

/-- The same inside a loop: the word does not lie behind the end of the top entry. -/
theorem ctStarts_of' (s : State) (k : Needs) (h : (!(me s).faulted .ct && decide ((me s).ct.busy ≤ (me s).ct.clk) && (me s).has k) = true)
    (hl : (match (me s).ct.loops with | [] => true | e :: _ => decide (s.cur.q.addr ≤ e.last)) = true) : CtStarts s k := by
  simp only [Bool.and_eq_true, Bool.not_eq_true', decide_eq_true_eq] at h
  exact ⟨h.1.1, h.1.2, h.2, fun e r q => by simp [me] at hl; simpa [q] using hl⟩

/-- An unstamped word of a synchronous column issues. -/
theorem syncStarts_of (s : State) (dly : BitVec 3) (k : Needs)
    (h : (!(me s).faulted s.cur.col && ((me s).col s.cur.col).ackKey.isNone && !s.cur.body && decide ((me s).eligibleAt s.cur.col dly ≤ (me s).cnt) && (me s).has k &&
      decide ((me s).mx.gated = 0)) = true) : SyncStarts s dly none k s := by
  simp only [Bool.and_eq_true, Bool.not_eq_true', decide_eq_true_eq, Option.isNone_iff_eq_none] at h
  exact ⟨h.1.1.1.1.1, h.1.1.1.1.2, .inr (.inl ⟨h.1.1.1.2, h.1.1.2, rfl, h.1.2, fun _ => h.2, rfl⟩)⟩

/-- A gang of 2^k tiles from flight number 0 that runs. -/
def gang (k : Nat) (rec_ : List Word) : Gang := ⟨0, k, 0, 0, 0, rec_, .running, 0, [], [], 0, none, none, none, 0, 0, false, false, [], 0, 0, none⟩
def inGang (k : Nat) (s : State) : State := { s with gangs := [gang k []] }

/-! CT -/

def cr0 : CrOp := ⟨31, 1, 2, false, false, false⟩
theorem witness_AluWordsComplete : CtStarts (ctAt id) (crNeeds cr0) ∧ crWf cr0 = true ∧
    CtStarts (at0 .ct (fun t => { t with qs := { t.qs with q := [(3, [5])] } })) (crNeeds ⟨0, 3, 2, true, true, false⟩) :=
  ⟨ctStarts_of _ _ (by decide), by decide, ctStarts_of _ _ (by decide)⟩

theorem witness_ImmediateWordsComplete : CtStarts (ctAt id) (gNeeds [1] [31]) ∧ CtStarts (ctAt id) (gNeeds [0] [0]) :=
  ⟨ctStarts_of _ _ (by decide), ctStarts_of _ _ (by decide)⟩

/-- The target of a branch at 0x1004, at the last word of the locked region and at the first behind it. -/
theorem witness_BranchesComplete : CtStarts (hdlAt id) (gNeeds [1, 2] []) ∧ (me (hdlAt id)).ct.handler = true ∧
    (BitVec.ofNat 64 0x1004 + ((0x3FE : BitVec 16).signExtend 64 <<< 2) : Word).toNat = 0x1FFC ∧
    (BitVec.ofNat 64 0x1004 + ((0x3FF : BitVec 16).signExtend 64 <<< 2) : Word).toNat = 0x2000 ∧ CtStarts (ctAt (fun c => { c with g := [(1, 5)] })) (gNeeds [1, 2] []) ∧
    (me (ctAt (fun c => { c with g := [(1, 5)] }))).g 1 ≠ (me (ctAt (fun c => { c with g := [(1, 5)] }))).g 2 :=
  ⟨ctStarts_of _ _ (by decide), by decide, by decide, by decide, ctStarts_of _ _ (by decide), by decide⟩

theorem witness_JumpsComplete : CtStarts (ctAt id) (gNeeds [] [31]) ∧ CtStarts (hdlAt id) (gNeeds [1] [31]) ∧
    ((me (ctAt (fun c => { c with g := [(1, 0x1FFC)] }))).g 1 + (4 : BitVec 16).signExtend 64).toNat = 0x2000 ∧
    ((me (ctAt (fun c => { c with g := [(1, 0x1FFC)] }))).g 1 + (3 : BitVec 16).signExtend 64).toNat % 4 = 3 :=
  ⟨ctStarts_of _ _ (by decide), ctStarts_of _ _ (by decide), by decide, by decide⟩

/-- A page of 64 KiB of partition 0 at die offset 0, read, written and executed, and g1 = 0x40. -/
def leaf0 : Tlb := ⟨0, 0, 0, 16, 0, 0x1000000100DD#64⟩
def paged (s : State) : State := s.modDie 0 (fun x => { x with tlb := [leaf0] })
def memAt : State := paged (ctAt (fun c => { c with g := [(1, 0x40)] }))
/-- The sector of address 0x40 lies in the data cache. -/
def cachedAt : State := paged (at0 .ct (fun t => { t with ct := { t.ct with g := [(1, 0x40)] }, cache := [(sectorKey 0x40, ⟨true, 7, 0, true, true, none⟩)] }))

/-- A misaligned address, a hit, and an access that the slice answers; a store that stays in the cache; and a store to the mailbox window. -/
theorem witness_ScalarMemoryCompletes : CtStarts memAt (gNeeds [1] [2]) ∧ wellFormed (.lds ⟨2, 1, 3, false, 0⟩) = true ∧
    ((me memAt).g 1 + (4 : BitVec 13).signExtend 64).toNat % 8 ≠ 0 ∧ ((me memAt).g 1 + (0 : BitVec 13).signExtend 64).toNat % 8 = 0 ∧ (me cachedAt).hits 0x40 8 = true ∧
    (∃ s' bs hit, memAt.tileRead 0 0x40 8 false = (s', .ok (bs, hit))) ∧ cachedAt.storeCheck 0 0x40 8 false noneWhole = (cachedAt, .ok (.cached true true none)) ∧ cachedAt.cacheRoom 0 0x40 0x40 8 = cachedAt ∧
    CtStarts (hdlAt (fun c => { c with g := [(1, 0xFF00000000000018)] })) (gNeeds [1, 2] []) ∧ inMailbox 0xFF00000000000018 = true ∧
    (hdlAt (fun c => { c with g := [(1, 0xFF00000000000018)] })).priorMet 0 0xF = true :=
  ⟨ctStarts_of _ _ (by decide), by decide, by decide, by decide, by decide, ⟨_, _, _, rfl⟩, rfl, rfl, ctStarts_of _ _ (by decide), by decide, by decide⟩

/-- A direct store that has issued and still waits. -/
def busyStore : State := at0 .ct (fun t => { t with pend := [⟨0, 49, .coStore 0 0 0 [] 0 [] 7 []⟩] })

/-- `FENCE` at a scope and with a mask that touch the cache; `CMO` of the last byte of the address space, of one beyond it and of none. -/
theorem witness_OrderingWordsComplete : CtStarts (ctAt id) Needs.none ∧ scopeOk 4 = true ∧ (ctAt id).priorMet 0 0xF = true ∧ busyStore.priorMet 0 0xF = false ∧ touchesCache 3 4 = true ∧
    CtStarts (ctAt (fun c => { c with g := [(1, 0x1FFFFFFFFFFFFFF), (2, 1)] })) (gNeeds [1, 2] []) ∧ (0x1FFFFFFFFFFFFFF + 1 - 1 : Nat) < 2 ^ 57 ∧ 2 ^ 57 ≤ (0x1FFFFFFFFFFFFFF + 2 - 1 : Nat) :=
  ⟨ctStarts_of _ _ (by decide), by decide, by decide, by decide, by decide, ctStarts_of _ _ (by decide), by decide, by decide⟩

/-- A threshold equal to the count, whose high half is ignored, and one above it. -/
theorem witness_SemaphoreWordsComplete :
    let s := at0 .ct (fun t => { t with ct := { t.ct with g := [(1, 0xFFFFFFFF00000005), (2, 6)] }, qs := { t.qs with sm := [(4, 5)] } });
    CtStarts s (gNeeds [1] []) ∧ ((me s).g 1).toNat % 2 ^ 32 = ((me s).sem 4).toNat ∧ ((me s).sem 4).toNat < ((me s).g 2).toNat % 2 ^ 32 ∧ s.priorMet 0 0 = true ∧
    CtStarts s (gNeeds [] [3]) := ⟨ctStarts_of _ _ (by decide), by decide, by decide, by decide, ctStarts_of _ _ (by decide)⟩

theorem witness_EventWordsComplete :
    CtStarts (ctAt (fun c => { c with latch := true })) Needs.none ∧ (me (ctAt (fun c => { c with latch := true }))).ct.latch = true ∧
    (let s := inGang 0 (ctAt id); CtStarts s Needs.none ∧ (me s).service = true ∧ s.gangOf 0 = some (gang 0 [])) ∧
    (let s := inGang 1 (ctAt id); CtStarts s Needs.none ∧ s.gangOf 0 = some (gang 1 []) ∧ (me s).ct.released = false ∧ (me s).ct.joined = false) ∧
    (let s := inGang 1 (ctAt (fun c => { c with released := true })); CtStarts s Needs.none ∧ (me s).ct.released = true) :=
  ⟨ctStarts_of _ _ (by decide), by decide, ⟨ctStarts_of _ _ (by decide), by decide, by decide⟩,
    ⟨ctStarts_of _ _ (by decide), by decide, by decide, by decide⟩, ⟨ctStarts_of _ _ (by decide), by decide⟩⟩

theorem witness_ProgressWordsComplete :
    (let s := inGang 0 (ctAt id); CtStarts s (gNeeds [1] []) ∧ (me s).service = true ∧ s.gangOf 0 = some (gang 0 []) ∧ (me s).id.prog = 0 ∧ (me s).drained = true ∧
      (gang 0 []).done.length + 1 = 2 ^ (gang 0 []).log2 ∧ (gang 1 []).done.length + 1 ≠ 2 ^ (gang 1 []).log2) ∧
    (let s := inGang 0 (paged (at0 .ct (fun t => { t with id := { t.id with prog := 0x40 } }))); CtStarts s (gNeeds [1] []) ∧ (me s).id.prog ≠ 0 ∧ s.priorMet 0 0xF = true ∧ s.cutOff 0 0x40 = false ∧
      ∃ s' pa attr rd wr, (s.knows 0 0xF).check 0 0x40 8 .wr noneWhole = (s', .ok pa attr rd wr)) :=
  ⟨⟨ctStarts_of _ _ (by decide), by decide, by decide, by decide, by decide, by decide, by decide⟩, ctStarts_of _ _ (by decide), by decide, by decide, by decide, ⟨_, _, _, _, _, rfl⟩⟩

/-- `MLOOP` at the ends of its ranges and one beyond each; a loop stack of three entries and of four. -/
theorem witness_LoopWordsComplete :
    (let s := ctAt (fun c => { c with g := [(1, 0xFFFFFFFF), (2, 0x100000000)] }); CtStarts s (gNeeds [1] []) ∧ (me s).service = true ∧ mloopOk 32 64 16 = true ∧ mloopOk 33 64 16 = false ∧
      mloopOk 1 1 1 = true ∧ mloopOk 1 0 1 = false ∧ mloopOk 1 65 1 = false ∧ mloopOk 1 1 17 = false ∧ ((me s).g 1).toNat < 2 ^ 32 ∧ 2 ^ 32 ≤ ((me s).g 2).toNat ∧ (me s).fe.seqr.run = false) ∧
    (let s := at0 .ct (fun t => { t with fe := { t.fe with seqr := { t.fe.seqr with lcb := 9, lcbValid := true } } }); CtStarts s Needs.none ∧ (me s).fe.seqr.lcbValid = true) ∧
    (let s := { memAt with mem := [(0x10040, 1), (0x10048, 9)] }; CtStarts s (gNeeds [1] []) ∧ ((me s).g 1).toNat % 64 = 0 ∧
      ∃ s1 s2 fl c h1 h2, s.tileRead 0 0x40 8 true = (s1, .ok (fl, h1)) ∧ leNat fl = 1 ∧ (s1.acquireCache 0 0x1 4).tileRead 0 0x48 8 false = (s2, .ok (c, h2)) ∧ leNat c = 9) ∧
    (let s := ctAt (fun c => { c with mode := true, g := [(1, 3)] }); CtStarts s (gNeeds [1] []) ∧ (me s).maintenance = true ∧ (me s).g 1 ≠ 0 ∧ (me s).g 2 = 0 ∧ (me s).ct.loops = []) ∧
    (let e : LoopEnt := ⟨0x1000, 0x2000, 2⟩
     let s := ctAt (fun c => { c with mode := true, g := [(1, 3)], loops := [e, e, e, e] }); (me s).ct.loops.length = 4 ∧ (me s).has (gNeeds [1] []) = true ∧
      ∀ e r, (me s).ct.loops = e :: r → (me s).ct.loopStart = true ∨ s.cur.q.addr ≤ e.last) := by
  refine ⟨⟨ctStarts_of _ _ (by decide), by decide, by decide, by decide, by decide, by decide, by decide, by decide, by decide, by decide, by decide⟩,
    ⟨ctStarts_of _ _ (by decide), by decide⟩, ⟨ctStarts_of _ _ (by decide), by decide, ⟨_, _, _, _, _, _, rfl, by decide, rfl, by decide⟩⟩,
    ⟨ctStarts_of _ _ (by decide), by decide, by decide, by decide, by decide⟩, by decide, by decide, ?_⟩
  intro e r h
  cases h
  exact .inr (by decide)

theorem witness_RegisterWordsComplete : CtStarts (ctAt id) (gNeeds [] [3]) ∧ CtStarts (ctAt id) (gNeeds [1] []) ∧ sysKnown 0x000 = true ∧ sysKnown 0x082 = true ∧
    sysWritable 0x000 0 = false ∧ sysWritable 0x039 0 = true ∧ (87 : BitVec 7).toNat < 88 :=
  ⟨ctStarts_of _ _ (by decide), ctStarts_of _ _ (by decide), by decide, by decide, by decide, by decide, by decide⟩

/-! Traps -/

theorem witness_TrapEntry : ((ctAt id).tile 0).ct.handler = false ∧ (inGang 1 (ctAt id)).gangOf 0 = some (gang 1 []) := by decide
theorem witness_TrapInHandlerAborts : ((inGang 1 (hdlAt id)).tile 0).ct.handler = true ∧ (inGang 1 (hdlAt id)).gangOf 0 = some (gang 1 []) := by decide
theorem witness_TrapWordsComplete : CtStarts (ctAt id) Needs.none ∧ (me (ctAt id)).ct.handler = false ∧ (me (ctAt id)).ct.loops = [] ∧
    CtStarts (inGang 0 (hdlAt id)) Needs.none ∧ (me (inGang 0 (hdlAt id))).ct.handler = true ∧ (me (inGang 0 (hdlAt id))).ct.mode = true ∧ (inGang 0 (hdlAt id)).gangOf 0 = some (gang 0 []) ∧
    (let s := ctAt (fun c => { c with mode := true }); CtStarts s Needs.none ∧ (me s).ct.mode = true ∧ (me s).ct.handler = false) :=
  ⟨ctStarts_of _ _ (by decide), by decide, by decide, ctStarts_of _ _ (by decide), by decide, by decide, by decide, ctStarts_of _ _ (by decide), by decide, by decide⟩
theorem witness_ModeRestrictions : (me (ctAt id)).faulted .ct = false ∧ (me (ctAt id)).ct.busy ≤ (me (ctAt id)).ct.clk ∧ (me (hdlAt id)).service = false ∧ (me (ctAt id)).ct.mode = false ∧
    (me (ctAt id)).ct.handler = false := by decide
theorem witness_IllegalWordsTrap : (me (ctAt id)).faulted .ct = false ∧ (me (ctAt id)).ct.busy ≤ (me (ctAt id)).ct.clk ∧
    (me (at0 .vx id)).faulted .vx = false ∧ ((me (at0 .vx id)).col .vx).ackKey = none ∧ (at0 .vx id).cur.body = false ∧ (me (at0 .vx id)).eligibleAt .vx 7 ≤ (me (at0 .vx id)).cnt ∧
    (∀ c ∈ (me (at0 .ce id)).en.ceq, c.started = true) ∧ (me (at0 .ce id)).faulted .ce = false := by decide

/-! LD and ST -/

/-- Pattern 0 of one element at a base, with address register 0 at 0. -/
def patAt (c : Col) (base : Word) (f : Tile → Tile) : State :=
  at0 c (fun t => f { t with ct := { t.ct with preg := [(0, base), (5, 1), (6, 1), (7, 1), (8, 1)] } })
/-- Pattern 0 with 16 pieces at a stride of 32. -/
def piecesAt (c : Col) : State := at0 c (fun t => { t with ct := { t.ct with preg := [(0, 0x40), (1, 32), (5, 16), (6, 1), (7, 1), (8, 1)] } })
/-- Slot 9 of the Pound is bound. -/
def bound9 (t : Tile) : Tile := { t with st := { t.st with pdesc := [(9, 1)] } }

/-- The last row of the scratchpad and one behind it, sixteen pieces in the banks, and a bound slot. -/
theorem witness_LocalLoadsComplete :
    (let s := patAt .ld 0x1FFE00 bound9; let x := me s; SyncStarts s 0 none (ldNeeds 0 false false (srcPops [3])) s ∧ SyncStarts s 0 none (ldNeeds 0 false false []) s ∧ x.patOk 0 = true ∧
      badRow x (x.patAddrs 0 0 1) = false ∧ badRow x (x.patAddrs 0 0 96) = false ∧ x.slotFree 9 = false ∧ wellFormed (.ldp ⟨0, false, false, 15, 0, 0, 9⟩) = true) ∧
    (let s := piecesAt .ld; SyncStarts s 0 none (ldNeeds 0 false false (srcPops [0x84])) s ∧ (me s).patOk 0 = true ∧ piecesOk ((me s).patAddrs 0 0 16) = true) :=
  ⟨⟨syncStarts_of _ _ _ (by decide), syncStarts_of _ _ _ (by decide), by decide, by decide, by decide, by decide, by decide⟩, syncStarts_of _ _ _ (by decide), by decide, by decide⟩

/-- A bound of 0, addresses off by less than their size, a row address beyond the scratchpad, and a free slot. -/
theorem witness_LoadStoreTraps :
    (let s := at0 .ld id; SyncStarts s 0 none (ldNeeds 0 false false (srcPops [3])) s ∧ (me s).patOk 0 = false) ∧
    (let s := patAt .st 0x44 id; let x := me s; SyncStarts s 0 none (syncNeeds .st tok0 [] []) s ∧ x.patOk 0 = true ∧ (x.patAddr 0 (x.areg 0)).toNat % 8 ≠ 0 ∧
      (x.patAddr 0 (x.areg 0)).toNat % 512 ≠ 0 ∧ x.slotFree 9 = true) ∧
    (let s := patAt .ld 0x200000 id; let x := me s; SyncStarts s 0 none (ldNeeds 0 false false []) s ∧ x.patOk 0 = true ∧ rowAddrOk (first (x.patAddrs 0 0 1)) = false) :=
  ⟨⟨syncStarts_of _ _ _ (by decide), by decide⟩, ⟨syncStarts_of _ _ _ (by decide), by decide, by decide, by decide, by decide⟩, syncStarts_of _ _ _ (by decide), by decide, by decide⟩

theorem witness_MemoryLoadsComplete :
    let s := paged (patAt .ld 0 id); let x := me s
    x.patOk 0 = true ∧ SyncStarts s 0 none (ldNeeds 0 false false (srcPops [0x80])) s ∧ wellFormed (.ldq ⟨0, false, false, 0, 0, 0, 0x80⟩) = true ∧
      (x.patAddr 0 (x.areg 0)).toNat % 512 = 0 ∧ (∃ s' bs hit, s.tileRead 0 0 8 false = (s', .ok (bs, hit))) ∧ (∃ s' bs hit, (s.acquireCache 0 1 4).tileRead 0 0 8 true = (s', .ok (bs, hit))) ∧
      (∃ s' r, s.tileRead 0 0x200000 128 false = (s', r) ∧ r ≠ .wait) :=
  ⟨by decide, syncStarts_of _ _ _ (by decide), by decide, by decide, ⟨_, _, _, rfl⟩, ⟨_, _, _, rfl⟩, ⟨_, _, rfl, nofun⟩⟩

theorem witness_LocalStoresComplete :
    (let s := patAt .st 0x1FFE00 bound9; let x := me s; x.patOk 0 = true ∧ SyncStarts s 0 none (syncNeeds .st tok0 (srcPops [3]) []) s ∧ SyncStarts s 0 none (syncNeeds .st tok0 [] []) s ∧
      badRow x (x.patAddrs 0 0 1) = false ∧ x.slotFree 9 = false) ∧
    (let s := piecesAt .st; SyncStarts s 0 none (syncNeeds .st tok0 (srcPops [3]) []) s ∧ piecesOk ((me s).patAddrs 0 0 16) = true) :=
  ⟨⟨by decide, syncStarts_of _ _ _ (by decide), syncStarts_of _ _ _ (by decide), by decide, by decide⟩, syncStarts_of _ _ _ (by decide), by decide⟩

theorem witness_MemoryStoresComplete :
    let q (t : Tile) : Tile := { t with qs := { t.qs with q := [(0, [1])] } }
    let s := paged (patAt .st 0x40 (fun t => { q t with cache := [(sectorKey 0x40, ⟨true, 7, 0, true, true, none⟩)] })); let x := me s
    x.patOk 0 = true ∧ SyncStarts s 0 none (syncNeeds .st tok0 (srcPops [0x80]) []) s ∧ (x.patAddr 0 (x.areg 0)).toNat % 8 = 0 ∧ s.storeCheck 0 0x40 8 false (covers 0x40 (allBytes 8 0)) = (s, .ok (.cached true true none)) ∧
      ∃ s' pa attr, s.storeCheck 0 0x40 8 true (covers 0x40 (allBytes 8 0)) = (s', .ok (.direct pa attr)) :=
  ⟨by decide, syncStarts_of _ _ _ (by decide), by decide, rfl, ⟨_, _, _, rfl⟩⟩

/-! VX -/

/-- A word on rows and one that pops and pushes queues. -/
theorem witness_VxWordsComplete :
    SyncStarts (at0 .vx id) 7 none (syncNeeds .vx ⟨7, false, false, false, false⟩ (srcPops [1, 2]) (srcPops [3])) (at0 .vx id) ∧
    (let s := at0 .vx (fun t => { t with qs := { t.qs with q := [(4, [5])] } }); SyncStarts s 0 none (syncNeeds .vx tok0 (srcPops [0x84]) (srcPops [0x85])) s) ∧
    ([.vadd (vxo 0 4 1 3 1 2 0), .vmax (vxo 10 0 0 3 1 2 0), .vshl (vxo 10 0 0x83F 3 1 0 0), .vcmp (vxo 0 0 6 3 1 2 0), .vsel (vxo 6 0 0 3 1 2 4), .vcvt (vxo 3 0 0x180 3 1 2 0),
      .vqblk (vxo 5 0 0xBA0 3 1 2 0), .vrcp (vxo 1 4 0x10 3 1 0 0), .vtie (vxo 0 0 0x13 3 1 0 0), .vtld (vxo 0 0 0xF 0 1 0 0), .vred (vxo 0 0 4 0x80 1 0 0), .vbcast (vxo 0 0 127 3 1 0 0),
      .vperm (vxo 6 0 0 3 1 2 4), .vpack (vxo 6 0 0xE00 3 1 0 4), .vunpk (vxo 6 0 0 3 1 2 4), .vidx (vxo 10 0 0xFFF 3 0 0 0), .vwin (vxo 0 0 3 124 4 0 0), .vamax (vxo 3 0 0 0 1 0 0),
      .vrng (vxo 11 0 0 3 0 0 0), .vclr (vxo 0 0 0 3 0 0 0)] : List Instr).all wellFormed = true :=
  ⟨syncStarts_of _ _ _ (by decide), syncStarts_of _ _ _ (by decide), by decide⟩

/-! MX -/

/-- A pattern for p0 with M rows and KR groups; MX words use address register 8. -/
def mxAt (base m kr : Word) (f : Tile → Tile) : State :=
  at0 .mx (fun t => f { t with ct := { t.ct with preg := [(0, base), (5, m), (6, kr), (7, 1), (8, 1)] } })

/-- A mask store whose words are all alike keeps as many elements as the one word. -/
theorem masksOk_of (x : Tile) (et w : Nat)
    (h : ((List.range 128).all (fun c => (List.range (groupsOf x.mx.spn et)).all (fun g => x.maskWord c g == w))) = true)
    (hw : (List.range 32).countP (fun j => w / 2 ^ j % 2 == 1) = spnN x.mx.spn) : x.masksOk et = true := by
  simp only [Tile.masksOk, List.all_eq_true, beq_iff_eq] at h ⊢
  intro c hc g hg
  rw [h c hc g hg, hw]

/-- A dense word whose span ends at the end of the scratchpad; a sparse one over legal masks; a word with a stamp of the present count. -/
theorem witness_ArrayWordsComplete :
    (let s := mxAt 0x1FFE80 1 1 id; let x := me s; SyncStarts s 0 none (mxNeeds mt0 true) s ∧ x.patOk 0 = true ∧ x.mx.spn = 0 ∧ x.mx.mode ≠ 2 ∧
      wellFormed (.mma mt0 127 0 0 true) = true ∧ wellFormed (.mmax mt0 127 0 4 true) = true ∧ spanOk (x.patAddr 0 (x.areg 8)).toNat (spanOf .dense 0) = true ∧ spanOk (0x1FFE80 + 32) 384 = false) ∧
    (let s := mxAt 0 1 1 id; SyncStarts s 0 (some 128) (mxNeeds ⟨tok0, some 128⟩ true) s) ∧
    (let s := mxAt 0 1 1 (fun t => { t with mx := { t.mx with spn := 3, mask := (List.range 48).map (fun j => (j, BitVec.ofNat 4096 (0xFFFFFF * ((2 ^ 4096 - 1) / (2 ^ 32 - 1))))) } });
      (me s).mx.spn ≠ 0 ∧ (me s).masksOk 5 = true) :=
  ⟨⟨syncStarts_of _ _ _ (by decide), by decide, by decide, by decide, by decide, by decide, by decide, by decide⟩,
    ⟨by decide, by decide, .inr (.inr (.inl ⟨by decide, by decide, by decide, by decide, rfl, _, rfl, by decide⟩))⟩, by decide, masksOk_of _ _ 0xFFFFFF (by decide +kernel) (by decide)⟩

/-- The largest shape, 128 rows and 16 groups, and the least. -/
theorem witness_MatrixTileCompletes :
    (let s := mxAt 0 1 1 id; let x := me s; SyncStarts s 0 none (mxNeeds mt0 true) s ∧ wellFormed (.mtile mt0 127 0 0 false) = true ∧ x.patOk 0 = true ∧ x.mx.spn = 0 ∧ x.mx.mode < 2 ∧
      x.bound 0 0 = 1 ∧ x.bound 0 1 = 1 ∧ x.bound 0 2 = 1 ∧ x.bound 0 3 = 1 ∧ (127 : BitVec 7).toNat + 1 - 1 ≤ 127 ∧ ∀ a ∈ x.patAddrs 0 8 1, spanOk a 384 = true) ∧
    (let x := me (mxAt 0 128 16 id); x.patOk 0 = true ∧ x.bound 0 0 ≤ 128 ∧ x.bound 0 1 ≤ 16 ∧ (0 : BitVec 7).toNat + 128 - 1 ≤ 127) :=
  ⟨⟨syncStarts_of _ _ _ (by decide), by decide, by decide, by decide, by decide, by decide, by decide, by decide, by decide, by decide, by decide⟩, by decide⟩

/-- A bound of 0, a sparse selection, mode 2 with an integer type, a shape of 129 rows, a span off a multiple of 32, and the free slots and images of SQ. -/
theorem witness_ArrayTraps :
    (let s := at0 .mx id; SyncStarts s 0 none (mxNeeds mt0 true) s ∧ SyncStarts s 0 none (mxNeeds mt0 false) s ∧ (me s).patOk 0 = false ∧ (me s).mx.spn = 0) ∧
    (let s := mxAt 0 1 1 (fun t => { t with mx := { t.mx with spn := 3, mode := 2 } }); SyncStarts s 0 none (mxNeeds mt0 true) s ∧ (me s).mx.spn ≠ 0 ∧ (me s).mx.mode = 2 ∧ (mxFmt 2).isSome = false ∧
      (me s).masksOk 0 = false) ∧
    (let x := me (mxAt 16 129 1 id); 128 < x.bound 0 0 ∧ spanOk (x.patAddr 0 (x.areg 8)).toNat 384 = false ∧ spanOk (x.patAddr 0 (x.areg 8)).toNat 512 = false) ∧
    (let s := at0 .sq id; SyncStarts s 0 none (sqNeeds mt0) s ∧ (me s).opValid 0 = false ∧ (me s).slotFree 9 = true ∧ slotState ((me s).desc 9) < 2) ∧
    (let s := at0 .sq bound9; SyncStarts s 0 none (sqNeeds mt0) s ∧ (me s).slotFree 9 = false) :=
  ⟨⟨syncStarts_of _ _ _ (by decide), syncStarts_of _ _ _ (by decide), by decide, by decide⟩, ⟨syncStarts_of _ _ _ (by decide), by decide, by decide, by decide, by decide +kernel⟩, by decide,
    ⟨syncStarts_of _ _ _ (by decide), by decide, by decide, by decide⟩, syncStarts_of _ _ _ (by decide), by decide⟩

theorem witness_MatrixMovesComplete :
    let s := mxAt 0 1 1 id
    SyncStarts s 0 none (mxNeeds mt0 true) s ∧ SyncStarts s 0 none (mxNeeds mt0 false) s ∧ (me s).patOk 0 = true ∧ (∀ a ∈ (me s).patAddrs 0 8 48, spanOk a 512 = true) ∧
      ([.mbsel mt0 3 15, .mspx mt0 0, .mscl mt0 1 2047, .mmsk mt0 2 127 15 15, .mwake mt0 15, .maclr mt0 96 31, .macmv mt0 96 96 31, .mtrn mt0 96 96 3] : List Instr).all wellFormed = true :=
  ⟨syncStarts_of _ _ _ (by decide), syncStarts_of _ _ _ (by decide), by decide, by decide, by decide⟩

/-! SQ -/

/-- An image of one step, operation 0 on x0, y0 and x0 into the first temporary, on one component (R192, R193). -/
def imgAdd : BitVec 1024 := BitVec.ofNat 1024 (1 + (8 * 2 ^ 20 + 4 * 2 ^ 12) * 2 ^ 256)
/-- Tile 0 with that operator in slot 1, slot 9 bound and slots 10 and 11 a pair. -/
def sqAt (f : Tile → Tile) : State :=
  at0 .sq (fun t => f { t with sq := { t.sq with ops := [(1, imgAdd)], valid := 2 }, st := { t.st with pdesc := [(9, 1), (10, 0xB02), (11, 0xA03)] } })

/-- A valid image; rows that end at v127 and v63; a bound slot, a pair and free slots. -/
theorem witness_ScanWordsComplete :
    let s := sqAt id; let x := me s
    SyncStarts s 0 none (sqNeeds mt0) s ∧ imageOk imgAdd = true ∧ x.opValid 1 = true ∧ (127 : BitVec 7).toNat + imgK (x.op 1) ≤ 128 ∧ (63 : BitVec 6).toNat + imgK (x.op 1) ≤ 64 ∧
      (15 : BitVec 4).toNat + imgK (x.op 1) ≤ 16 ∧ slotState (x.desc 9) = 1 ∧ slotState (x.desc 10) = 2 ∧ slotState (x.desc 11) = 3 ∧ x.slotFree 12 = true ∧ x.slotFree 13 = true ∧ x.slotFree 9 = false ∧
      slotHeld (x.desc 10) = false := ⟨syncStarts_of _ _ _ (by decide +kernel), by decide +kernel⟩

/-- One leaf in a gang of one on a bound slot; a leaf count above the gang, a free slot and an invalid operator. -/
theorem witness_FlightsComplete :
    (let s := sqAt (fun t => { t with id := { t.id with gsize := 1 }, sq := { t.sq with cfg := 1 } }); let x := me s
      SyncStarts s 0 none { sqNeeds mt0 with unit := true } s ∧ x.opValid 1 = true ∧ x.opValid 0 = false ∧ (127 : BitVec 7).toNat + imgK (x.op 1) ≤ 128 ∧ wfld x.sq.cfg 0 16 = 1 ∧ x.id.gsize = 1 ∧
        x.slotFree 9 = false ∧ x.slotFree 12 = true) ∧
    (let x := me (sqAt (fun t => { t with id := { t.id with gsize := 1 }, sq := { t.sq with cfg := 2 } })); x.id.gsize < wfld x.sq.cfg 0 16) :=
  ⟨⟨syncStarts_of _ _ _ (by decide +kernel), by decide +kernel⟩, by decide +kernel⟩

/-- A channel of KIND 1 with every permission to tile 1, which partition 0 owns; its allowance is 512 bytes, so that two rows exceed it. -/
def chTile : Word × Word := (1, BitVec.ofNat 64 (2 ^ 63 + 2 ^ 60 + 15 * 2 ^ 56 + 512))
def withChans (f : Tile → Tile) (t : Tile) : Tile := f { t with en := { t.en with chans := [(5, chTile)], chansOk := true }, id := { t.id with ownV := true } }
def owned1 (s : State) : State := s.modTile 1 (fun t => { t with id := { t.id with ownV := true } })
theorem witness_CarriesComplete :
    (let s := owned1 (at0 .sq (withChans id)); let x := me s; let src := chPlace (x.chan 5)
      SyncStarts s 0 none (sqNeeds mt0) s ∧ wellFormed (.scsnd mt0 5 0 7) = true ∧ s.chanCheck 0 5 ⟨[1], permSend, [], 512⟩ = none ∧ s.chanCheck 0 5 ⟨[1], permSend, [], 1024⟩ = some 4 ∧
        s.chanCheck 0 6 ⟨[1], permSend, [], 512⟩ = some 1 ∧ s.reachable 0 src = true ∧ x.allowOk 5 512 = true) ∧
    (let s := owned1 (at0 .sq (withChans (fun t => { t with en := { t.en with allow := [(5, 512)] } }))); let x := me s
      SyncStarts s 0 (some 128) (sqNeeds ⟨tok0, some 128⟩) s ∧ s.chanCheck 0 5 ⟨[1], permSend, [], 512⟩ = none ∧ s.reachable 0 (chPlace (x.chan 5)) = true ∧ x.allowOk 5 512 = false) ∧
    (let s := { owned1 (at0 .sq (withChans id)) with bridges := 0xF, tiles := ((owned1 (at0 .sq (withChans id))).modTile 1 (fun t => { t with wa := { t.wa with health := .fenced } })).tiles };
      s.reachable 0 ⟨0, 1⟩ = false) ∧
    (let s := owned1 (at0 .sq (withChans (fun t => { t with sq := { t.sq with carries := [⟨⟨0, 1⟩, ⟨0, 0⟩, 3, [1], 0, 5, 0, 0, ⟨0, none, 0⟩, 0⟩] } })));
      s.chanCheck 0 5 ⟨[1], permRecv, [], 0⟩ = none ∧ SyncStarts s 0 none { sqNeeds mt0 with carry := some (⟨0, 1⟩, 3) } s ∧ wellFormed (.scrcv mt0 5 3 7) = true) :=
  ⟨⟨syncStarts_of _ _ _ (by decide +kernel), by decide +kernel⟩,
    ⟨⟨by decide +kernel, by decide, .inr (.inr (.inl ⟨by decide, by decide, by decide +kernel, by decide +kernel, rfl, _, rfl, by decide +kernel⟩))⟩, by decide +kernel⟩,
    by decide +kernel, by decide +kernel, syncStarts_of _ _ _ (by decide +kernel), by decide +kernel⟩

theorem witness_SpillWordsComplete :
    (let s := sqAt (fun t => { t with qs := { t.qs with q := [(0, [0x400])] } }); let x := me s
      SyncStarts s 0 none { sqNeeds mt0 with pops := [0] } s ∧ (qWordOf (x.front 0)).toNat % 512 = 0 ∧ x.slotFree 9 = false ∧ x.slotFree 12 = true ∧ x.en.spq.length < spillDepth) ∧
    (let s := sqAt (fun t => { t with qs := { t.qs with q := [(0, [0x440])] } }); SyncStarts s 0 none { sqNeeds mt0 with pops := [0] } s ∧ (qWordOf ((me s).front 0)).toNat % 512 ≠ 0) :=
  ⟨⟨syncStarts_of _ _ _ (by decide +kernel), by decide +kernel⟩, syncStarts_of _ _ _ (by decide +kernel), by decide +kernel⟩

/-! CE and LK -/

/-- A column with operands in q0 to q3, and the same in the engine of LK. -/
def opsAt (c : Col) (a b d e : Row) (f : Tile → Tile) : State := owned1 (at0 c (fun t => withChans f { t with qs := { t.qs with q := [(0, [a]), (1, [b]), (2, [d]), (3, [e])] } }))
def ce0 : CeOp := ⟨0, 0, 0, 0, true, true, false, false, 0, 0, 0⟩
def ce1 : CeOp := ⟨5, 0, 0, 0, true, true, true, false, 0, 0x10, 0⟩

/-- Operands inside their limits, one off by 2, a range that ends at the end of the scratchpad and one behind it, and a channel whose check fails. -/
theorem witness_CopyEngineWordsComplete :
    (let s := opsAt .ce 0x40 0x80 0x20 0 id; let x := me s; let l := (x.popOps [0, 1, 2]).2.map (·.toNat)
      x.faulted .ce = false ∧ (∀ c ∈ x.en.ceq, c.started = true) ∧ x.popsOk [0, 1, 2] = true ∧ x.popsOk [0, 1, 2, 3] = true ∧ x.pushesOk [1] = true ∧ wellFormed (.copy ce0) = true ∧
        wellFormed (.copy ce1) = true ∧ op' l 2 < 2 ^ 32 ∧ op' l 2 % 4 = 0 ∧ op' l 0 % 4 = 0 ∧ op' l 1 % 4 = 0 ∧ ssp ce0 = 0 ∧ dsp ce1 = 2) ∧
    (let l := ((me (opsAt .ce 0x42 0x80 0x20 0 id)).popOps [0, 1, 2]).2.map (·.toNat); op' l 0 % 4 ≠ 0) ∧
    InSpace 1 0x1FFFE0 0x20 ∧ ¬InSpace 1 0x1FFFE4 0x20 ∧
    (opsAt .ce 0 0 0 0 id).chanCheck 0 5 ⟨[1], permWrite, [], 0x20⟩ = none ∧ (opsAt .ce 0 0 0 0 id).chanCheck 0 5 ⟨[3], permWrite, [], 0x20⟩ = some 1 := by
  refine ⟨by decide +kernel, by decide +kernel, by unfold InSpace; omega, by unfold InSpace; omega, by decide +kernel, by decide +kernel⟩

/-- Every word of CE with operands inside its limits and ranges: `ce1` names a channel, `ce0` and `ce2` none. -/
def ce2 : CeOp := ⟨0, 0, 0, 0, true, true, false, false, 0, 0x10, 0⟩
theorem witness_CopyEngineForms :
    ([.copy ce1, .copya ce1, .fill ce1, .accw ce1, .xadd ce1, .cas ce1, .mcast ce1, .msend ⟨5, 0, 0, 0, true, true, true, false, 0, 0, 0⟩, .mrecv ⟨5, 0, 0, 0, true, false, true, false, 0, 0, 0⟩,
      .cmoa ce0, .pfb ce0, .ceflush ce0, .ceflush ⟨5, 0, 0, 0, true, true, true, false, 0, 0, 0⟩] : List Instr).all wellFormed = true ∧
    (let s := opsAt .ce 0x40 0x80 0x20 0 id; let x := me s; let l := (x.popOps [0, 1, 2]).2.map (·.toNat)
      x.popsOk [] = true ∧ x.popsOk [0, 1] = true ∧ x.pushesOk [0] = true ∧ lo32 (op' l 2) % 4 = 0 ∧ op' l 2 < 2 ^ 34 ∧ op' l 2 / 2 ^ 32 % 2 ≠ 1 ∧ op' l 0 % 8 = 0 ∧ op' l 1 < 2 ^ 32 ∧
        s.chanCheck 0 5 ⟨[1], permRecv, [], 0⟩ = none ∧ s.chanCheck 0 5 ⟨[1], permSend, [], 0x80⟩ = none ∧ s.chanCheck 0 5 ⟨[1], permWrite, [(0x80, 0x20)], 0x20⟩ = none) ∧
    InSpace 0 0x80 0x20 := by
  refine ⟨by decide, by decide +kernel, .inl rfl⟩

def lk0 : LkOp := ⟨tok0, 5, 0, true, true, true, 0, 0, false, 0, 0, 0⟩
theorem witness_LinkEngineWordsComplete :
    (let s := opsAt .lk 0x40 0x20 0x80 0 id; let x := me s; let l := (x.popOps [0, 1]).2.map (·.toNat)
      x.en.lkq.length < lkDepth ∧ SyncStarts s 0 none (syncNeeds .lk tok0 [0, 1] []) s ∧ SyncStarts s 0 none (syncNeeds .lk tok0 [0, 1, 2, 3] []) s ∧ wellFormed (.send lk0) = true ∧
        op' l 1 ≤ 2 ^ 20 ∧ op' l 1 % 4 = 0 ∧ op' l 0 % 4 = 0 ∧ s.chanCheck 0 5 ⟨[1], permSend, [], 0x20⟩ = none ∧ s.chanCheck 0 5 ⟨[2], permNone, [], 0⟩ = some 1) ∧
    (let s := opsAt .lk 0x81 0x20 0x80 0 id; SyncStarts s 0 none (syncNeeds .lk tok0 [0, 1] []) s ∧ wellFormed (.coll lk0) = true ∧ (qWordOf ((me s).front 0)).toNat % 128 ≠ 0) ∧
    (let s := paged (opsAt .lk 0 0x20 0x80 0 id); (qWordOf ((me s).front 0)).toNat % 128 = 0 ∧ (∃ s' b, s.coRead 0 0 128 .rd = (s', .ok b)) ∧ (∃ s' f, s.coRead 0 0x100000 128 .rd = (s', .fault f)) ∧
      s.cutOff 0 0 = false ∧ { s with bridges := 1 }.cutOff 0 (2 ^ 45) = true) ∧
    (collBad (leBytes 48 0 ++ leBytes 4 0 ++ leBytes 76 0)).isSome = true :=
  ⟨⟨by decide +kernel, syncStarts_of _ _ _ (by decide +kernel), syncStarts_of _ _ _ (by decide +kernel), by decide +kernel⟩, ⟨syncStarts_of _ _ _ (by decide +kernel), by decide +kernel, by decide +kernel⟩,
    ⟨by decide +kernel, ⟨_, _, rfl⟩, ⟨_, _, rfl⟩, by decide +kernel⟩, by decide +kernel⟩

/-! Logit programs -/

/-- Engine 0 of die 0 runs the one sequence of a draw over one lane, its program and tables in the page of partition 0. -/
def desc0 : List Byte := leBytes 4 0 ++ leBytes 4 1 ++ leBytes 120 0
def job0 : Job := newJob 0 0 0 none [0x1000, 0, 0, 0, 0, 0, 0, 0]
def logitAt (f : Sluice → Sluice) : State :=
  { paged ((State.reset.modDie 0 (fun x => { x with jobs := [job0], sluices := f { Sluice.reset with running := true, desc := desc0 } :: x.sluices.tail }))) with cur := ⟨0, .logit, ⟨0, 0, none⟩, false⟩ }

theorem witness_LogitRegisterWordsComplete : (logitAt id).job ((logitAt id).cur.tile / 4) 0 = some job0 ∧
    ([.lsubx 15 15 7, .ladd 15 15 15, .lcmp 15 15 15 6, .lsum 15 7 1, .ltopk 15 15 7, .larg 15 7, .lskip 0 63 1 4, .lskip 7 1 0 3] : List Instr).all wellFormed = true := by decide +kernel

/-- A read that answers and one that faults; temperatures and probabilities that are legal and not. -/
theorem witness_LogitTableWordsComplete :
    (let s := logitAt id; s.job 0 0 = some job0 ∧ (∃ s' b, jread s 0 0 0x40 8 = (s', .ok b)) ∧ (∃ s' c k, jread s 0 0 0x100000 8 = (s', .bad c k))) ∧
    sdGrpr desc0 = 0 ∧ (valL 0x3F800000).sign = false ∧ (valL 0x3F800000).isZero = false ∧ (valL 0).isZero = true ∧ unitOk (valL 0x3F800000) = true ∧ unitOk (valL 0) = true ∧
    unitOk (valL 0x3F800001) = false ∧ unitOk (valL 0x7FC00000) = false :=
  ⟨⟨by decide +kernel, ⟨_, _, rfl⟩, ⟨_, _, _, rfl⟩⟩, by decide +kernel, by decide +kernel, by decide +kernel, by decide +kernel, by decide +kernel, by decide +kernel, by decide +kernel, by decide +kernel⟩

theorem witness_LogitProgramsEnd :
    (let s := logitAt id; s.job 0 0 = some job0 ∧ (s.sluice 0 0).emitted = false ∧ (s.sluice 0 0).pc ≤ 2046 ∧ (∃ s' w, jread s 0 0 4 4 = (s', .ok w)) ∧
      (∃ s', jwrite s 0 0 0x40 (leBytes 4 1 ++ leBytes 4 2) = (s', .ok ())) ∧ s.writesBehind job0 0 = false ∧ job0.drawn = none ∧ s.joined 0 (job0.diem.headD 0) = true) ∧
    ((logitAt (fun x => { x with emitted := true })).sluice 0 0).emitted = true ∧ 2046 < ((logitAt (fun x => { x with pc := 2047 })).sluice 0 0).pc ∧
    wellFormed (.lpen 0 0 0 3) = false ∧ wellFormed (.lldk 0 6) = false :=
  ⟨⟨by decide +kernel, by decide +kernel, by decide +kernel, ⟨_, _, rfl⟩, ⟨_, rfl⟩, by decide +kernel⟩, by decide +kernel, by decide +kernel, by decide +kernel, by decide +kernel⟩


/-! Events -/

/-- The state after reset with an event's argument. -/
def evAt (f : Arg → Arg) : State := { State.reset with arg := f Arg.zero }
/-- The page in every slice of die 0. -/
def leaves (s : State) : State := s.modDie 0 (fun x => { x with tlb := (List.range 32).map (fun k => { leaf0 with slice := k }) })
/-- The same with partition 0 in RUN, and its page of 64 KiB. -/
def runAt (f : Arg → Arg) (g : Part → Part) : State := (leaves (evAt f)).modPart 0 (fun x => g { x with st := 2 })
/-- Bytes in the page of partition 0, at an offset of it. -/
def within (s : State) (l : List (Nat × List Byte)) : State :=
  { s with mem := l.flatMap (fun e => (e.2.zipIdx (0x10000 + e.1)).filterMap (fun b => if b.1 = 0 then none else some (b.2, b.1))) }
def ran (s : State) : State := { s with tm := { s.tm with run := true } }

theorem witness_PowerAndTimeEventsComplete :
    (let s := { ran (evAt id) with stamp := 700, pw := { Power.reset with lim := 5, fresh := false } }; s.tm.run = true ∧ s.stamp % 700 = 0 ∧ s.pw.en = true ∧ s.pw.fresh = false) ∧
    (let s := { inGang 0 (evAt id) with gangs := [{ gang 0 [] with hold := some 3 }], stamp := 3 }; s.gangOf 0 = some { gang 0 [] with hold := some 3 } ∧ 3 ≤ s.stamp) ∧
    (let s := { evAt id with tm := { Time.reset with arm := true } }; s.tm.arm = true ∧ s.tm.run = false ∧ s.tm.pre = s.tm.start.toNat) ∧
    (let s := { ran (evAt id) with stamp := 700000, te := { Tele.reset with en := true } }; s.tm.run = true ∧ s.stamp % 700000 = 0 ∧ s.te.en = true ∧ s.mem.wf = true) ∧
    (evAt (fun a => { a with idx := 1, val := 6 })).arg.idx = 1 := by decide

/-- The ends of the ranges of WEIR.SLOPE, TIME.FREQ and TIME.START, and one beyond each. -/
theorem witness_RefusedRegisterWrites :
    wfld (BitVec.ofNat 64 (10000 * 2 ^ 16 + 1) : Word) 16 14 = 10000 ∧ wfld (BitVec.ofNat 64 (10000 * 2 ^ 16 + 1) : Word) 0 14 = 1 ∧ wfld (BitVec.ofNat 64 (1 * 2 ^ 16 + 10001) : Word) 0 14 = 10001 ∧
    wfld (BitVec.ofNat 64 10000 : Word) 16 14 = 0 ∧ (BitVec.ofNat 32 109951162).toInt = 109951162 ∧ (BitVec.ofNat 32 109951163).toInt = 109951163 ∧ (-(BitVec.ofNat 32 109951162)).toInt = -109951162 ∧
    (-(BitVec.ofNat 32 109951163)).toInt = -109951163 ∧
    (let s := { evAt (fun a => { a with val := 7 }) with tm := { Time.reset with arm := true, pre := 7 } }; s.tm.arm = true ∧ s.arg.val.toNat ≤ s.tm.pre ∧ s.tm.run = false) ∧
    (let s := { evAt (fun a => { a with val := 8 }) with tm := { Time.reset with arm := true, pre := 7, run := true } }; s.tm.pre < s.arg.val.toNat ∧ s.tm.run = true) := by decide

/-- Both causes of an unarmed and an armed write fail at once. -/
theorem witness_ResetEventsComplete :
    (let s := runAt (fun a => { a with val := 3 }) id; (s.part 0).st ≠ 0 ∧ (s.part 0).phase = 0 ∧ s.arg.val.getLsbD 0 = true ∧ s.arg.val.getLsbD 1 = true) ∧ ((evAt id).part 0).st = 0 ∧
    (let s := runAt id (fun x => { x with phase := 2 }); (s.part 0).phase = 2 ∧ ∀ g ∈ s.gangs, g.part ≠ 0) ∧
    (let s := runAt (fun a => { a with val := 1 }) (fun x => { x with phase := 2, awaitGo := true }); (s.part 0).awaitGo = true) ∧
    (let s := runAt id (fun x => { x with phase := 3 }); (s.part 0).phase = 3 ∧ s.outst 0 = 0) ∧ ((runAt id (fun x => { x with phase := 4 })).part 0).phase = 4 ∧
    (let s := inGang 0 (runAt id (fun x => { x with queues := [(0, { Queue.reset with ctl := 0x100000004, dog := 700 })] })); s.resident 0 0 = true ∧ wfld (s.queue 0 0).ctl 32 32 * 700 ≤ (s.queue 0 0).dog ∧
      wfld (s.queue 0 0).ctl 32 32 ≠ 0) := by decide

theorem witness_LinkEventsComplete :
    (let s := (evAt (fun a => { a with flag := true })).setPort 0 { Port.reset with up := true, vlen := 1, fails := 15 }
     (s.port 0).up = true ∧ 16 ≤ (s.port 0).fails + 1 ∧ (s.port 0).lanes = 2 ∧ (s.port 0).vlen.getLsbD 0 = true ∧ (s.port 0).vlen.getLsbD 3 = false) ∧
    (let s := (evAt (fun a => { a with idx := 127, flag := true })).setPort 127 { Port.reset with up := true, lanes := 1, fails := 14 }; (s.port 127).lanes ≠ 2 ∧ (s.port 127).fails + 1 < 16 ∧ s.arg.idx < 128) ∧
    ((evAt id).port 0).up = false ∧ (1023 : Nat) < 1024 ∧ wfld (99 : Word) 0 24 < 100 ∧ ¬wfld (100 : Word) 0 24 < 100 ∧ (3 : Nat) < 4 := by decide

def contrib0 : Contribution := ⟨1, 0, 2, 0, 0, 0, leBytes 4 7, none, 0, 0, ⟨0, none, 0⟩⟩
def red0 : Reduction := ⟨1, 0, 2, 0, 0, none, [(0, leBytes 4 7)], some 0, [], 0⟩
def reds (s : State) : State := { s with reds := [red0] }
def block0 : Delivery := ⟨⟨0, 1⟩, ⟨0, 0⟩, 0x40, leBytes 4 9, some 3, 0, false, 0, 0, 0, ⟨0, none, 0⟩, 0⟩
def msg0 : Msg := ⟨⟨0, 1⟩, ⟨0, 0⟩, 5, leBytes 4 9, 0, 0, ⟨0, none, 0⟩, false, 0⟩
def carry0 : Carry := ⟨⟨0, 1⟩, ⟨0, 0⟩, 3, [1], 0, 5, 0, 0, ⟨0, none, 0⟩, 0⟩
def posted0 : Posted := ⟨0, 0, some 5, 1, 0x40, 64, 0, none⟩
def cmd0 : Cmd := { newCmd 4 (.copy { ce0 with fn := 40 }) 0x1000 [0x40, 0x80, 0x100] with raise := some 3, started := true }
def grp (ms : List Nat) : Group := ⟨ms, true, [], true, []⟩
theorem witness_ArrivalEventsComplete :
    (let s := { (reds (evAt (fun a => { a with load := .contrib contrib0 }))).modPart 0 (fun x => { x with groups := [(2, grp [0, 1])] }) with refused := [(0, contrib0)] }
     s.stale contrib0 = false ∧ s.contribBehind contrib0 = false ∧ s.memberFenced 0 = false ∧ s.linked 0 (memberDie 0) = true ∧ s.refused[0]? = some (0, contrib0) ∧ 0 ≤ s.stamp ∧ s.reds[0]? = some red0 ∧
      red0.kind = 1) ∧
    (let s := (reds (evAt id)).modPart 0 (fun x => { x with groups := [(2, grp [0])] }); (s.redMembers 0 2).length = 1 ∧ red0.parts.length = 1 ∧ find (s.part 0).groups 2 = some (grp [0])) ∧
    (let s := { (reds (evAt id)).modPart 0 (fun x => { x with groups := [(2, grp [0, 1])] }) with stamp := 7000000 }; red0.parts.length < (s.redMembers 0 2).length ∧ red0.first = some 0 ∧
      0 + 700 * wfld s.ctmo 0 24 ≤ s.stamp) ∧
    (let s := { evAt (fun a => { a with load := .delivery block0 }) with blocks := [block0] }; s.blockHere block0 = true ∧ block0.dst.pkg = s.pkg ∧ (s.tile 0).isFenced = false ∧ (s.tile 0).st.spad.wf = true ∧
      s.heldBack block0.src 0 block0.bound = false ∧ s.blockBehind block0 = false) ∧
    (let s := { evAt (fun a => { a with load := .msg msg0 }) with msgs := [msg0] }; s.msgs.find? (fun y => y.src == msg0.src && y.dst == msg0.dst) = some msg0 ∧
      (∀ q ∈ (s.tile 0).en.posted, q.accepts msg0 = false) ∧ (s.tile 0).en.overflow.length < 16 ∧ s.heldBack msg0.src 0 msg0.bound = false ∧
      s.behind msg0.src msg0.dst msg0.hop none = false) ∧
    (let s := { (evAt (fun a => { a with load := .carry carry0 })) with carries := [carry0] }; s.carries.find? (fun y => y.src == carry0.src && y.dst == carry0.dst) = some carry0 ∧ s.reachable 1 ⟨0, 0⟩ = true ∧
      (s.tile 0).sq.carries.length < 8 ∧ s.heldBack carry0.src 0 carry0.bound = false ∧ s.awayHome 1 carry0.key = none) ∧
    (let s := { evAt (fun a => { a with load := .delivery block0 }) with gangs := [{ gang 0 [] with phase := .out }] }; s.heldBack block0.src 0 block0.bound = true ∧ block0.dst.pkg = s.pkg ∧
      (s.tile 0).isFenced = false) := by decide +kernel

/-- A transfer of a `COLL` of tile 1 behind another, one that is late, and a channel of its group. -/
theorem witness_ArrivalEventsComplete_transfers :
    let k : Contribution := { contrib0 with ack := some (1, 0), seq := 1 }
    let c : Cmd := { cmd0 with key := 0, instr := .coll ⟨tok0, 0, 0, false, false, true, 0, 0, false, 0, 0, 0⟩ }
    let s := fun (n : Nat) => { ((evAt (fun a => { a with tile := 1, flag := true })).modPart 0 (fun x => { x with groups := [(2, grp [0, 1])] })).modTile 1
       (fun t => { t with en := { t.en with lkq := [c], chans := [(0, (2, 0))], chansOk := true } }) with contribs := [contrib0, { k with seq := 0 }, k], blocks := [block0, { block0 with seq := 1 }], stamp := n }
    (s 0).contribBehind k = true ∧ (s 0).contribBehind contrib0 = false ∧ (s 0).blockBehind { block0 with seq := 1 } = true ∧ (s 0).blockBehind block0 = false ∧
      (s 0).transferLate 1 0 = false ∧ (s 7000000).transferLate 1 0 = true ∧ (s 0).awayHome 1 0 = none ∧ ((s 0).tile 1).en.lkq.find? (·.key == 0) = some c ∧ c.status = [] ∧
      (s 0).group ((s 0).tile 1).id.part (((s 0).tile 1).chan 0) = some (grp [0, 1]) := by decide +kernel

/-- A receive that accepts, and a command of CE that may end. -/
theorem witness_ArrivalEventsComplete_commands :
    (let s := { evAt (fun a => { a with load := .msg { msg0 with src := ⟨0, 0⟩ } }) with msgs := [{ msg0 with src := ⟨0, 0⟩ }] }.modTile 0
       (fun t => { t with en := { t.en with posted := [posted0] } })
     (s.tile 0).en.posted.find? (·.accepts { msg0 with src := ⟨0, 0⟩ }) = some posted0 ∧
       ∃ t va, { s with msgs := [] }.deliver 0 posted0 { msg0 with src := ⟨0, 0⟩ } = (t, va, .ok ())) ∧
    (let s := (evAt id).modTile 0 (fun t => { t with en := { t.en with ceq := [{ cmd0 with performed := true, chan := some 5 }] } })
     (s.tile 0).faulted .ce = false ∧ ((s.tile 0).cmds .ce).find? (fun c => (s.tile 0).mayEnd .ce c) = some { cmd0 with performed := true, chan := some 5 } ∧ engineCol 0 = .ce) :=
  ⟨⟨by decide, _, _, rfl⟩, by decide⟩

def line0 : BLine := ⟨0x10000, 2, 0, 1⟩
def dieAt (a : Arg → Arg) (f : Die → Die) : State := (evAt a).modDie 0 f
/-- A line with one sector and one dirty byte; an access that is answered and one that faults; a sector of a tile; a slice that retires; carve-outs that stay inside and do not; phases of a shootdown. -/
theorem witness_MemoryEventsComplete :
    (let s := runAt (fun a => { a with idx := 8 }) id; (∃ t b, s.coRead 0 0 8 .rd = (t, .ok b)) ∧ (∃ t f, s.coRead 0 0x10000 8 .rd = (t, .fault f)) ∧ ∃ t u, s.coWrite 0 0 [some 1] = (t, .ok u)) ∧
    (let s := dieAt (fun a => { a with idx := 4 }) (fun x => { x with lines := [(0, line0)], retiring := [36] })
     find (s.die 0).lines (lineKey s.arg.part s.arg.num) = some line0 ∧ line0.valid.getLsbD (s.arg.num % 128 / 32) = false ∧ line0.pa / 32 + 0 ∉ (s.die 0).bad ∧ line0.valid.getLsbD 1 = true ∧ line0.dirty ≠ 0 ∧
       (s.die 0).retiring.filter (fun e => e % 32 == s.arg.idx) ≠ [] ∧ (s.die 0).mapBusy = false ∧ s.mem.wf = true) ∧
    (let s := (evAt id).modTile 0 (fun t => { t with cache := [(sectorKey 0, ⟨true, 7, 1, true, true, none⟩)] }); find (s.tile 0).cache (sectorKey 0) = some ⟨true, 7, 1, true, true, none⟩) ∧
    (let s := (evAt (fun a => { a with idx := 5, sub := 2 })).modTile 0 (fun t => { t with run := true }); (s.tile 0).run = true ∧ (s.tile 0).faulted ((codeCol s.arg.sub).getD .ct) = false) ∧
    (let s := inGang 0 (evAt (fun a => { a with idx := 3 })); s.gangOf 0 = some (gang 0 []) ∧ (evAt id).gangOf 0 = none) ∧
    (let x := State.reset.die 0; x.carveOverlap 0 0 64 = false ∧ (0 : Nat) + 64 ≤ 64 ∧ x.carveTotal 0 + 64 ≤ 64 ∧ (get 0 x.carve 0).getLsbD 13 = false ∧ x.shctl.getLsbD 9 = true ∧ x.retiring = [] ∧ State.reset.storesDue x = false ∧
      { x with owner := [(frameKey 0x10000, 0x40)] }.touchesRedric 0x10000 65536 = false ∧ x.engOn.getLsbD 3 = false ∧ x.carveTotal 8 + 4 ≤ x.carveLimit) ∧
    (let x : Die := { Die.reset 0 with carve := [(0, 0x2040)] }; (get 0 x.carve 0).getLsbD 13 = true ∧ (get 0 x.carve 0).getLsbD 14 = false ∧ x.carveOverlap 1 0 1 = true ∧ x.carveTotal 1 = 1) ∧
    (let v : Word := 0x110; wfld v 4 2 < 2 ∧ v.getLsbD 8 = true ∧ (0x10000 : Word).toNat % 65536 = 0 ∧ (0x20000000 : Word).toNat ≤ 2 ^ 29) :=
  ⟨⟨⟨_, _, rfl⟩, ⟨_, _, rfl⟩, ⟨_, _, rfl⟩⟩, by decide +kernel, by decide, by decide, by decide, by decide +kernel, by decide +kernel, by decide⟩

/-- A window that is valid and one that is not; a queue base that is off by one; sizes of queues and rings at the ends of their ranges and one beyond each; a tail that is as far as the ring is long, and one
beyond it. -/
theorem witness_HostEventsComplete :
    (let s := runAt id (fun x => { x with hwin := [(0, 1)] }); (s.part 0).st ≠ 0 ∧ (get 0 (s.part 0).hwin 0).getLsbD 0 = true ∧ (get 0 (s.part 0).hwin 1).getLsbD 0 = false ∧
      (∃ t b, s.coRead 0 0 8 .rd = (t, .ok b)) ∧ (∃ t f, s.coRead 0 0x10000 8 .rd = (t, .fault f)) ∧ ∃ t, s.coWrite 0 0 [some 1] = (t, .ok ())) ∧
    (let s := runAt (fun a => { a with idx := 63 }) (fun x => { x with queues := [(63, { Queue.reset with ctl := 0x104 })] }); (s.queue 0 63).ctl.getLsbD 8 = true ∧ (s.queue 0 63).base.toNat % 2 ^ (4 + 6) = 0 ∧
      (s.queue 0 63).log2n = 4 ∧ 2 ^ (s.queue 0 63).log2n - (s.queue 0 63).used = 16 ∧ halfWrite 1 (s.queue 0 63).base 0 0x40 ≠ (s.queue 0 63).base) ∧
    wfld (4 : Word) 0 5 = 4 ∧ wfld (16 : Word) 0 5 = 16 ∧ wfld (17 : Word) 0 5 = 17 ∧ wfld (0x10000000008 : Word) 0 5 = 8 ∧ wfld (0x10000000008 : Word) 40 8 = 1 ∧ wfld (0x10F000000014 : Word) 36 4 = 15 ∧
    (let s := runAt (fun a => { a with idx := 3, val := 0x8 }) id; s.savedOn 0 3 = false ∧ wfld s.arg.val 0 4 = 8 ∧ wfld (0x9 : Word) 0 4 = 9 ∧ wfld (0x1FFFFFFFFFF0000 : Word) 57 7 = 0) := by
  refine ⟨⟨by decide, by decide, by decide, ⟨_, _, rfl⟩, ⟨_, _, rfl⟩, ⟨_, rfl⟩⟩, ?_⟩
  decide

/-- Walker 0 of partition 0 at node 0 of the nodes at 0x100; each node lies there as R132 writes it: OP, FL, TGT and IMM, then three words. -/
def walkAt (op fl imm tgt w1 w2 w3 : Nat) (f : Part → Part) : State :=
  within (runAt id (fun x => f { x with walkers := [(0, { Walker.reset with base := 0x100, ctl := 2 ^ 32, stat := 1 })] }))
    [(0x100, leBytes 8 (op + fl * 2 ^ 8 + tgt * 2 ^ 16 + imm * 2 ^ 32) ++ leBytes 8 w1 ++ leBytes 8 w2 ++ leBytes 8 w3)]
def nodeOf (b : List Byte) : Node := ⟨leNat (b.take 8), leNat ((b.drop 8).take 8), leNat ((b.drop 16).take 8), leNat (b.drop 24)⟩
/-- The walker reads its node. -/
def reads (s : State) (ok : Node → Bool) : Bool :=
  (s.part 0).st == 2 && (s.walker 0 0).state == 1 && !(s.walker 0 0).waiting && (match (s.coRead 0 0x100 32 .rd).2 with | .ok b => ok (nodeOf b) | _ => false)
/-- Every kind of node, a bad one, one whose target lies behind the array, and a walker that does not run. -/
theorem witness_GraphEventsComplete :
    reads (walkAt 1 0 3 0 0x40 0 0 (fun x => { x with queues := [(3, { Queue.reset with ctl := 0x204 })] })) (fun n => n.kind == 1 && !n.bad) = true ∧
    reads (walkAt 2 0 0 0 0x40 0 0 (fun x => { x with deficit := 1 })) (fun n => n.kind == 2 && !n.bad) = true ∧
    reads (walkAt 3 0 0 0 0x40 0 0 id) (fun n => n.kind == 3 && !n.bad) = true ∧ reads (walkAt 4 0 0 0 0x40 1 0 id) (fun n => n.kind == 4 && !n.bad) = true ∧
    reads (walkAt 5 0 0 1 0x40 0 1 id) (fun n => n.kind == 5 && !n.bad && n.tgt == 1) = true ∧ reads (walkAt 6 0 0 0 0x40 2 0 id) (fun n => n.kind == 6 && !n.bad) = true ∧
    reads (walkAt 7 0 1 0 0x40 0x80 0 id) (fun n => n.kind == 7 && !n.bad) = true ∧ reads (walkAt 8 0 1 0 0x40 0x80 0 id) (fun n => n.kind == 8 && !n.bad) = true ∧
    reads (walkAt 9 0 0 0 0 0 0 id) (fun n => n.kind == 9 && !n.bad) = true ∧ reads (walkAt 0 0 0 0 0 0 0 id) (fun n => n.bad) = true ∧
    (let s := walkAt 9 0 0 0 0 0 0 id; (s.walker 0 0).len = 1 ∧ (s.walker 0 0).node = 0 ∧ (s.walker 0 1).state ≠ 1) ∧
    (let s := { walkAt 2 0 0 0 0x40 0 0 (fun x => { x with deficit := 1 }) with visit := 0, visiting := true }; s.visiting = true ∧ s.visit = 0 ∧ 0 < (s.part 0).deficit) := by decide +kernel

theorem witness_OwnershipEventsComplete :
    (let s := evAt (fun a => { a with bytes := [1, 0] }); s.arg.items = [1] ∧ (∀ k ∈ s.arg.items, s.exists_ false k = true ∧ s.ownByte false k &&& 0xF0 = 0x40)) ∧
    (let s := (runAt (fun a => { a with bytes := [1, 0] }) id).modTile 1 (fun t => { t with id := { t.id with ownV := true } }); (∀ k ∈ s.arg.items, (s.ownByte false k).getLsbD 7 = true ∧ s.gangOf k = none) ∧
      s.ownsAny 0 = true) ∧
    (let s := (evAt id).modTile 0 (fun t => { t with id := { t.id with ownClr := false } }); (s.tile 0).ownByte = 0) ∧ (State.reset.ownsAny 0 = false) ∧ (State.reset.part 0).st < 2 := by decide +kernel

/-- Tile 0 and its neighbour in the east, at the places of a round. -/
def watchAt (pre : Nat) (f : Watch → Watch) : State :=
  { (evAt id).modDie 0 (fun x => { x with wctl := 0x8000000003 }) with tm := { Time.reset with pre := pre } }.modTile 0 (fun t => { t with wa := f t.wa })
theorem witness_JudgementVerdicts :
    (let s := watchAt 2048 (fun w => { w with nbr := [(1, ⟨false, none, 2, 0, 0, false, .healthy⟩)] }); (s.die (dieOf 0)).watchEn = true ∧ s.tm.pre % 4096 = 2048 ∧ neighbour 0 1 = some 1 ∧ ((s.tile 0).nbr 1).missed + 1 = 3 ∧
      (s.die 0).inj ≠ 0) ∧
    (let s := watchAt 6144 (fun w => { w with nbr := [(1, ⟨true, none, 0, 2, 15, false, .healthy⟩)] }); s.tm.pre % 4096 = 2048 ∧ ((s.tile 0).nbr 1).verdict = 2 ∧ ((s.tile 0).nbr 1).clear + 1 = 16 ∧ ((s.tile 0).nbr 1).bad = false ∧
      (s.tile 1).wa.overInjects (s.die 0).inj = false) ∧ { Watch.reset with injected := List.replicate 8 4097 }.overInjects 1 = true := by
  decide

/-- The three places of a round; a command to fence; an appeal at its first evaluation; a self-test at its deadline. -/
theorem witness_WatchEventsComplete :
    (watchAt 4096 id).tm.pre % 4096 = 0 ∧ (let s := watchAt 3072 id; (s.die 0).watchEn = true ∧ s.tm.pre % 4096 = 3072 ∧ (s.tile 0).wa.health = .healthy) ∧
    (let s := watchAt 3072 (fun w => { w with fenceCmd := true }); (s.tile 0).wa.fenceCmd = true ∧ (s.tile 0).wa.health = .healthy) ∧
    (let s := (watchAt 0 (fun w => { w with health := .fenced, evalCnt := 256, beating := true })).modDie 0 (fun x => { x with wctl := 3 }); (s.tile 0).wa.health = .fenced ∧ 256 ≤ (s.tile 0).wa.evalCnt ∧ (s.tile 0).wa.perm = false ∧ (s.tile 0).wa.beating = true ∧
      (s.die (dieOf 0)).appen = true) ∧
    (let s := watchAt 0x400000 (fun w => { w with health := .testing }); (s.tile 0).wa.health = .testing ∧ (s.tile 0).wa.testStart + 2 ^ 22 ≤ s.tm.pre) ∧
    (let s := (evAt (fun a => { a with val := 1 })).modTile 0 (fun t => { t with wa := { t.wa with bootFail := true } }); (s.die 0).watchEn = false ∧ s.arg.val.getLsbD 0 = true ∧ (s.tile 0).wa.bootFail = true) := by decide

/-- A record of a gang of one on tile 1, with code at 0x1000, and a gang of one on tile 0 in a phase. -/
def rec0 : List Word := [0x1000, 0, 0, 0, 0x8001000002, 0, 0, 0]
def gangAt (ph : GangPhase) (s : State) : State := { s with gangs := [{ gang 0 [0x1000, 7, 0x80, 0, 0, 9, 0, 0] with phase := ph, start := 64 }] }
def headAt (r : List Word) (f : Part → Part) : State :=
  { ran (owned1 (runAt id (fun x => f { x with queues := [(0, { Queue.reset with ctl := 0x104, tail := 1, rec_ := some r })] }))) with visit := 0, visiting := true }
/-- The selection of the state, with the heads of the partition it visits. -/
def selects (s : State) (ok : Sel → Bool) : Bool := let hs := (s.part s.visit).ordered (s.heads s.visit); ok (s.select s.visit hs).2
theorem witness_SchedulingEventsComplete :
    (let s := runAt id (fun x => { x with queues := [(0, { Queue.reset with ctl := 0x104, tail := 1 })] }); (s.queue 0 0).ctl.getLsbD 8 = true ∧ (s.queue 0 0).head ≠ (s.queue 0 0).tail ∧ (s.queue 0 0).rec_ = none ∧
      (match (s.coRead 0 0 64 .rd).2 with | .ok b => b.length == 64 | _ => false) = true) ∧
    ({ headAt rec0 id with visiting := false }.nextVisit = some 0) ∧ State.reset.nextVisit = none ∧
    (let s := headAt rec0 (fun x => { x with deficit := 1 }); selects s (fun z => match z with | .place h b => b == 1 && shLog h.rec_ == 0 | _ => false) = true ∧ 2 ^ 0 ≤ (s.part 0).deficit ∧ s.eligible 0 = true ∧
      (s.restores 0).any (fun g => s.idleBlock g.base g.log2) = false ∧ s.placedAt = none) ∧
    selects (headAt (rec0.set 6 1) id) (fun z => match z with | .drop _ c => c == 9 | _ => false) = true ∧
    selects (headAt (rec0.set 4 0x10001000002) id) (fun z => match z with | .drop _ c => c == 8 | _ => false) = true ∧
    selects { (headAt rec0 id) with gangs := [{ gang 0 [] with base := 1 }] } (fun z => match z with | .idle => true | _ => false) = true := by decide +kernel

theorem witness_SchedulingEventsComplete_gangs :
    (let s := gangAt .placed (runAt id id); s.gangOf 0 = some { gang 0 [0x1000, 7, 0x80, 0, 0, 9, 0, 0] with phase := .placed, start := 64 } ∧ (s.tile 0).en.chansOk = false ∧ s.cutOff 0 (s.part 0).chbase.toNat = false ∧
      (match (s.coRead 0 0x10000 4096 .rd).2 with | .fault _ => true | _ => false) = true) ∧
    (let s := { (gangAt .placed (runAt id id)).modTile 0 (fun t => { t with en := { t.en with chansOk := true } }) with stamp := 64 }; (match s.gangOf 0 with | some g => s.startStamp g == some 64 | none => false) = true ∧
      s.pw.mode ≠ 1 ∧ s.stamp % 64 = 0) ∧
    (let s := { within (runAt id id) [(0x80, [2])] with joins := [gang 0 [0, 0, 0x80]] }; s.joins[0]? = some (gang 0 [0, 0, 0x80]) ∧
      (match s.coRead 0 0x80 8 .rmw with | (t, .ok b) => leNat b == 2 && (match (t.coWrite 0 0x80 ((leBytes 8 (leNat b - 1)).map some)).2 with | .ok _ => true | _ => false) | _ => false) = true) ∧
    (let s := runAt (fun a => { a with val := 0x1000000010000 }) (fun x => { x with next := 700 }); wfld s.arg.val 0 18 = 65536 ∧ 700 ≤ (s.part 0).next.toNat ∧ (s.part 0).slice.getLsbD 48 = false ∧ (s.part 0).lastSwitch = 0) ∧
    (let s := gangAt .running (runAt id (fun x => { x with slice := 0x1020000000000, save := [(0, 1)] })); (s.part 0).slice.getLsbD 48 = true ∧ (s.part 0).next.toNat ≤ s.stamp ∧ (s.part 0).slice.getLsbD 40 = false ∧
      (∀ g ∈ s.gangs, s.mayPreempt g = true ∧ s.freeCtx 0 g.base g.log2 = some 0)) ∧
    (let s := { runAt id (fun x => { x with lastSwitch := 8 }) with stamp := 65544 }; (s.part 0).lastSwitch + wfld (s.part 0).slice 0 18 ≤ s.stamp) ∧
    (let s := (gangAt .saving (runAt id id)).modTile 0 (fun t => { t with run := true }); (s.tile 0).run = true ∧ (∀ c ∈ [Col.ce, .lk, .sq], s.engineHeld 0 c = true) ∧ (s.tile 0).ct.reqs = [] ∧ (s.tile 0).ct.handler = false ∧
      (s.tile 0).pend.any (·.act.toMemory) = false ∧ s.levelRunning 0 = false) ∧
    (let s := { runAt id id with gangs := [{ gang 0 [] with phase := .out, cand := some 0 }] }; ((s.restores 0).filter (fun g => g.base == 0 && s.idleBlock g.base g.log2)).length = 1) ∧
    (let s := (gangAt .restoring (evAt id)); (s.gangOf 0).isSome = true ∧ (s.gangs.all (fun g => match (s.restoreTiles g g.tiles).2 with | .fault _ => true | _ => false)) = true) := by decide +kernel

/-- A line of one word of CT in lane 1, and what each event of a tile waits for. -/
def lineOf (codes w : Nat) (f : Tile → Tile) : State :=
  { (evAt id).modTile 0 (fun t => f { t with run := true, ct := { t.ct with handler := true }, fe := { t.fe with on := true, pc := 0x1000, at_ := 0 } }) with pager := Memory.store [] 0x1000 (leBytes 4 codes ++ leBytes 4 w) }
theorem witness_TileEventsComplete :
    (let s := lineOf 0x1F 0x04000000 id; let x := s.tile 0; x.fe.on = true ∧ x.fe.at_ ≤ s.stamp ∧ x.ct.reqs = [] ∧ x.iq .ct = [] ∧ x.fe.drain = false ∧ x.readsOn = true ∧ x.fe.buf = [] ∧
      (match (s.readLine 0 0x1000).2 with | .line l => (match lineWords l with | some ws => ws.length == 1 && x.roomFor (lineQueue 0x1000 0 ws) | none => false) | _ => false) = true) ∧
    (let s := lineOf 0x2F0 0 id; (match (s.readLine 0 0x1000).2 with | .line l => (lineWords l).isNone | _ => false) = true) ∧
    ((lineOf 0 0 (fun t => { t with fe := { t.fe with buf := [0, 0, 0, 0] } })).tile 0).readsOn = false ∧
    (let s := lineOf 0 0 (fun t => { t with ct := { t.ct with reqs := [trapReq tILLINSN 6 0x1000 0] } }); (s.tile 0).midLevel = false ∧ (s.tile 0).ct.reqs.find? (fun _ => true) = some (trapReq tILLINSN 6 0x1000 0)) := by decide +kernel

/-- A gang whose ranks have arrived at their barrier; a missed word of ST that is ready, and one that has waited; a kernel at its first position; a Flight at its tree's node whose child has arrived, one
that waits for it, and one at its end. -/
def flight0 : Flight := ⟨.scan, imgAdd, 1, 1, 2, 8, 0, 100, 0, none, none, [], none, [], 1, 0x1000, 500, 0, 2, 0, none, none⟩
def pairAt (own child : Nat) (cnt : Nat) : State :=
  ((inGang 1 (evAt (fun a => { a with tile := 1 }))).modTile 0 (fun t => { t with cnt := cnt, sq := { t.sq with flight := some { flight0 with lev := child } } })).modTile 1
    (fun t => { t with cnt := cnt, sq := { t.sq with flight := some { flight0 with lev := own } } })
def missedAt (stamp : Nat) : State :=
  { (at0 .st (fun t => { t with fe := { t.fe with cols := [(colCode .st, { ColSt.init with st := .missed ⟨130, 700, 140⟩ })], iq := [(colCode .st, [⟨0x1004, 0, none⟩])] } })) with stamp := stamp }
theorem witness_TileEventsComplete_columns :
    (let s := { inGang 0 (evAt id) with gangs := [{ gang 0 [] with arrived := [0] }] }.modTile 0 (fun t => { t with cnt := 128 }); (s.gangs.all (fun g => g.tiles.all (fun m =>
      g.arrived.contains (m - g.base) && (s.tile m).priorDone (s.tile m).ct.barPrior) && decide (g.lastArrival + freezeDist g ≤ (s.tile g.base).cnt))) = true) ∧
    (let s := missedAt (700 + missWait); let x := s.tile 0; (x.col .st).st = .missed ⟨130, 700, 140⟩ ∧ x.iq .st = [⟨0x1004, 0, none⟩] ∧ x.has (s.wordNeeds 0 .st ⟨0x1004, 0, none⟩) = true ∧
      (s.wordNeeds 0 .st ⟨0x1004, 0, none⟩).arrays = false ∧ 700 + missWait ≤ s.stamp ∧ x.faulted .st = false) ∧ (missedAt 700).stamp < 700 + missWait ∧
    (let s := (evAt id).modTile 0 (fun t => { t with fe := { t.fe with seqr := { t.fe.seqr with run := true, lines := 0, ii := 1, sc := 1, n := 2 } } }); let q := (s.tile 0).fe.seqr
      q.run = true ∧ q.lines = 0 ∧ (∀ c ∈ otherCols, get 0 q.ahead (colCode c) = 0) ∧ q.due = [] ∧ s.slotReady 0 (q.slot q.pos) = true) ∧
    (let s := pairAt 0 0 1000; (s.gangOf 1).isSome = true ∧ (s.tile 1).sq.flight = some flight0 ∧ flight0.due 1 1 ≤ (s.tile 1).cnt ∧ ¬flight0.stages < 1 ∧ (1 + 1) % 2 ^ flight0.form.level 1 1 = 0 ∧
      flight0.form.up 1 1 = true ∧ s.mate 0 1 = some flight0 ∧ 1 ≤ flight0.lev + 1 ∧ s.levelRuns (gang 1 []) 1 1 flight0 = true ∧ (s.tile 1).flightTrapped flight0 = false) ∧
    (let s := pairAt 2 2 1000; (s.tile 1).sq.flight = some { flight0 with lev := 2 } ∧ flight0.stages < 2 + 1 ∧ flight0.fin ≤ (s.tile 1).cnt) := by decide +kernel

/-- A job whose next sequence is live and sound, or is not live; at its end; and without an idle engine. -/
def jobsAt (kind w0 : Nat) (l : List (Nat × List Byte)) (f : Job → Job) : State :=
  within (leaves (State.reset.modDie 0 (fun x => { x with jobs := [f (newJob kind 0 0 none [BitVec.ofNat 64 w0, 0x200, 0x800, 0x900, 0, 0xA00, 0xB00, 0])] }))) l
def seq0 (sfl draft : Nat) : Nat × List Byte := (0x200, leBytes 4 0 ++ leBytes 4 sfl ++ leBytes 56 0 ++ leBytes 8 draft ++ leBytes 56 0)
def answers (x : State × JAns α) : Bool := match x.2 with | .ok _ => true | _ => false
theorem witness_JobsEventsComplete :
    (let s := jobsAt 0 0x11000 [seq0 1 0] id; (s.die 0).sluices.findIdx? (!·.running) = some 0 ∧ (match s.job 0 0 with
      | some j => j.fail.isNone && decide (j.next < j.nseq) && !j.ended && (match readSeq s j 0 with | (_, .ok b) => sflLive (sdSfl b) && !sflHeld (sdSfl b) && answers (checkSeq s j b) | _ => false)
      | none => false) = true) ∧
    (let s := jobsAt 0 0x11000 [seq0 0 0] id; (match s.job 0 0 with | some j => answers (s.putPair 0 j 0 negInf.toNat f32.nan skipPair) | none => false) = true) ∧
    (let s := jobsAt 1 0x10001 [seq0 1 0x400] id; (match s.job 0 1 with
      | some j => (match readSeq s j 0, jread s 0 0 0x400 256 with | (_, .ok b), (_, .ok v) => sdDraft b == 0x400 && vrStep v == sdStep b && answers (checkSeq s j b) && answers (jwrite s 0 0 0x40C (leBytes 4 0)) | _, _ => false)
      | none => false) = true) ∧
    (let s := jobsAt 2 0x10002 [seq0 1 0x400] (fun j => { j with pass := 2 }); (match s.job 0 2 with
      | some j => (match readSeq s j 0 with | (_, .ok b) => answers (commitUnitOf s j 0 b) | _ => false) && !j.retried.contains 0
      | none => false) = true) ∧
    (let s := jobsAt 2 0x10002 [seq0 0 0] (fun j => { j with pass := 4 }); (match s.job 0 2 with | some j => answers (allSeqs s j) && answers (jwrite s 0 0 j.ae (leBytes 8 1)) | none => false) = true) ∧
    (let s := jobsAt 2 2 [] (fun j => { j with ended := true }); (match s.job 0 2 with | some j => s.partEnded 0 j && j.home == 0 && j.stat % 8 == 0 && answers (jwrite s 0 0 j.stat (leBytes 8 1)) | none => false) = true) ∧
    (let s := runAt id (fun x => { x with rings := [(0, { Ring.reset with ctl := 0x1010000000008, pend := 1 })] }); wfld (s.ring 0 0).ctl 48 16 ≠ 0 ∧ 0 < (s.ring 0 0).pend ∧
      (s.ring 0 0).t1 + 700 * wfld (s.ring 0 0).ctl 48 16 ≤ 700) := by decide +kernel

/-! Encodings, the step, landings and engines -/

/-- One well-formed word of each column. -/
theorem witness_EncodeDecode :
    ([.add cr0, .ldi 31 0x1FFFFF, .ldiLong 1 0 0xFFFFFFFF, .halt, .ldp ⟨0, false, false, 15, 0, 0, 9⟩, .copy ce0, .send lk0, .scsnd mt0 5 0 7, .lsubx 15 15 7, .lskip 0 63 1 4] : List Instr).all wellFormed = true := by decide

/-- The four shapes of an agenda, an empty one with an event to come, and a word that stands at the head of its queue. -/
theorem witness_StepRunsDecodedWord :
    (let a : Acting := ⟨0, .ct, ⟨0x1004, 0, none⟩, false⟩
     let s := { ctAt (fun c => { c with mode := true }) with agenda := [.word a, .ev .halt Arg.zero, .engine 0 .ce, .logit 0 0] }.modTile 0 (fun t => { t with fe := { t.fe with iq := [(colCode .ct, [a.q])] } });
     s.agenda = .word a :: [.ev .halt Arg.zero, .engine 0 .ce, .logit 0 0] ∧ (s.tile 0).run = true ∧ s.frozen 0 = false ∧ (s.tile 0).fe.seqr.run = false ∧ ((s.tile 0).iq .ct).head? = some a.q ∧ s.wordStands a = true) ∧
    (let s := { evAt id with agenda := [], inputs := [(.beat, Arg.zero)] }; s.agenda = [] ∧ s.inputs = [(.beat, Arg.zero)]) := by decide

/-- From reset, once its moves are made, a step is taken. -/
theorem witness_StepKeepsMemoryForm : State.reset.memOk = true ∧ (let s := { State.reset with agenda := [] }; s.memOk = true ∧ step s = .next s.tick) := ⟨by decide, by decide, rfl⟩

theorem witness_LandingsWrite : Tile.reset.st.spad.wf = true ∧ (15 : Nat) < 16 ∧ (95 : Nat) < 96 ∧ (7 : Nat) < 8 ∧ Tile.reset.qs.raises = [] := by decide

/-- A `COPY`, a `FILL`, an `XADD` and a `CAS` on the scratchpad, one piece of a command left and none. -/
theorem witness_EnginePiecesMove :
    (let c := { cmd0 with instr := .copy { ce0 with fn := 40 }, lines := 1 }; let s := (evAt id).modTile 0 (fun t => { t with en := { t.en with ceq := [c] } }); let x := s.tile 0
      x.faulted .ce = false ∧ x.en.ceq = [c] ∧ c.started = true ∧ c.performed = false ∧ c.ahead = none ∧ x.st.spad.wf = true ∧ ssp { ce0 with fn := 40 } = 1 ∧ dsp { ce0 with fn := 40 } = 1 ∧ 128 * c.lines < c.opnd 2 ∧
        ¬128 * { c with lines := 2 }.lines < c.opnd 2) ∧
    dsp { ce0 with fn := 8 } = 1 := by decide

/-! ### Further states, for the clauses on held write-backs, direct stores, loops and modes -/

/-- A dirty byte of address 0x40 in the cache of tile 0, with every slice index of die 0 in motion, so that a slice holds its write-back. -/
def dirtySector : Sector := ⟨true, 7, 1, true, true, none⟩
def moving (s : State) : State := s.modDie 0 (fun x => { x with retiring := (List.range 32).map (32 * ·) })
def dirtyAt (f : Ct → Ct) : State := paged (at0 .ct (fun t => { t with ct := f t.ct, cache := [(sectorKey 0x40, dirtySector)] }))
def heldAt (f : Ct → Ct) : State := moving (dirtyAt f)
/-- The page with ATTR = 2, and without the right to write. -/
def direct (s : State) : State := s.modDie 0 (fun x => { x with tlb := [{ leaf0 with leaf := 0x2000000100DD#64 }] })
def readOnly (s : State) : State := s.modDie 0 (fun x => { x with tlb := [{ leaf0 with leaf := 0x1000000100D5#64 }] })
/-- Where a store of 8 bytes at 0x40 by tile 0 goes, and what a read there answers. -/
def storing (s : State) (ok : State → StoreTo → Bool) : Bool := match s.storeCheck 0 0x40 8 false noneWhole with | (t, .ok w) => ok t w | _ => false
def storeEnds (s : State) (fault : Bool) : Bool := match (s.storeCheck 0 0x40 8 false noneWhole).2 with | .ok _ => false | .wait => !fault | .fault _ => fault
def readEnds (s : State) (va : Nat) (fault : Bool) : Bool := match (s.tileRead 0 va 8 false).2 with | .ok _ => false | .wait => !fault | .fault _ => fault
/-- A store to 0x40 that waits to land. -/
def waitingStore (t : Tile) : Tile := { t with pend := [⟨0, 49, .coStore 0x40 0 0 [none] 0 [] 7 []⟩] }

/-- A direct store; one that faults and one that waits; a store without and with room; the mailbox window with its waits; a read that faults and one that waits. -/
theorem witness_ScalarMemoryCompletes_more :
    (let s := direct (ctAt (fun c => { c with g := [(1, 0x40)] })); CtStarts s (gNeeds [1, 2] []) ∧ storing s (fun _ w => match w with | .direct _ a => a == 2 | _ => false) = true) ∧
    (let s := readOnly (ctAt (fun c => { c with g := [(1, 0x40)] })); CtStarts s (gNeeds [1, 2] []) ∧ storeEnds s true = true) ∧
    (let s := at0 .ct (fun t => waitingStore { t with ct := { t.ct with g := [(1, 0x40)] } }); CtStarts s (gNeeds [1, 2] []) ∧ storeEnds s false = true) ∧
    (CtStarts memAt (gNeeds [1, 2] []) ∧ storing memAt (fun t w => match w with | .cached _ _ _ => !t.roomWaits 0 0x40 8 | _ => false) = true) ∧
    (let s := hdlAt (fun c => { c with g := [(1, 0xFF00000000000018)] }); CtStarts s (gNeeds [1] [2]) ∧ (s.acquireCache 0 0xF 4).cacheHeld 0 0xF 4 = false ∧
      ((s.knows 0 0xF).releaseCache 0 0xF 4).cacheHeld 0 0xF 4 = false) ∧
    (let s := heldAt (fun c => { c with handler := true, mode := true, g := [(1, 0xFF00000000000018)] }); CtStarts s (gNeeds [1] [2]) ∧ CtStarts s (gNeeds [1, 2] []) ∧ s.priorMet 0 0xF = true ∧
      (s.acquireCache 0 0xF 4).cacheHeld 0 0xF 4 = true ∧ ((s.knows 0 0xF).releaseCache 0 0xF 4).cacheHeld 0 0xF 4 = true) ∧
    readEnds memAt 0x20000 true = true ∧ readEnds (at0 .ct waitingStore) 0x40 false = true :=
  ⟨⟨ctStarts_of _ _ (by decide), by decide⟩, ⟨ctStarts_of _ _ (by decide), by decide⟩, ⟨ctStarts_of _ _ (by decide), by decide⟩, ⟨ctStarts_of _ _ (by decide), by decide⟩,
    ⟨ctStarts_of _ _ (by decide), by decide, by decide⟩, ⟨ctStarts_of _ _ (by decide), ctStarts_of _ _ (by decide), by decide, by decide, by decide⟩, by decide, by decide⟩

/-- A cache of lines that each hold a dirty byte, with every slice index but that of 0x40 in motion. -/
def filled (l : List Nat) : State :=
  (paged (at0 .ct (fun t => { t with ct := { t.ct with g := [(1, 0x40)] }, cache := l.map (fun k => (4 * k, dirtySector)) }))).modDie 0
    (fun x => { x with retiring := ((List.range 32).filter (· != sliceIndex 0x40)).map (32 * ·) })
/-- 512 of them. -/
def fullLines : List Nat := (((List.range 600).map (· + 8)).filter (fun k => sliceIndex (128 * k) != sliceIndex 0x40)).take 512

/-- A rising list has no repeats. -/
theorem eraseDups_of_rising (l : List Nat) (h : l.Pairwise (· < ·)) : l.eraseDups = l := by
  induction l with
  | nil => rfl
  | cons a l ih =>
    rw [List.pairwise_cons] at h
    rw [List.eraseDups_cons, List.filter_eq_self.2 (fun b hb => by simpa using (Nat.ne_of_lt (h.1 b hb)).symm), ih h.2]

theorem filled_lines (l : List Nat) (h : l.Pairwise (· < ·)) : ((filled l).tile 0).cacheLines = l := by
  have e : ((filled l).tile 0).cache = l.map (fun k => (4 * k, dirtySector)) := rfl
  rw [Tile.cacheLines, e, List.map_map]
  simpa [Function.comp_def] using eraseDups_of_rising l h

/-- Where a slice holds every line, none may leave. -/
theorem filled_victims (l : List Nat) (h : l.Pairwise (· < ·)) (hh : l.all (fun k => (filled l).holdsBack 0 (32 * (4 * k))) = true) (va n : Nat) :
    (filled l).victims 0 va n = [] := by
  rw [State.victims, filled_lines l h, List.filter_eq_nil_iff]
  intro k hk
  have hk' := List.all_eq_true.1 hh k hk
  have : (((filled l).tile 0).cache.any (fun e => e.1 / 4 == k && e.2.dirty != 0 && !((filled l).tile 0).wa.health.cut && (filled l).holdsBack ((filled l).tile 0).id.part (32 * e.1))) = true :=
    List.any_eq_true.2 ⟨(4 * k, dirtySector), List.mem_map_of_mem hk, by
      have h1 : ((filled l).tile 0).wa.health.cut = false := rfl
      have h2 : ((filled l).tile 0).id.part = 0 := rfl
      simp [h1, h2, hk', dirtySector]⟩
  simp only [this, Bool.not_true, Bool.and_false, Bool.false_eq_true, not_false_eq_true]

theorem fullLines_rising : fullLines.Pairwise (· < ·) := by
  have h : (((List.range 600).map (· + 8)).filter (fun k => sliceIndex (128 * k) != sliceIndex 0x40)).Pairwise (· < ·) :=
    List.Pairwise.filter _ (List.pairwise_map.2 (List.pairwise_lt_range.imp (fun h => Nat.add_lt_add_right h 8)))
  exact h.sublist (List.take_sublist _ _)

/-- No line can leave the full cache for that of 0x40, to which a store goes. -/
theorem witness_ScalarMemoryCompletes_full : CtStarts (filled fullLines) (gNeeds [1, 2] []) ∧ storing (filled fullLines) (fun t w => match w with | .cached _ _ _ => t == filled fullLines | _ => false) = true ∧
    (filled fullLines).roomWaits 0 0x40 8 = true := by
  refine ⟨ctStarts_of _ _ rfl, by decide +kernel, ?_⟩
  have h : ((filled fullLines).tile 0).hasLine 0x40 = false := by decide +kernel
  have hl : fullLines.length = 512 := by decide +kernel
  have hn : ((linesOf 0x40 8).filter (fun a => !((filled fullLines).tile 0).hasLine a)).length = 1 := by decide +kernel
  have hv := filled_victims fullLines fullLines_rising (by decide +kernel) 0x40 8
  simp [State.roomWaits, filled_lines _ fullLines_rising, hv, hl, hn]

/-- With dirty bytes that a slice holds: the waits of `FENCE`, `CMO`, `SEMW`, `SEMS`, `GBAR`, `MARK`, `DONE` and `MLCB`. -/
theorem witness_OrderingWordsComplete_held :
    (let s := heldAt id; CtStarts s Needs.none ∧ s.priorMet 0 0xF = true ∧ ((s.knows 0 0xF).acquireCache 0 0xF 4).cacheHeld 0 0xF 4 = true) ∧
    (let s := dirtyAt id; ((s.knows 0 0xF).acquireCache 0 0xF 4).cacheHeld 0 0xF 4 = false) ∧
    (let s := heldAt (fun c => { c with g := [(1, 0x40), (2, 1)] }); CtStarts s (gNeeds [1, 2] []) ∧ s.maintainWaits 0 0x40 1 0 = true ∧ s.maintainWaits 0 0x40 1 1 = false) ∧
    (let s := dirtyAt (fun c => { c with g := [(1, 0x40), (2, 1)] }); CtStarts s (gNeeds [1, 2] []) ∧ s.maintainWaits 0 0x40 1 2 = false) :=
  ⟨⟨ctStarts_of _ _ (by decide), by decide, by decide⟩, by decide, ⟨ctStarts_of _ _ (by decide), by decide, by decide⟩, ctStarts_of _ _ (by decide), by decide⟩
theorem witness_SemaphoreWordsComplete_held :
    let s := heldAt (fun c => { c with g := [(2, 6)] })
    CtStarts s (gNeeds [1] []) ∧ scopeOk 4 = true ∧ ((me s).g 1).toNat % 2 ^ 32 ≤ ((me s).sem 4).toNat ∧ (s.acquireCache 0 0xF 4).cacheHeld 0 0xF 4 = true ∧ s.priorMet 0 0xF = true ∧
      ((s.knows 0 0xF).releaseCache 0 0xF 4).cacheHeld 0 0xF 4 = true ∧ (let s := dirtyAt id; (s.acquireCache 0 0xF 4).cacheHeld 0 0xF 4 = false ∧ ((s.knows 0 0xF).releaseCache 0 0xF 4).cacheHeld 0 0xF 4 = false) ∧
      busyStore.priorMet 0 0xF = false ∧ CtStarts busyStore (gNeeds [1] []) :=
  ⟨ctStarts_of _ _ (by decide), by decide, by decide, by decide, by decide, by decide, by decide, by decide, ctStarts_of _ _ (by decide)⟩
theorem witness_EventWordsComplete_held :
    (let s := inGang 1 (heldAt (fun c => { c with released := true })); CtStarts s Needs.none ∧ (me s).service = true ∧ (s.acquireCache 0 0xF 1).cacheHeld 0 0xF 1 = true) ∧
    (let s := inGang 1 (heldAt id); CtStarts s Needs.none ∧ (me s).ct.released = false ∧ (me s).ct.joined = false ∧ ((s.knows 0 0xF).releaseCache 0 0xF 1).cacheHeld 0 0xF 1 = true) ∧
    (let s := inGang 1 (dirtyAt (fun c => { c with released := true })); CtStarts s Needs.none ∧ (s.acquireCache 0 0xF 1).cacheHeld 0 0xF 1 = false ∧ touchesCache 0xF 1 = true) ∧
    (let s := inGang 1 (dirtyAt id); CtStarts s Needs.none ∧ ((s.knows 0 0xF).releaseCache 0 0xF 1).cacheHeld 0 0xF 1 = false) ∧
    (let s := inGang 0 (dirtyAt id); CtStarts s Needs.none ∧ s.gangOf 0 = some (gang 0 []) ∧ s.priorMet 0 0xF = true ∧ ((s.knows 0 0xF).acquireCache 0 0xF 1).cacheHeld 0 0xF 1 = false) :=
  ⟨⟨ctStarts_of _ _ (by decide), by decide, by decide⟩, ⟨ctStarts_of _ _ (by decide), by decide, by decide, by decide⟩, ⟨ctStarts_of _ _ (by decide), by decide, by decide⟩,
    ⟨ctStarts_of _ _ (by decide), by decide⟩, ctStarts_of _ _ (by decide), by decide, by decide, by decide⟩
/-- The check of a `MARK` with PROG at 0x40, and what its release leaves in the cache. -/
def marks (s : State) (held : Bool) : Bool := match (s.knows 0 0xF).check 0 0x1040 8 .wr noneWhole with
  | (t, .ok _ _ _ _) => ((t.markWrite 0 0x1040).releaseCache 0 0xF 4).cacheHeld 0 0xF 4 == held | _ => false
theorem witness_ProgressWordsComplete_held :
    (let prog := fun (s : State) => inGang 0 ((leaves s).modTile 0 (fun t => { t with id := { t.id with prog := 0x1040 } }))
     let moving1 := fun (s : State) => s.modDie 0 (fun x => { x with retiring := [32 * sliceIndex 0x40] })
     sliceIndex 0x40 ≠ sliceIndex 0x1040 ∧ (let s := prog (dirtyAt id); CtStarts s (gNeeds [1] []) ∧ (me s).service = true ∧ s.priorMet 0 0xF = true ∧ s.cutOff 0 0x1040 = false ∧ marks s false = true) ∧
       (let s := prog (moving1 (dirtyAt id)); CtStarts s (gNeeds [1] []) ∧ s.priorMet 0 0xF = true ∧ s.cutOff 0 0x1040 = false ∧ marks s true = true)) ∧
    (let s := inGang 0 (heldAt id); CtStarts s Needs.none ∧ (me s).drained = true ∧ (s.flushCache 0).backHeld 0 (fun _ => true) = true) ∧
    (let s := inGang 1 (dirtyAt id); CtStarts s Needs.none ∧ (me s).drained = true ∧ (s.flushCache 0).backHeld 0 (fun _ => true) = false ∧ (gang 1 []).done.length + 1 ≠ 2 ^ (gang 1 []).log2) :=
  ⟨⟨by decide, ⟨ctStarts_of _ _ (by decide), by decide, by decide, by decide, by decide⟩, ctStarts_of _ _ (by decide), by decide, by decide, by decide⟩,
    ⟨ctStarts_of _ _ (by decide), by decide, by decide⟩, ctStarts_of _ _ (by decide), by decide, by decide, by decide⟩

/-- Words inside a loop: one in its middle and its end word; the loop ends of a stack; the word behind a `LOOP`. -/
theorem witness_LoopWordsComplete_inside :
    (let e : LoopEnt := ⟨0x1000, 0x2000, 2⟩; let s := ctAt (fun c => { c with loops := [e] }); CtStarts s (crNeeds cr0) ∧ loopEnd s.cur.q.addr ((me s).ct.entered s.cur.q.addr) = ([e], none)) ∧
    (let e : LoopEnt := ⟨0x1000, 0x1004, 2⟩; let s := ctAt (fun c => { c with loops := [e] }); CtStarts s (crNeeds cr0) ∧
      loopEnd s.cur.q.addr ((me s).ct.entered s.cur.q.addr) = ([{ e with count := 1 }], some 0x1000)) ∧
    (let e : LoopEnt := ⟨0x1000, 0x1004, 1⟩; let f : LoopEnt := ⟨0x800, 0x1004, 3⟩; let s := ctAt (fun c => { c with loops := [e, f] }); CtStarts s (crNeeds cr0) ∧
      loopEnd s.cur.q.addr ((me s).ct.entered s.cur.q.addr) = ([{ f with count := 2 }], some 0x800)) ∧
    (let e : LoopEnt := ⟨0, 0x2000, 1⟩; let s := ctAt (fun c => { c with mode := true, loops := [e], loopStart := true }); CtStarts s Needs.none ∧ (me s).maintenance = true ∧ (me s).ct.entered 0x1004 = [{ e with first := 0x1004 }]) :=
  ⟨⟨ctStarts_of' _ _ (by decide) (by decide), by decide⟩, ⟨ctStarts_of' _ _ (by decide) (by decide), by decide⟩, ⟨ctStarts_of' _ _ (by decide) (by decide), by decide⟩,
    ctStarts_of' _ _ (by decide) (by decide), by decide, by decide⟩

/-- A tile inside a level of a Flight, and one inside a K-row group of an `MTILE`. -/
def levelAt : State := at0 .ct (fun t => { t with sq := { t.sq with flight := some { flight0 with lev := 1 } } })
def groupAt : State := at0 .ct (fun t => { t with pend := [⟨129, 200, .mtStep 0 0 true 0 0 0 false⟩] })
theorem witness_TrapEntry_inside : (levelAt.tile 0).ct.handler = false ∧ (levelAt.tile 0).midLevel = true ∧ (groupAt.tile 0).midGroup = true ∧ tILLINSN ≠ tSCHEDMISS ∧
    ((ctAt id).tile 0).midLevel = false ∧ ((ctAt id).tile 0).midGroup = false ∧
    (me (at0 .ct (fun t => { t with fe := { t.fe with iq := [(colCode .ct, [⟨0x1004, 0, none⟩, ⟨0x1024, 0, none⟩])] } }))).iq .ct = [⟨0x1004, 0, none⟩, ⟨0x1024, 0, none⟩] := by decide
/-- Reserved bits of an unassigned opcode and of an `MLOOP` out of range; words of a synchronous column and of a logit program. -/
theorem witness_IllegalWordsTrap_words :
    (let w := word [(63, 26)]; let s := ctAt id; (me s).has ((illNeeds s 0 .ct w none).named .ct) = true ∧ mloopRange w none = false ∧ (me s).midLevel = false ∧ (me s).midGroup = false) ∧
    (let w := word [(49, 26), (33, 20), (1, 13), (1, 8), (1, 7), (1, 2)]; let s := ctAt id; CtStarts s ((illNeeds s 0 .ct w none).named .ct) ∧ (me s).service = true ∧ mloopRange w none = true) ∧
    (let w := word [(63, 26)]; ∀ c ∈ [Col.ld, .st, .vx, .mx, .sq, .lk], SyncStarts (at0 c id) (wordTok w).dly none ((illNeeds (at0 c id) 0 c w none).named c) (at0 c id)) ∧
    ((logitAt id).job ((logitAt id).cur.tile / 4) 0).isSome = true ∧ wellFormed (.vadd (vxo 12 0 0 3 1 2 0)) = false ∧
      (me (at0 .vx id)).has ((needsOf (at0 .vx id) 0 (.vadd (vxo 12 0 0 3 1 2 0))).named .vx) = true ∧ wellFormed (.fence 1 7) = false ∧ (me (ctAt id)).has (Needs.none.named .ct) = true := by
  refine ⟨by decide, ⟨ctStarts_of _ _ (by decide), by decide, by decide⟩, ?_, by decide, by decide, by decide, by decide, by decide⟩
  intro w c hc
  simp only [List.mem_cons, List.not_mem_nil, or_false] at hc
  rcases hc with rfl | rfl | rfl | rfl | rfl | rfl <;> exact syncStarts_of _ _ _ (by decide)
/-- A load that a slice holds behind its acquire, and a push from another package; a store that is cached and one in a page with ATTR = 2. -/
theorem witness_MemoryLoadsComplete_held :
    (let s := moving (paged (patAt .ld 0 (fun t => { t with cache := [(sectorKey 0x40, dirtySector)] }))); SyncStarts s 0 none (ldNeeds 0 false false (srcPops [0x80])) s ∧ (me s).patOk 0 = true ∧
      (s.acquireCache 0 1 4).cacheHeld 0 1 4 = true) ∧
    (let s := paged (patAt .ld 0 id); (s.acquireCache 0 1 4).cacheHeld 0 1 4 = false ∧ (s.localDie 0).isSome = true) :=
  ⟨⟨syncStarts_of _ _ _ (by decide), by decide, by decide⟩, by decide⟩
/-- A full queue of the state-spill engine, for a word without and with a stamp. -/
theorem witness_SpillWordsComplete_full :
    let s := sqAt (fun t => { t with qs := { t.qs with q := [(0, [0x400])] }, en := { t.en with spq := List.replicate spillDepth (newCmd 0 (.pspill mt0 9 0 0 true) 0 []) } })
    SyncStarts s 0 none { sqNeeds mt0 with pops := [0] } s ∧ (qWordOf ((me s).front 0)).toNat % 512 = 0 ∧ (me s).slotFree 9 = false ∧ spillDepth ≤ (me s).en.spq.length :=
  ⟨syncStarts_of _ _ _ (by decide +kernel), by decide +kernel⟩
/-- A carry to another package: over a port that is up, and with none. -/
theorem witness_CarriesComplete_abroad :
    let far : Word × Word := (BitVec.ofNat 64 (512 + 1), chTile.2)
    let s := at0 .sq (fun t => { t with en := { t.en with chans := [(5, far)], chansOk := true }, id := { t.id with ownV := true } })
    let u := { s with ports := [(3, { Port.reset with up := true, vlen := 0xF })], routes := [(1, 8)] }
    SyncStarts u 0 none (sqNeeds mt0) u ∧ chPlace ((me u).chan 5) = ⟨1, 1⟩ ∧ u.chanCheck 0 5 ⟨[1], permSend, [], 512⟩ = none ∧ u.carryGoes 0 ⟨1, 1⟩ = true ∧ (me u).allowOk 5 512 = true ∧
      3 ∈ u.outPorts 1 ∧ u.joined (dieOf 0) (portDie 3) = true ∧ s.carryGoes 0 ⟨1, 1⟩ = false ∧ s.chanCheck 0 5 ⟨[1], permSend, [], 512⟩ = none :=
  ⟨syncStarts_of _ _ _ (by decide +kernel), by decide +kernel⟩

/-! ### Further states, for the events -/

/-- The frame at the base of D0's DRAM: Wharf's own, and one of Redric's region. -/
def frame0 (o : BitVec 8) (s : State) : State := s.modDie 0 (fun x => { x with owner := [(frameKey 0, o)] })
theorem witness_PowerAndTimeEventsComplete_more :
    (let s := frame0 0x40 { ran (evAt id) with stamp := 700000, te := { Tele.reset with en := true } }; s.tm.run = true ∧ s.stamp % 700000 = 0 ∧ s.te.en = true ∧ s.mem.wf = true ∧ s.wharfRing s.te.base.toNat s.te.log2n = true) ∧
    (let s := frame0 0x60 { ran (evAt id) with stamp := 700000, te := { Tele.reset with en := true } }; s.te.en = true ∧ s.wharfRing s.te.base.toNat s.te.log2n = false) ∧
    ((evAt id).tm.run = false) ∧ (let s := { ran (evAt id) with stamp := 701 }; s.stamp % 700 ≠ 0) ∧
    (let x := (evAt id).tile 0; x.mx.idleMax ≠ 0 ∧ ¬x.mx.idleMax.toNat ≤ x.cnt - get 0 x.mx.idle 0) := by decide

/-- Phase 2 at its end; phase 3 with dirty bytes that a slice holds, and without; vector 15 unmasked and masked; a second trigger; a write of the other half. -/
theorem witness_ResetEventsComplete_more :
    (let s := { runAt id (fun x => { x with phase := 2, phaseAt := 100 }) with tm := { Time.reset with pre := 164 } }; (s.part 0).phase = 2 ∧ (s.part 0).phaseAt + 64 ≤ s.tm.pre ∧ ∀ g ∈ s.gangs, g.part ≠ 0) ∧
    (let dirty := fun (s : State) => s.modTile 0 (fun t => { t with id := { t.id with ownV := true }, cache := [(sectorKey 0x40, dirtySector)] })
     let settled := fun (s : State) => (s.ownedBy 0).foldl (fun u n => u.settleTile n 0) s
     (let s := dirty (runAt id (fun x => { x with phase := 3 })); (s.part 0).phase = 3 ∧ s.outst 0 = 0 ∧ (s.ownedBy 0).any (fun n => (settled s).backHeld n (fun _ => true)) = false) ∧
       (let s := moving (dirty (runAt id (fun x => { x with phase := 3 }))); s.outst 0 = 0 ∧ (s.ownedBy 0).any (fun n => (settled s).backHeld n (fun _ => true)) = true)) ∧
    (runAt id id).masked 0 15 = true ∧ { runAt id id with plain := [(2 ^ 20 + 0x80F8, 0)] }.masked 0 15 = false ∧ (let s := runAt (fun a => { a with val := 3 }) (fun x => { x with phase := 4 }); (s.part 0).phase ≠ 0 ∧ s.arg.val.getLsbD 0 = true ∧ s.arg.sub ≠ 2) ∧
    (evAt (fun a => { a with val := 1, sub := 2 })).arg.sub = 2 ∧ { evAt (fun a => { a with flag := true, val := 2 }) with notices := [[3, 0]] }.notices = [[3, 0]] := by decide +kernel

/-- A port that refuses a lane, and packets of another package that come through it. -/
def shut (s : State) : State := { s with ports := [(3, { Port.reset with up := true, vlen := 1 })] }
def viaPort : Hop := ⟨0, some 3, 0⟩
/-- Tile 0 belongs to partition 0. -/
def owned0 (s : State) : State := s.modTile 0 (fun t => { t with id := { t.id with ownV := true } })
theorem witness_ArrivalEventsComplete_lanes :
    (shut (evAt id)).shutOn viaPort [2] = some 3 ∧ (shut (evAt id)).shutOn viaPort [0, 1] = some 3 ∧ (shut (evAt id)).shutOn viaPort [3] = some 3 ∧ (shut (evAt id)).shutOn viaPort [0] = none ∧
    (∀ l, (evAt id).shutOn ⟨0, none, 0⟩ l = none) ∧
    (let d : Delivery := { block0 with src := ⟨1, 1⟩, hop := viaPort }; let s := { shut (evAt (fun a => { a with load := .delivery d })) with blocks := [d] }; s.blockHere d = true ∧ s.shutOn d.hop [0, 1] = some 3) ∧
    (let s := owned0 { evAt (fun a => { a with load := .delivery block0 }) with blocks := [block0] }; s.blockHere block0 = true ∧ s.shutOn block0.hop [0, 1] = none ∧ s.ownsTile block0.part 0 = true ∧
      (s.tile 0).isFenced = false ∧ s.heldBack block0.src 0 block0.bound = false ∧ s.blockBehind block0 = false ∧ (s.tile 0).st.spad.wf = true) ∧
    (let s := owned0 { evAt (fun a => { a with load := .msg msg0 }) with msgs := [msg0] }; s.msgs.find? (fun y => y.src == msg0.src && y.dst == msg0.dst) = some msg0 ∧ s.shutOn msg0.hop [0, 1] = none ∧ s.ownsTile msg0.part 0 = true) ∧
    (let s := (owned0 { evAt (fun a => { a with load := .msg msg0 }) with msgs := [msg0] }).modTile 0 (fun t => { t with run := true, en := { t.en with overflow := List.replicate 16 msg0 } });
      16 ≤ (s.tile 0).en.overflow.length ∧ msg0.told = false ∧ (s.tile 0).run = true ∧ s.behind msg0.src msg0.dst msg0.hop none = false) ∧
    (let s := owned0 { evAt (fun a => { a with load := .carry carry0 }) with carries := [carry0] }; s.shutOn carry0.hop [3] = none ∧ s.reachable 1 ⟨0, 0⟩ = true ∧ s.ownsTile carry0.part 0 = true) ∧
    (let s := owned0 { evAt (fun a => { a with load := .delivery block0 }) with gangs := [{ gang 0 [] with phase := .out }] }; s.heldBack block0.src 0 block0.bound = true ∧ s.ownsTile block0.part 0 = true) ∧
    (let s := owned0 { evAt (fun a => { a with load := .msg msg0 }) with gangs := [{ gang 0 [] with phase := .out }] }; s.heldBack msg0.src 0 msg0.bound = true ∧ s.ownsTile msg0.part 0 = true) := by
  refine ⟨by decide, by decide, by decide, by decide, fun l => rfl, by decide, by decide, by decide, by decide, by decide, by decide, by decide⟩

/-- A receive that accepts, whose bytes land, and one whose address faults; a contribution of a fenced rank of another package, and a stale one. -/
theorem witness_ArrivalEventsComplete_receives :
    (let m := { msg0 with src := ⟨0, 0⟩ }; let q := fun (a : Word) (sp : Nat) => ({ posted0 with dst := a, space := sp } : Posted)
     let s := fun (p : Posted) => (owned0 { evAt (fun a => { a with load := .msg m }) with msgs := [m] }).modTile 0 (fun t => { t with en := { t.en with posted := [p] } })
     (match ({ s posted0 with msgs := [] }).deliver 0 posted0 m with | (_, _, .ok ()) => true | _ => false) = true ∧ ((s posted0).tile 0).en.posted.find? (·.accepts m) = some posted0 ∧
      (match ({ s (q 0 0) with msgs := [] }).deliver 0 (q 0 0) m with | (_, _, .fault _) => true | _ => false) = true ∧
      (match (moving { paged (s (q 0 0)) with msgs := [] }).deliver 0 (q 0 0) m with | (_, _, .wait) => true | _ => false) = true) ∧
    (let c : Contribution := { contrib0 with kind := 1, src := 1 }; let s := (evAt (fun a => { a with load := .contrib c, flag := true })).modPart 0 (fun x => { x with groups := [(2, grp [0, 512 + 1])] });
      c.kind ≠ 3 ∧ s.arg.flag = true ∧ (memberPlace ((s.redMembers 0 2).getD c.src 0)).pkg ≠ s.pkg ∧ find (s.part c.part).groups c.group = some (grp [0, 512 + 1]) ∧ s.contribBehind c = false) ∧
    (let s := evAt (fun a => { a with load := .contrib contrib0 }); s.stale contrib0 = true ∧ s.contribBehind contrib0 = false ∧ s.arg.flag = false) := by decide +kernel

/-- A `SEND` and a `RECV` over a channel to tile 1 of package 1, and a port that reaches it. -/
def abroad (i : Instr) (s : State) : State :=
  let c : Cmd := { newCmd 4 i 0x1000 [0x40, 0x20, 0] with started := true, left := 1 }
  let u := s.modTile 0 (fun t => { t with en := { t.en with chans := [(5, (BitVec.ofNat 64 (512 + 1), chTile.2))], chansOk := true, lkq := [c] }, id := { t.id with ownV := true } })
  { u with ports := [(3, { Port.reset with up := true, vlen := 0xF })], routes := [(1, 8)] }
/-- A route of one port leads to it, whatever the hash. -/
theorem abroad_leaves (i : Instr) (s : State) (h : s.pkg = 0) (b : s.bridges = 0) : (abroad i s).leaves 0 ⟨1, 1⟩ = true := by
  have hp : (abroad i s).portFor ⟨1, 1⟩ = some 3 := by
    have m : (List.range 128).filter (fun q => (get 0 (abroad i s).routes 1).getLsbD q) = [3] := by
      show (List.range 128).filter (fun q => (get 0 [(1, (8 : BitVec 128))] 1).getLsbD q) = [3]
      decide
    have k : ((abroad i s).port 3).up = true := rfl
    have z : (abroad i s).pkg = 0 := h
    unfold State.portFor
    dsimp only
    rw [m]
    simp [k, z, Nat.mod_one]
  have j : (abroad i s).bridges = 0 := b
  simp [State.leaves, hp, State.joined, j]
theorem witness_ArrivalEventsComplete_abroad :
    (let s := abroad (.recv lk0) (evAt (fun a => { a with idx := 513, load := .msg { msg0 with src := ⟨1, 1⟩, hop := viaPort } }))
     ((s.tile 0).en.lkq.find? (fun c => isRecvCmd c && c.started && !c.performed && decide (0 < c.left) && cmdPeer (s.tile 0) c == ⟨1, 1⟩)).isSome = true ∧ s.pkg ≠ 1) ∧
    (let s := abroad (.send { lk0 with fn := 1 }) (evAt (fun a => { a with idx := 513, flag := true })); ((s.tile 0).en.lkq.find? (fun c => isSendCmd c && c.started && !c.performed && decide (0 < c.left) &&
        c.peer.isNone && cmdPeer (s.tile 0) c == ⟨1, 1⟩)).isSome = true ∧ (s.tile 0).faulted .lk = false ∧ s.leaves 0 ⟨1, 1⟩ = true ∧
      (match (s.tile 0).en.lkq with | c :: _ => s.mayRead 0 .lk c.key (startRead s 0 c) && (match s.spRead 0 (startRead s 0 c).1 (c.opnd 0) (c.opnd 1) with | (_, _, .ok _) => true | _ => false) | [] => false) = true) :=
  ⟨by decide, by decide, by decide, abroad_leaves _ _ rfl rfl, by decide⟩
/-- A command whose end waits for an acquire that a slice holds. -/
theorem witness_ArrivalEventsComplete_held :
    let c := { cmd0 with instr := .lbar { lk0 with fn := 3 }, performed := true }
    let s := (moving (paged (evAt (fun a => { a with idx := 1 })))).modTile 0 (fun t => { t with en := { t.en with lkq := [c] }, cache := [(sectorKey 0x40, dirtySector)] })
    (s.tile 0).faulted .lk = false ∧ ((s.tile 0).cmds .lk).find? (fun c => (s.tile 0).mayEnd .lk c) = some c ∧ (s.acquireCache 0 3 4).cacheHeld 0 3 4 = true := by decide

/-- A lane that is shut; an access that a slice holds; a line whose frame stands, one whose page has moved, and one behind a CXL port; a write-back that a slice holds; a map in
distribution; retiring slices and none; a copy from Redric's region; the phases of a shootdown and its waits. -/
theorem witness_MemoryEventsComplete_more :
    (let s := shut (evAt (fun a => { a with flag := true, sub := 3 })); s.arg.flag = true ∧ s.shutLanes s.arg.sub ≠ [] ∧ (evAt id).arg.flag = false) ∧
    (let s := moving (runAt (fun a => { a with idx := 8 }) id); (match (s.coRead 0 0 8 .rd).2 with | .wait => true | _ => false) = true ∧ (match (s.coWrite 0 0 [some 1]).2 with | .wait => true | _ => false) = true) ∧
    (let s := (paged (evAt id)).modDie 0 (fun x => { x with lines := [(0, line0)] }); find (s.die 0).lines (lineKey 0 0) = some line0 ∧ line0.valid.getLsbD 0 = false ∧ s.frameStands 0 0 0 line0.pa = true ∧
      s.portUp 0 line0.pa = true ∧ s.portUp 0 (2 ^ 40) = false ∧ ((evAt id).frameStands 0 0 0 line0.pa = false)) ∧
    (let s := moving ((evAt (fun a => { a with num := 0x40 })).modTile 0 (fun t => { t with cache := [(sectorKey 0x40, dirtySector)] })); find (s.tile 0).cache (sectorKey 0x40) = some dirtySector ∧ dirtySector.dirty ≠ 0 ∧
      (s.tile 0).wa.health.cut = false ∧ s.holdsBack 0 0x40 = true) ∧
    ({ Die.reset 0 with mapBusy := true }.mapBusy = true) ∧ ((Die.reset 0).retiring.filter (fun e => e % 32 == 4) = []) ∧
    ({ Die.reset 0 with owner := [(frameKey 0x10000, 0x60)] }.touchesRedric 0x10000 65536 = true) ∧
    (let x : Die := { Die.reset 0 with shPhase := 1, shn := 1 }; let s := State.reset.modDie 0 (fun _ => x); s.storesDue x = false ∧ x.retiring = [] ∧ { x with shPhase := 2 }.shPhase = 2 ∧ { x with shPhase := 3 }.shPhase = 3 ∧
      (s.modTile 0 (fun t => { t with pend := [⟨0, 0, .cacheWrite 0 [none] true true none⟩] })).storesDue x = true) ∧
    (let x : Die := { Die.reset 0 with shPhase := 1, shva := 0x200000000000, shn := 1 }
     let s := ((evAt id).modDie 0 (fun _ => x)).modTile 0 (fun t => { t with cache := [(sectorKey 0x200000000040, dirtySector)] })
     let u := s.modDie 1 (fun y => { y with retiring := (List.range 32).map (32 * ·) }); u.storesDue x = false ∧ (u.cleanCache 0 x.inRange).backHeld 0 x.inRange = true) :=
  ⟨by decide, by decide +kernel, by decide +kernel, by decide, by decide, by decide, by decide, by decide +kernel, by decide +kernel⟩

/-- An access of the host that a slice holds; a tail beyond the ring, and one in a ring that is more than full; a partition that drains; RD and the carve-outs' room. -/
theorem witness_HostEventsComplete_more :
    (let s := moving (runAt id (fun x => { x with hwin := [(0, 1)] })); (match (s.coReadVia hostDie 0 0 8 .rd).2 with | .wait => true | _ => false) = true) ∧
    (let s := runAt (fun a => { a with val := 16 }) (fun x => { x with queues := [(0, { Queue.reset with ctl := 0x104, tail := 0 })] }); let q := s.queue 0 0;
      q.log2n = 4 ∧ q.used + (wfld s.arg.val 0 32 + 2 ^ 32 - q.tail) % 2 ^ 32 = 16 ∧ q.ctl.getLsbD 9 = false ∧ (s.part 0).st = 2) ∧
    (let q : Queue := { Queue.reset with ctl := 0x104, tail := 32 }; q.used = 32 ∧ 2 ^ q.log2n < q.used + (32 + 2 ^ 32 - q.tail) % 2 ^ 32) ∧ (runAt id (fun x => { x with st := 3 }) |>.part 0).st ≠ 2 := by decide +kernel

set_option maxRecDepth 100000 in
/-- A head whose read waits and one whose read faults; a channel table that waits for dirty bytes and one that is read; a start while the Weir throttles, and one off a multiple of 64 c; a context that must
wait for its bytes, and one that is lost. -/
theorem witness_SchedulingEventsComplete_more :
    (let h := fun (b : Word) (s : State) => s.modPart 0 (fun x => { x with queues := [(0, { Queue.reset with base := b, ctl := 0x104, tail := 1 })] })
     (match ((h 0 (moving (runAt id id))).coReadVia 0 0 0 64 .rd).2 with | .wait => true | _ => false) = true ∧ (match ((h 0x10000 (runAt id id)).coReadVia 0 0 0x10000 64 .rd).2 with | .fault _ => true | _ => false) = true) ∧
    (let s := (gangAt .placed (runAt id (fun x => { x with chbase := 0x1000 }))).modTile 0 (fun t => { t with cache := [(sectorKey 0x40, dirtySector)] }); let u := s.flushCache 0;
      (s.tile 0).en.chansOk = false ∧ u.backHeld 0 (fun _ => true) = false ∧ (match (u.coReadVia 0 0 0x1000 4096 .rd).2 with | .ok _ => true | _ => false) = true ∧
        ((moving s).flushCache 0).backHeld 0 (fun _ => true) = true) ∧
    (let s := { (gangAt .placed (runAt id id)).modTile 0 (fun t => { t with en := { t.en with chansOk := true } }) with stamp := 65, pw := { Power.reset with mode := 1 } };
      (match s.gangOf 0 with | some g => s.startStamp g == some 64 | none => false) = true ∧ s.pw.mode = 1 ∧ s.stamp % 64 ≠ 0) ∧
    (let s := moving ((gangAt .saving (runAt id id)).modTile 0 (fun t => { t with run := true, cache := [(sectorKey 0x40, dirtySector)] })); ((s.drainStores 0).flushCache 0).backHeld 0 (fun _ => true) = true) ∧
    (let s := { runAt id id with gangs := [{ gang 0 [] with phase := .out, cand := some 0, lost := true }] }; ((s.restores 0).filter (fun g => g.base == 0 && s.idleBlock g.base g.log2)).length = 1) ∧
    (let s := owned0 { runAt id id with gangs := [{ gang 0 [] with phase := .out, cand := some 0 }] }; (s.restores 0).all (fun g => !g.lost && g.tiles.all (fun m => !(s.tile m).wa.health.cut && !(s.tile m).st.health.getLsbD 30 &&
      (s.tile m).id.ownV && (s.tile m).id.ownPart == g.part)) = true) :=
  ⟨by decide +kernel, by decide +kernel, by decide +kernel, by decide +kernel, by decide +kernel, by decide +kernel⟩

/-- A trap that a level holds and a SCHEDMISS that it does not; a miss that has been told of; the end of a Flight: its result to form, formed already, and late. -/
theorem witness_TileEventsComplete_more :
    (let x := levelAt.tile 0; x.holdsTrap tILLINSN = true ∧ x.holdsTrap tSCHEDMISS = false) ∧
    (let s := (evAt id).modTile 0 (fun t => { t with ct := { t.ct with reqs := [trapReq tSCHEDMISS (colCode .st) 0x1004 0] } }); ∃ q ∈ (s.tile 0).ct.reqs, q.col = colCode .st ∧ q.code = tSCHEDMISS) ∧
    (let s := pairAt 2 2 1000; (s.gangOf 1).isSome = true ∧ flight0.stages < 2 + 1 ∧ flight0.issue + 4 ≤ (s.tile 1).cnt ∧ flight0.res = none ∧ flight0.above = none) ∧
    (let f : Flight := { flight0 with lev := 2, above := some [] }; f.res = none ∧ f.above ≠ none) ∧ (let f : Flight := { flight0 with lev := 2, res := some [] }; f.res ≠ none) ∧
    ((pairAt 0 0 101).tile 1).cnt < flight0.issue + 4 ∧
    (let f := { flight0 with miss := some ⟨100, 700, 100⟩ }; let s := { (evAt (fun a => { a with idx := 9 })).modTile 0 (fun t => { t with sq := { t.sq with flight := some f } }) with stamp := 700 + missWait };
      (s.tile 0).sq.flight = some f ∧ 700 + missWait ≤ s.stamp ∧ (s.tile 0).ct.reqs = []) ∧
    (let s := pairAt 0 0 (flight0.issue - 1); (s.tile 1).cnt < flight0.due 1 1) := by
  refine ⟨by decide +kernel, ⟨trapReq tSCHEDMISS (colCode .st) 0x1004 0, by decide, by decide, by decide⟩, by decide +kernel, by decide +kernel, by decide +kernel, by decide +kernel, by decide +kernel, by decide +kernel⟩

/-- A job without a draw, one of whose sequences needs one, and one whose sequences do not. -/
theorem witness_JobsEventsComplete_draw :
    (let s := jobsAt 2 0x10002 [seq0 1 0] id; (match s.job 0 2 with | some j => j.nseq == 1 && j.cs == 0 && (match (needDraw s j [0]).2.2 with | .bad c _ => c == 2 | _ => false) | none => false) = true) ∧
    (let s := jobsAt 2 0x10002 [seq0 1 0x400] id; (match s.job 0 2 with | some j => (match (needDraw s j [0]).2.2 with | .ok _ => true | _ => false) | none => false) = true) := by decide +kernel

/-- A judge that beats, of a neighbour that does not; the end of a self-test with g2 bit 0 set and clear; a tile that a partition owns. -/
theorem witness_JudgementVerdicts_beats :
    (let s := watchAt 2048 (fun w => { w with beating := true, nbr := [(1, ⟨false, none, 2, 0, 0, false, .healthy⟩)] }); (s.tile 0).wa.beating = true ∧ (s.die (dieOf 0)).watchEn = true ∧ s.tm.pre % 4096 = 2048 ∧
      neighbour 0 1 = some 1 ∧ ((s.tile 0).nbr 1).missed + 1 = 3) ∧
    (let s := watchAt 6144 (fun w => { w with beating := true, nbr := [(1, ⟨true, none, 0, 1, 15, true, .healthy⟩)] }); (s.tile 0).wa.beating = true ∧ s.tm.pre % 4096 = 2048 ∧ ((s.tile 0).nbr 1).verdict = 1 ∧ ((s.tile 0).nbr 1).got = true ∧
      ((s.tile 0).nbr 1).bad = true) ∧ (watchAt 2048 id |>.tile 0).wa.beating = false := by decide
theorem witness_WatchEventsComplete_test :
    (let s := (watchAt 0x400000 (fun w => { w with health := .testing })).modTile 0 (fun t => { t with ct := { t.ct with g := [(2, 1)], halted := true } });
      { s.arg with flag := true }.flag = true ∧ (s.tile 0).ct.halted = true ∧ ((s.tile 0).g 2).getLsbD 0 = true) ∧
    (let s := owned0 (watchAt 100 (fun w => { w with health := .testing })); (s.tile 0).wa.health = .testing ∧ ((s.tile 0).g 2).getLsbD 0 = false ∧ s.gangOf 0 = none ∧ (s.tile 0).id.ownV = true ∧ s.tm.pre < (s.tile 0).wa.testStart + 2 ^ 22 ∧
      (s.tile 0).ct.halted = false) := by decide
/-- Landings on a word of a queue, of a Flight that has its result, of one that is late, and of a shadowed pair; a store that must wait. -/
theorem witness_LandingsWrite_more :
    (let x := { Tile.reset with sq := { Sq.reset with flight := some { flight0 with res := some [1, 2] } } }; x.sq.flight = some { flight0 with res := some [1, 2] } ∧ flight0.num = 1) ∧
    (let x := { Tile.reset with st := { Stores.reset with pdesc := [(10, 0xB02), (11, 0xA03)] } }; slotState (x.desc 10) = 2 ∧ slotPair (x.desc 10) = 11 ∧ slotState (x.desc 11) = 3) ∧
    (let s := evAt id; (s.tile 0).storeAhead = false ∧ s.roomWaits 0 0x40 8 = false ∧ (s.tile 0).priorDone [] = true ∧ s.cutOff (dieOf 0) 0x40 = false ∧
      (s.flushRange 0 0x40 8).backHeld 0 (fun _ => true) = false) ∧
    (let s := (evAt id).modTile 0 waitingStore; (s.tile 0).storeAhead = true) ∧
    (let s := moving (evAt id); s.localDie 0x40 = some 0 ∧ (s.die 0).heldIndex (vaOff 0x40) = true) ∧
    (let s := { evAt id with bridges := 0xF }; s.cutOff (dieOf 0) 0x200000000040 = true ∧ (s.tile 0).run = false) ∧ List.Pairwise (fun (a b : Pend) => a.due < b.due ∨ (a.due = b.due ∧ a.ord ≤ b.ord)) [] :=
  ⟨by decide +kernel, by decide, by decide +kernel, by decide, by decide, by decide, .nil⟩

/-! ### Single steps and values -/

/-- Run an instruction and look at the state after it. -/
def after (i : Instr) (s : State) (f : State → Bool) : Bool := match exec i s with | .next t => f t | _ => false
/-- CT with g1 and g2. -/
def g12 (a b : Word) : State := ctAt (fun c => { c with g := [(1, a), (2, b)] })
def gIs (r : Nat) (v : Word) (t : State) : Bool := (me t).g r == v

/-- R296: 2⁶⁴ − 1 + 1 = 0 modulo 2⁶⁴. -/
theorem test_add_wraps : after (.add cr0) (g12 (-1) 1) (gIs 31 0) = true := by decide
/-- R296: the low six bits of the count, an arithmetic shift. -/
theorem test_sra_count : after (.sra cr0) (g12 (-8) 65) (gIs 31 (-4)) = true := by decide
/-- R296: the high half of −1 · 2 is −1. -/
theorem test_mulh_sign : after (.mulh cr0) (g12 (-1) 2) (gIs 31 (-1)) = true := by decide
/-- R296: division by zero gives all ones and leaves the dividend. -/
theorem test_div_zero : after (.div cr0) (g12 7 0) (gIs 31 (-1)) = true ∧ after (.rem cr0) (g12 7 0) (gIs 31 7) = true := by decide
/-- R296: the quotient goes towards zero, and the remainder has the sign of the dividend. -/
theorem test_div_sign : after (.div cr0) (g12 (-7) 2) (gIs 31 (-3)) = true ∧ after (.rem cr0) (g12 (-7) 2) (gIs 31 (-1)) = true := by decide
/-- R294: g0 reads 0 and takes no value. -/
theorem test_g0 : after (.add { cr0 with d := 0 }) (g12 1 1) (gIs 0 0) = true := by decide
/-- R297: `ADDI` extends its immediate by its sign, `ORI` does not. -/
theorem test_immediates : after (.addi ⟨31, 1, 0xFFFF⟩) (g12 1 0) (gIs 31 0) = true ∧ after (.ori ⟨31, 1, 0xFFFF⟩) (g12 0 0) (gIs 31 0xFFFF) = true := by decide
/-- R299: the link is lane 1 of the line behind, and a target that is no multiple of 4 is the ILLINSN trap. -/
theorem test_jalr : after (.jalr ⟨31, 1, 4⟩) (g12 0x2000 0) (fun t => gIs 31 0x1024 t && (me t).fe.pc == 0x2004) = true ∧
    after (.jalr ⟨31, 1, 3⟩) (g12 0x2000 0) (fun t => gIs 31 0 t && (me t).ct.handler && wfld (me t).ct.cause 0 8 == tILLINSN) = true := by decide
/-- R298: −1 is below 1 as a signed number and above it as an unsigned one. -/
theorem test_branches : after (.blt ⟨1, 2, 4⟩) (g12 (-1) 1) (fun t => (me t).fe.pc == 0x1014) = true ∧
    after (.bltu ⟨1, 2, 4⟩) (g12 (-1) 1) (fun t => (me t).fe.pc == 0x1014) = false := by decide
/-- R161: a trap puts CT into the handler, in supervisor mode, at 0x0 of the locked region, with the address of its word in XPC. -/
theorem test_trap : after (.trap 7) (ctAt id) (fun t => (me t).ct.handler && (me t).ct.mode && (me t).ct.xpc == 0x1004) = true := by decide

/-- R279, R283: 1.5 + 0.25 in F32; the largest finite E4M3 is 448; 2⁻⁹ is its least subnormal. -/
theorem test_formats : rne32 (addV false (dec f32 0x3FC00000) (dec f32 0x3E800000)) = 0x3FE00000 ∧ rne32 (dec e4m3 0x7E) = 0x43E00000 ∧ rne32 (dec e4m3 0x01) = 0x3B000000 := by decide +kernel
/-- R283: a tie goes to the even neighbour. -/
theorem test_ties : rne32 (addV false (dec f32 0x4B800000) (dec f32 0x3F800000)) = 0x4B800000 ∧ rne32 (addV false (dec f32 0x4B800002) (dec f32 0x40400000)) = 0x4B800004 := by decide +kernel
/-- R280: the sum of zeros of different signs is +0, unless rounding goes down. -/
theorem test_zeros : rne32 (addV false (dec f32 0x80000000) (dec f32 0)) = 0 ∧ rne32 (addV false (dec f32 0x80000000) (dec f32 0x80000000)) = 0x80000000 := by decide +kernel
/-- The address of the example of R85: OFFSET 0x12_3456_7880 lies in logical slice 24. -/
theorem test_slice_index : vaDie 0xA01234567880 = 5 ∧ sliceIndex (vaOff 0xA01234567880) = 24 := by decide
end Sys2Proof.Tests
end

section
/-! SUPPORT. The host's accesses and register writes: what each register does with a write, and what the write leaves. -/
namespace Sys2Proof.Machine

open Sys2Proof

/-! ### How an event completes -/

variable {i : Instr} {s t : State}

theorem completes_of_exec {P : State → Prop} (h : exec i s = ok t) (hp : P t) : Completes i s P := ⟨t, h, hp⟩

theorem completes_eq (h : exec i s = ok t) : Completes i s (fun u => u = t) := ⟨t, h, rfl⟩

/-- An event whose result depends on one condition completes in one of two ways. -/
theorem completes_ite {u : State} {c : Prop} [Decidable c] (h : exec i s = ok (if c then t else u)) :
    (c → Completes i s (fun r => r = t)) ∧ (¬c → Completes i s (fun r => r = u)) :=
  ⟨fun hc => completes_eq (by rw [h, if_pos hc]), fun hc => completes_eq (by rw [h, if_neg hc])⟩

/-- The same when the condition only chooses the value of one register. -/
theorem completes_ite_of {α : Type} (f : α → State) {c : Prop} [Decidable c] {x y : α} (h : exec i s = ok (f (if c then x else y))) :
    (c → Completes i s (fun u => u = f x)) ∧ (¬c → Completes i s (fun u => u = f y)) :=
  ⟨fun hc => completes_eq (by rw [h, if_pos hc]), fun hc => completes_eq (by rw [h, if_neg hc])⟩

/-! ### Partitions and dies -/

/-- Nothing of the state but one partition has changed. -/
def OnlyPart (s t : State) (p : Nat) : Prop := { t with parts := s.parts } = s ∧ ∀ k, k ≠ p → t.part k = s.part k

theorem onlyPart_modPart (s : State) (p : Nat) (f : Part → Part) : OnlyPart s (s.modPart p f) p :=
  ⟨rfl, fun k hk => by rw [State.part_modPart, if_neg hk]⟩

theorem OnlyPart.refl (s : State) (p : Nat) : OnlyPart s s p := ⟨rfl, fun _ _ => rfl⟩

theorem OnlyPart.trans {u : State} {p : Nat} (a : OnlyPart s t p) (b : OnlyPart t u p) : OnlyPart s u p := by
  refine ⟨?_, fun k hk => (b.2 k hk).trans (a.2 k hk)⟩
  have h : { u with parts := s.parts } = { { u with parts := t.parts } with parts := s.parts } := rfl
  rw [h, b.1, a.1]

theorem State.die_modDie (s : State) (d : Nat) (f : Die → Die) (e : Nat) : (s.modDie d f).die e = if e = d then f (s.die d) else s.die e := by
  unfold State.die State.modDie State.setDie
  rw [get_put]
  split
  · subst e; rfl
  · rfl

@[simp] theorem State.die_modDie_same (s : State) (d : Nat) (f : Die → Die) : (s.modDie d f).die d = f (s.die d) := get_put_same ..

/-! ### The lines that leave a die -/

/-- Of the dies only the Basin lines, the lost-line lists and the marks of bad sectors have changed. -/
def LinesOnly (s t : State) : Prop := ∀ e, { t.die e with lines := (s.die e).lines, lost := (s.die e).lost, bad := (s.die e).bad } = s.die e

theorem LinesOnly.refl (s : State) : LinesOnly s s := fun _ => rfl

theorem LinesOnly.trans {u : State} (a : LinesOnly s t) (b : LinesOnly t u) : LinesOnly s u := fun e => by
  have h : { u.die e with lines := (s.die e).lines, lost := (s.die e).lost, bad := (s.die e).bad } =
    { { u.die e with lines := (t.die e).lines, lost := (t.die e).lost, bad := (t.die e).bad } with
      lines := (s.die e).lines, lost := (s.die e).lost, bad := (s.die e).bad } := rfl
  rw [h, b e, a e]

theorem LinesOnly.engOn (h : LinesOnly s t) (e : Nat) : (t.die e).engOn = (s.die e).engOn :=
  (congrArg Die.engOn (h e) :)

theorem LinesOnly.foldl {β : Type} (f : State → β → State) (hf : ∀ s x, LinesOnly s (f s x)) (l : List β) : ∀ s, LinesOnly s (l.foldl f s) := by
  induction l with
  | nil => exact fun s => .refl s
  | cons x r ih => exact fun s => (hf s x).trans (ih _)

theorem linesOnly_modDie (s : State) (d : Nat) (f : Die → Die) (hf : ∀ x, { f x with lines := x.lines, lost := x.lost, bad := x.bad } = x) :
    LinesOnly s (s.modDie d f) := fun e => by
  rw [State.die_modDie]
  split
  · subst e; exact hf _
  · rfl

theorem linesOnly_cleanLine (s : State) (d key : Nat) : LinesOnly s (s.cleanLine d key) := by
  unfold State.cleanLine
  split
  · exact .refl s
  · split
    · exact .refl s
    · exact linesOnly_modDie { s with mem := _ } d _ (fun _ => rfl)

theorem linesOnly_enterLost (s : State) (d key : Nat) : LinesOnly s (s.enterLost d key) := by
  unfold State.enterLost
  dsimp only
  split
  · exact .refl s
  · split
    · exact fun _ => rfl
    · exact linesOnly_modDie _ _ _ (fun _ => rfl)

theorem linesOnly_loseLine (s : State) (d key : Nat) : LinesOnly s (s.loseLine d key) :=
  LinesOnly.trans (linesOnly_modDie s d (fun x => { x with lines := del x.lines key }) (fun _ => rfl)) (linesOnly_enterLost _ d key)

theorem linesOnly_dropLine (s : State) (d key : Nat) : LinesOnly s (s.dropLine d key) := by
  unfold State.dropLine
  split
  · exact .refl s
  · split
    · exact linesOnly_loseLine s d key
    · exact LinesOnly.trans (linesOnly_cleanLine s d key) (linesOnly_modDie _ d (fun x => { x with lines := del x.lines key }) (fun _ => rfl))

theorem linesOnly_giveWays (s : State) (d : Nat) : LinesOnly s (s.giveWays d) := by
  have drops : ∀ (l : List Nat) (u : State), LinesOnly u (l.foldl (fun u k => u.dropLine d k) u) := LinesOnly.foldl _ (fun u k => linesOnly_dropLine u d k)
  unfold State.giveWays
  exact LinesOnly.trans (s := { s with free := s.free + (s.die d).lines.length }) (drops _ _) (LinesOnly.foldl _ (fun _ _ => drops _ _) _ _)

theorem memOnly_giveWays (s : State) (d : Nat) : MemOnly s (s.giveWays d) := by
  have drops : ∀ (l : List Nat) (u : State), MemOnly u (l.foldl (fun u k => u.dropLine d k) u) := MemOnly.foldl _ (fun u k => memOnly_dropLine u d k)
  unfold State.giveWays
  exact (memOnly_free s (s.free + (s.die d).lines.length)).trans (MemOnly.trans (drops _ _) (MemOnly.foldl _ (fun _ _ => drops _ _) _ _))

/-! ### The aperture (R95, R96) -/

theorem memOnly_coReadVia (s : State) (d part va n : Nat) (acc : Acc) : MemOnly s (s.coReadVia d part va n acc).1 :=
  memOnly_ite (memOnly_nameWay ..) (memOnly_coRead ..)

theorem memOnly_coWriteVia (s : State) (d part va : Nat) (bs : List (Option Byte)) : MemOnly s (s.coWriteVia d part va bs).1 :=
  memOnly_ite (memOnly_nameWay ..) (memOnly_coWrite ..)

theorem wfld_wset_high (w : Word) (v : Nat) : wfld (wset w 32 32 v) 32 32 = v % 2 ^ 32 ∧ wfld (wset w 32 32 v) 0 32 = wfld w 0 32 := by
  have := w.isLt
  simp only [wfld, wset, BitVec.toNat_ofNat]
  omega

theorem wfld_halves {hi lo : Nat} (hh : hi < 2 ^ 32) (hl : lo < 2 ^ 32) :
    wfld (BitVec.ofNat 64 (hi * 2 ^ 32 + lo)) 32 32 = hi ∧ wfld (BitVec.ofNat 64 (hi * 2 ^ 32 + lo)) 0 32 = lo := by
  simp only [wfld, BitVec.toNat_ofNat]
  omega

theorem State.herrVa_hostFault (s : State) (p va sub : Nat) (wr : Bool) : ((s.hostFault p va sub wr).part p).herrVa =
    if (s.part p).herrInfo.getLsbD 16 then (s.part p).herrVa else BitVec.ofNat 64 va := by
  unfold State.hostFault
  rw [State.part_modPart_same]
  extract_lets cnt
  split <;> rfl

theorem State.herrInfo_hostFault (s : State) (p va sub : Nat) (wr : Bool) : ((s.hostFault p va sub wr).part p).herrInfo =
    if (s.part p).herrInfo.getLsbD 16 then wset (s.part p).herrInfo 32 32 (Nat.min (2 ^ 32 - 1) (wfld (s.part p).herrInfo 32 32 + 1))
    else BitVec.ofNat 64 (Nat.min (2 ^ 32 - 1) (wfld (s.part p).herrInfo 32 32 + 1) * 2 ^ 32 + 2 ^ 16 + b2n wr * 2 ^ 8 + sub) := by
  unfold State.hostFault
  rw [State.part_modPart_same]
  extract_lets cnt
  split <;> rfl

/-- A faulting access of the host is counted; the first is kept with its address, its kind and its subcause (R96, R116). -/
theorem State.hostFault_spec (s : State) (p va sub : Nat) (wr : Bool) (hs : sub < 256) :
    let u := s.hostFault p va sub wr
    let y := s.part p
    { u with parts := s.parts } = s ∧ wfld (u.part p).herrInfo 32 32 = Nat.min (2 ^ 32 - 1) (wfld y.herrInfo 32 32 + 1) ∧
      (y.herrInfo.getLsbD 16 = true → (u.part p).herrVa = y.herrVa ∧ wfld (u.part p).herrInfo 0 32 = wfld y.herrInfo 0 32) ∧
      (y.herrInfo.getLsbD 16 = false → (u.part p).herrVa = BitVec.ofNat 64 va ∧ wfld (u.part p).herrInfo 0 32 = 2 ^ 16 + b2n wr * 2 ^ 8 + sub % 256) := by
  have hc : Nat.min (2 ^ 32 - 1) (wfld (s.part p).herrInfo 32 32 + 1) < 2 ^ 32 := Nat.lt_of_le_of_lt (Nat.min_le_left _ _) (by decide)
  have hw : b2n wr ≤ 1 := by cases wr <;> decide
  intro u y
  refine ⟨rfl, ?_⟩
  rw [State.herrVa_hostFault, State.herrInfo_hostFault]
  generalize Nat.min (2 ^ 32 - 1) (wfld (s.part p).herrInfo 32 32 + 1) = cnt at hc ⊢
  cases y.herrInfo.getLsbD 16 with
  | true =>
    rw [if_pos rfl, if_pos rfl, (wfld_wset_high _ _).1, (wfld_wset_high _ _).2]
    exact ⟨Nat.mod_eq_of_lt hc, fun _ => ⟨rfl, rfl⟩, nofun⟩
  | false =>
    have hf := wfld_halves (lo := 2 ^ 16 + b2n wr * 2 ^ 8 + sub) hc (by omega)
    rw [← Nat.add_assoc, ← Nat.add_assoc] at hf
    rw [if_neg Bool.false_ne_true, if_neg Bool.false_ne_true, hf.1, hf.2, Nat.mod_eq_of_lt hs]
    exact ⟨rfl, nofun, fun _ => ⟨rfl, rfl⟩⟩

section
variable (hst : (s.part s.arg.part).st ≠ 0) {va : Nat}
include hst

/-- Through a window that is not enabled every access is the fault 4 (R95). -/
theorem exec_host_closed (hv : s.hostVa s.arg.part s.arg.num = (va, false)) :
    exec .hostRead s = ok (s.hostFault s.arg.part va 4 false) ∧ exec .hostWrite s = ok (s.hostFault s.arg.part va 4 true) := by
  rw [exec_hostRead, exec_hostWrite]
  unfold execHostRead execHostWrite
  extract_lets a
  subst a
  rw [hv]
  exact ⟨(if_neg hst).trans (if_pos rfl), (if_neg hst).trans (if_pos rfl)⟩

variable (hv : s.hostVa s.arg.part s.arg.num = (va, true))
include hv

/-- Through an enabled window an access goes on as its address answers. -/
theorem exec_hostRead_open {ans : Ans (List Byte)} (h : s.coReadVia hostDie s.arg.part va s.arg.idx .rd = (t, ans)) :
    MemOnly s t ∧ (ans = .wait → exec .hostRead s = retry .hostRead s) ∧ (∀ bs, ans = .ok bs → exec .hostRead s = ok t) ∧
    ∀ f, ans = .fault f → exec .hostRead s = ok (t.hostFault s.arg.part va f.sub false) := by
  have hm := memOnly_coReadVia s hostDie s.arg.part va s.arg.idx .rd
  rw [h] at hm
  rw [exec_hostRead]
  unfold execHostRead
  extract_lets a
  subst a
  rw [hv]
  dsimp only
  rw [if_neg hst, if_neg (by decide), h]
  exact ⟨hm, fun e => by rw [e], fun _ e => by rw [e], fun _ e => by rw [e]⟩

theorem exec_hostWrite_open {ans : Ans Unit} (h : s.coWriteVia hostDie s.arg.part va (s.arg.bytes.map some) = (t, ans)) :
    MemOnly s t ∧ (ans = .wait → exec .hostWrite s = retry .hostWrite s) ∧ (ans = .ok () → exec .hostWrite s = ok t) ∧
    ∀ f, ans = .fault f → exec .hostWrite s = ok (t.hostFault s.arg.part va f.sub true) := by
  have hm := memOnly_coWriteVia s hostDie s.arg.part va (s.arg.bytes.map some)
  rw [h] at hm
  rw [exec_hostWrite]
  unfold execHostWrite
  extract_lets a
  subst a
  rw [hv]
  dsimp only
  rw [if_neg hst, if_neg (by decide), h]
  exact ⟨hm, fun e => by rw [e], fun e => by rw [e], fun _ e => by rw [e]⟩

end

/-! ### Work queues (R101, R102) -/

theorem State.queue_modQueue (s : State) (p j : Nat) (f : Queue → Queue) (k : Nat) :
    (s.modQueue p j f).queue p k = if k = j then f (s.queue p j) else s.queue p k := by
  simp [State.queue, State.modQueue, get_upd]

theorem State.modQueue_const (s : State) (p j : Nat) (f : Queue → Queue) : s.modQueue p j f = s.modQueue p j (fun _ => f (s.queue p j)) := rfl

theorem State.queue_modPart (s : State) (p : Nat) (f : Part → Part) (hf : ∀ x, (f x).queues = x.queues) (k : Nat) : (s.modPart p f).queue p k = s.queue p k := by
  simp [State.queue, hf]

theorem Queue.writeBase_eq (q : Queue) (v : Word) : q.writeBase v =
    if (q.ctl.getLsbD 8 = true ∧ v ≠ q.base) ∨ v.toNat % 2 ^ (q.log2n + 6) ≠ 0 then { q with ctl := q.ctl ||| 0x2000 } else { q with base := v } := by
  simp [Queue.writeBase, Queue.en, Queue.badw]

theorem Queue.refuses_iff (q : Queue) (draining : Bool) (v : Word) : q.refuses draining v = true ↔
    wfld v 0 5 < 4 ∨ 16 < wfld v 0 5 ∨ q.base.toNat % 2 ^ (wfld v 0 5 + 6) ≠ 0 ∨
      (q.ctl.getLsbD 8 = true ∧ (wfld v 0 5 ≠ q.log2n ∨ v.getLsbD 9 ≠ q.ctl.getLsbD 9 ∨ v.getLsbD 11 = true)) ∨ (v.getLsbD 8 = true ∧ draining = true) := by
  simp [Queue.refuses, Queue.en, or_assoc]

@[simp] theorem Queue.ctl_writeCtl (q : Queue) (v : Word) : (q.writeCtl v).ctl = ((q.ctl &&& ~~~v) &&& 0x3000) ||| (v &&& 0xFFFFFFFF0000031F#64) := by
  unfold Queue.writeCtl; dsimp only; split <;> rfl
@[simp] theorem Queue.base_writeCtl (q : Queue) (v : Word) : (q.writeCtl v).base = q.base := by unfold Queue.writeCtl; dsimp only; split <;> rfl
@[simp] theorem Queue.head_writeCtl (q : Queue) (v : Word) : (q.writeCtl v).head = if v.getLsbD 11 then q.tail else q.head := by
  unfold Queue.writeCtl; dsimp only; split <;> rfl
@[simp] theorem Queue.tail_writeCtl (q : Queue) (v : Word) : (q.writeCtl v).tail = q.tail := by unfold Queue.writeCtl; dsimp only; split <;> rfl

theorem Queue.writeTail_eq (q : Queue) (n t : Nat) : q.writeTail (n == 2) t =
    if 2 ^ q.log2n < q.used + (t + 2 ^ 32 - q.tail) % 2 ^ 32 ∨ q.ctl.getLsbD 9 = true ∨ n ≠ 2 then { q with ctl := q.ctl ||| 0x1000 } else { q with tail := t } := by
  simp [Queue.writeTail, Queue.baddb, or_assoc]

/-- The end of a reservation leaves the queues and the state of its partition. -/
theorem State.endReserve_spec (s : State) (p j : Nat) :
    OnlyPart s (s.endReserve p j) p ∧ (∀ k, (s.endReserve p j).queue p k = s.queue p k) ∧ ((s.endReserve p j).part p).st = (s.part p).st :=
  ⟨onlyPart_modPart .., fun k => by unfold State.endReserve; rw [State.queue_modPart _ _ _ (by intro; rfl)], by simp [State.endReserve]⟩

section
variable (hst : (s.part s.arg.part).st ≠ 0) (hi : s.arg.idx < 64)
include hst hi

theorem exec_qbaseWrite_live : exec .qbaseWrite s =
    ok (s.modQueue s.arg.part s.arg.idx (fun _ => (s.queue s.arg.part s.arg.idx).writeBase (halfWrite s.arg.sub (s.queue s.arg.part s.arg.idx).base 0 s.arg.val))) :=
  (if_neg (by omega)).trans (congrArg ok (State.modQueue_const ..))

theorem exec_qtailWrite_live (h2 : s.arg.sub ≠ 2) : exec .qtailWrite s =
    ok (s.modQueue s.arg.part s.arg.idx (fun _ => (s.queue s.arg.part s.arg.idx).writeTail ((s.part s.arg.part).st == 2) (wfld s.arg.val 0 32))) :=
  (if_neg (by omega)).trans (congrArg ok (State.modQueue_const ..))

variable {bits v : Word} (hv : v = halfWrite s.arg.sub (s.queue s.arg.part s.arg.idx).ctl 0x3800 s.arg.val ||| bits)
include hv

theorem State.qctlWrite_refused (hr : (s.queue s.arg.part s.arg.idx).refuses ((s.part s.arg.part).st == 3) v = true) :
    s.qctlWrite bits = s.modQueue s.arg.part s.arg.idx (fun _ => (s.queue s.arg.part s.arg.idx).badw) := by
  subst hv
  unfold State.qctlWrite
  rw [if_neg (by omega), if_pos hr]
  rfl

/-- An accepted write of QCTL changes its queue, and starts a STOPPED partition when it enables the queue (R101, R109). -/
theorem State.qctlWrite_taken (hr : ¬(s.queue s.arg.part s.arg.idx).refuses ((s.part s.arg.part).st == 3) v = true) :
    let t := s.qctlWrite bits
    OnlyPart s t s.arg.part ∧
      (∀ k, t.queue s.arg.part k = if k = s.arg.idx then (s.queue s.arg.part s.arg.idx).writeCtl v else s.queue s.arg.part k) ∧
      (t.part s.arg.part).st = if v.getLsbD 8 = true ∧ (s.part s.arg.part).st = 1 then 2 else (s.part s.arg.part).st := by
  subst hv
  unfold State.qctlWrite
  rw [if_neg (by omega), if_neg hr]
  generalize halfWrite s.arg.sub (s.queue s.arg.part s.arg.idx).ctl 0x3800 s.arg.val ||| bits = v
  have hq := State.queue_modQueue s s.arg.part s.arg.idx (fun q => q.writeCtl v)
  have ho : OnlyPart s (s.modQueue s.arg.part s.arg.idx (fun q => q.writeCtl v)) s.arg.part := onlyPart_modPart ..
  have hs : ((s.modQueue s.arg.part s.arg.idx (fun q => q.writeCtl v)).part s.arg.part).st = (s.part s.arg.part).st := by simp [State.modQueue]
  generalize s.modQueue s.arg.part s.arg.idx (fun q => q.writeCtl v) = a at hq ho hs ⊢
  obtain ⟨b, hb⟩ : ∃ b, b = if v.getLsbD 11 then a.endReserve s.arg.part s.arg.idx else a := ⟨_, rfl⟩
  have hab : OnlyPart a b s.arg.part ∧ (∀ k, b.queue s.arg.part k = a.queue s.arg.part k) ∧ (b.part s.arg.part).st = (a.part s.arg.part).st := by
    rw [hb]
    split
    · exact State.endReserve_spec ..
    · exact ⟨.refl .., fun _ => rfl, rfl⟩
  obtain ⟨hao, haq, has⟩ := hab
  dsimp only
  rw [← hb]
  split
  next h =>
    exact ⟨(ho.trans hao).trans (onlyPart_modPart ..), fun k => by rw [State.queue_modPart _ _ _ (by intro; rfl), haq, hq], by rw [State.part_modPart_same, if_pos (by simpa using h)]⟩
  next h =>
    exact ⟨ho.trans hao, fun k => by rw [haq, hq], by rw [has, hs, if_neg (by simpa using h)]⟩

end

/-- A write of QCTL only sets BADW of its queue, or is taken whole (R101). -/
theorem qctl_completes (hst : (s.part s.arg.part).st ≠ 0) (hi : s.arg.idx < 64) {bits v : Word} (he : exec i s = ok (s.qctlWrite bits))
    (hv : v = halfWrite s.arg.sub (s.queue s.arg.part s.arg.idx).ctl 0x3800 s.arg.val ||| bits) :
    let p := s.arg.part
    let q := s.queue p s.arg.idx
    let x := s.part p
    let refused := wfld v 0 5 < 4 ∨ 16 < wfld v 0 5 ∨ q.base.toNat % 2 ^ (wfld v 0 5 + 6) ≠ 0 ∨
      (q.ctl.getLsbD 8 = true ∧ (wfld v 0 5 ≠ q.log2n ∨ v.getLsbD 9 ≠ q.ctl.getLsbD 9 ∨ v.getLsbD 11 = true)) ∨ (v.getLsbD 8 = true ∧ x.st = 3)
    (refused → Completes i s (fun t => t = s.modQueue p s.arg.idx (fun _ => { q with ctl := q.ctl ||| 0x2000 }))) ∧
    (¬refused → Completes i s (fun t => { t with parts := s.parts } = s ∧ (∀ k, k ≠ p → t.part k = s.part k) ∧ (∀ k, k ≠ s.arg.idx → t.queue p k = s.queue p k) ∧
      (t.queue p s.arg.idx).ctl = ((q.ctl &&& ~~~v) &&& 0x3000) ||| (v &&& 0xFFFFFFFF0000031F#64) ∧ (t.queue p s.arg.idx).base = q.base ∧
      (t.queue p s.arg.idx).head = (if v.getLsbD 11 then q.tail else q.head) ∧ (t.queue p s.arg.idx).tail = q.tail ∧
      (t.part p).st = if v.getLsbD 8 = true ∧ x.st = 1 then 2 else x.st)) := by
  have hiff := Queue.refuses_iff (s.queue s.arg.part s.arg.idx) ((s.part s.arg.part).st == 3) v
  rw [beq_iff_eq] at hiff
  intro p q x refused
  refine ⟨fun hr => completes_eq ?_, fun hr => ?_⟩
  · rw [he, State.qctlWrite_refused hst hi hv (hiff.2 hr)]
    rfl
  · obtain ⟨⟨hrest, hparts⟩, hqs, hstate⟩ := State.qctlWrite_taken hst hi hv (fun h => hr (hiff.1 h))
    refine completes_of_exec he ⟨hrest, hparts, fun k hk => by rw [hqs, if_neg hk], ?_, ?_, ?_, ?_, hstate⟩ <;> rw [hqs, if_pos rfl]
    · exact Queue.ctl_writeCtl ..
    · exact Queue.base_writeCtl ..
    · exact Queue.head_writeCtl ..
    · exact Queue.tail_writeCtl ..

/-! ### Delivery rings (R103) -/

theorem Ring.reg_eq (r : Ring) (n : Nat) : r.reg n = if n = 0 then r.base else if n = 1 then r.paddr else r.ctl := by
  unfold Ring.reg
  split <;> simp_all

theorem Ring.write_base (r : Ring) {n : Nat} (hn : n = 0) (v : Word) : r.write n v =
    if (r.ctl.getLsbD 8 = true ∧ v ≠ r.base) ∨ v.toNat % 2 ^ (r.log2n + 4) ≠ 0 then { r with ctl := r.ctl ||| 0x200 } else { r with base := v } := by
  simp [hn, Ring.write, Ring.en, Ring.badw]

theorem Ring.write_paddr (r : Ring) {n : Nat} (hn : n = 1) (v : Word) : r.write n v =
    if (r.ctl.getLsbD 8 = true ∧ v ≠ r.paddr) ∨ v.toNat % 8 ≠ 0 then { r with ctl := r.ctl ||| 0x200 } else { r with paddr := v } := by
  simp [hn, Ring.write, Ring.en, Ring.badw]

theorem Ring.write_ctl (r : Ring) {n : Nat} (hn : n = 2) (v : Word) : r.write n v =
    if wfld v 0 5 < 8 ∨ 20 < wfld v 0 5 ∨ r.base.toNat % 2 ^ (wfld v 0 5 + 4) ≠ 0 ∨ (r.ctl.getLsbD 8 = true ∧ wfld v 0 5 ≠ r.log2n) ∨
      wfld v 40 8 = 0 ∨ wfld v 36 4 = 15 then { r with ctl := r.ctl ||| 0x200 }
    else { r with ctl := ((r.ctl &&& ~~~v) &&& 0x200) ||| (v &&& 0xFFFFFFF00000011F#64) } := by
  simp [hn, Ring.write, Ring.en, Ring.badw, or_assoc]

theorem exec_ringConfigWrite_live (hst : (s.part s.arg.part).st ≠ 0) (hi : s.arg.idx < 4) :
    let r := s.ring s.arg.part s.arg.idx
    exec .ringConfigWrite s = ok (s.setRing s.arg.part s.arg.idx (r.write s.arg.num (halfWrite s.arg.sub
      (if s.arg.num = 0 then r.base else if s.arg.num = 1 then r.paddr else r.ctl) (if s.arg.num = 2 then 0x200 else 0) s.arg.val))) := by
  dsimp only
  rw [← Ring.reg_eq]
  exact if_neg (by omega)

/-! ### The partition's registers (R116, R119, R137) -/

/-- The page of a DISABLED partition answers no access and no write. -/
theorem exec_disabled (hst : (s.part s.arg.part).st = 0) :
    (exec .hostRead s = ok s ∧ exec .hostWrite s = ok s) ∧
    (exec .qbaseWrite s = ok s ∧ exec .qctlWrite s = ok s ∧ exec .qctlFlush s = ok s ∧ exec .qtailWrite s = ok s) ∧
    exec .ringConfigWrite s = ok s ∧ exec .partSaveWrite s = ok s ∧ exec .partHerrClear s = ok s ∧ exec .partFrconsWrite s = ok s ∧ exec .partFrctlClr s = ok s := by
  refine ⟨⟨?_, ?_⟩, ⟨?_, ?_, ?_, ?_⟩, ?_, ?_, ?_, ?_, ?_⟩
  · exact if_pos hst
  · exact if_pos hst
  · exact if_pos (.inl hst)
  · exact congrArg ok (if_pos (.inl hst))
  · exact congrArg ok (if_pos (.inl hst))
  · exact if_pos (.inl hst)
  · exact if_pos (.inl hst)
  · exact if_pos (.inl hst)
  · simp [execPartHerrClear, hst]
  · simp [execPartFrconsWrite, hst]
  · simp [execPartFrctlClr, hst]

theorem exec_queueWrite_beyond (hi : 64 ≤ s.arg.idx) :
    exec .qbaseWrite s = ok s ∧ exec .qctlWrite s = ok s ∧ exec .qctlFlush s = ok s ∧ exec .qtailWrite s = ok s :=
  ⟨if_pos (.inr hi), congrArg ok (if_pos (.inr hi)), congrArg ok (if_pos (.inr hi)), if_pos (.inr (.inl hi))⟩

theorem exec_partHerrClear_eq (s : State) : exec .partHerrClear s = ok (if (s.part s.arg.part).st ≠ 0 ∧ s.arg.val.getLsbD 16 = true ∧ s.arg.sub ≠ 2 then
    s.modPart s.arg.part (fun y => { y with herrVa := 0, herrInfo := 0 }) else s) := by
  rw [apply_ite ok]
  simp [execPartHerrClear, and_assoc]

theorem exec_partFrctlClr_eq (s : State) : exec .partFrctlClr s = ok (if (s.part s.arg.part).st ≠ 0 ∧ s.arg.val.getLsbD 32 = true ∧ s.arg.sub ≠ 1 then
    s.modPart s.arg.part (fun y => { y with junder := 0, drop := 0 }) else s) := by
  rw [apply_ite ok]
  simp [execPartFrctlClr, and_assoc]

theorem exec_partFrconsWrite_live (hst : (s.part s.arg.part).st ≠ 0) : exec .partFrconsWrite s =
    ok (if s.arg.sub = 2 ∨ 16 < ((s.part s.arg.part).frprod + 2 ^ 32 - wfld s.arg.val 0 32) % 2 ^ 32 then s
      else s.modPart s.arg.part (fun y => { y with frcons := wfld s.arg.val 0 32 })) := by
  rw [apply_ite ok]
  simp [execPartFrconsWrite, hst]

theorem exec_partSaveWrite_live (hst : (s.part s.arg.part).st ≠ 0) (hi : s.arg.idx < 4) :
    let old := get 0 (s.part s.arg.part).save s.arg.idx
    let v := halfWrite s.arg.sub old 0x8000 s.arg.val
    exec .partSaveWrite s = ok (s.modPart s.arg.part (fun y => { y with save := put y.save s.arg.idx (
        if 8 < wfld v 0 4 ∨ (wfld v 0 4 ≠ 0 ∧ wfld v 45 12 ≠ 4 * s.pkg + s.arg.idx) ∨
        (s.savedOn s.arg.part s.arg.idx = true ∧ (wfld v 0 4 ≠ wfld old 0 4 ∨ wfld v 16 41 ≠ wfld old 16 41))
        then old ||| 0x8000 else (v &&& 0x01FFFFFFFFFF000F#64) ||| ((old &&& ~~~v) &&& 0x8000)) })) := by
  have hl : ¬((s.part s.arg.part).st = 0 ∨ 4 ≤ s.arg.idx) := by omega
  simp [execPartSaveWrite, hl, or_assoc]

theorem exec_partHwinWrite_eq (hi : s.arg.idx < 4) : exec .partHwinWrite s = ok (if wfld s.arg.val 57 7 = 0 then
    s.modPart s.arg.part (fun y => { y with hwin := put y.hwin s.arg.idx (s.arg.val &&& 0x01FFFFF000000001#64) }) else s) := by
  have hl : ¬4 ≤ s.arg.idx := by omega
  rw [apply_ite ok, ← ite_not]
  simp [execPartHwinWrite, hl]

/-! ### Registers without a behaviour of their own (R7, R58, R66, R68, R73, R111, R115–R118) -/

theorem exec_registerWrite_misaligned (hn : s.arg.num % 8 ≠ 0) (h4 : s.arg.idx ≠ 4) (h5 : s.arg.idx ≠ 5) : exec .registerWrite s = ok s := by
  simp [execRegisterWrite, hn, h4, h5]

section
variable {off : Nat} (hoff : s.arg.num = off) (h8 : off % 8 = 0)
include hoff h8

theorem exec_registerWrite_vf (hi : s.arg.idx = 0) : exec .registerWrite s = ok (s.vfWrite s.arg.part off s.arg.sub s.arg.val) := by
  simp [execRegisterWrite, hi, hoff, h8]

theorem exec_registerWrite_mgmt (hi : s.arg.idx = 2) : exec .registerWrite s = ok (s.mgmtWrite s.arg.die off s.arg.val) := by
  simp [execRegisterWrite, hi, hoff, h8]

theorem exec_registerWrite_table (hi : s.arg.idx = 3) : exec .registerWrite s = ok (s.tableWrite s.arg.die off s.arg.val) := by
  simp [execRegisterWrite, hi, hoff, h8]

end

theorem exec_registerWrite_engine (hi : s.arg.idx = 4) : exec .registerWrite s = ok (s.engineEnable s.arg.die s.arg.num (s.arg.val.getLsbD 0)) := if_pos hi

theorem exec_registerWrite_port (hi : s.arg.idx = 5) : exec .registerWrite s = ok (s.portBringUp s.arg.num s.arg.val.toNat) := by
  simp [execRegisterWrite, hi]

theorem State.vfWrite_disabled {p : Nat} (hst : (s.part p).st = 0) (off sub : Nat) (v : Word) : s.vfWrite p off sub v = s := if_pos hst

/-- CHBASE, FRBASE and the consumer indices of the four rings (R115). -/
theorem State.vfWrite_live {p : Nat} (hst : (s.part p).st ≠ 0) (sub : Nat) (v : Word) :
    s.vfWrite p 0xA20 sub v = s.modPart p (fun y => { y with chbase := halfWrite sub y.chbase 0 v &&& ~~~0xFFF#64 }) ∧
    s.vfWrite p 0xA28 sub v = s.modPart p (fun y => { y with frbase := halfWrite sub y.frbase 0 v &&& ~~~0xFFF#64 }) ∧
    ∀ j, j < 4 → sub ≠ 2 → s.vfWrite p (0x818 + 0x40 * j) sub v = s.setRing p j { s.ring p j with cidx := wfld v 0 32 } := by
  refine ⟨by simp [State.vfWrite, hst], by simp [State.vfWrite, hst], fun j hj h2 => ?_⟩
  have hring : (0x818 + 0x40 * j - 0x800) / 0x40 = j := by omega
  unfold State.vfWrite
  rw [if_neg hst, if_neg (by omega), if_neg (by omega), if_pos (by simp [h2]; omega), hring]

/-- A change of BASE of XLAT.ROOT is taken inside Wharf's table region only (R111). -/
theorem Die.rootWrite_eq (x : Die) (p : Nat) (v : Word) : x.rootWrite p v =
    let w := v &&& 0x7FFFFFC0001#64
    if wfld w 18 25 = wfld (get 0 x.rootReg p) 18 25 ∨ x.inTables (wfld w 18 25 * 2 ^ 18) 262144 = true then { x with rootReg := put x.rootReg p w } else x := by
  unfold Die.rootWrite
  extract_lets w
  by_cases hbase : wfld w 18 25 = wfld (get 0 x.rootReg p) 18 25
  · rw [if_neg (fun h => h.1 hbase), if_pos (.inl hbase)]
  · cases x.inTables (wfld w 18 25 * 2 ^ 18) 262144 with
    | true => rw [if_neg (fun h => Bool.false_ne_true h.2), if_pos (.inr rfl)]
    | false => rw [if_pos ⟨hbase, rfl⟩, if_neg (fun h => h.elim hbase Bool.false_ne_true)]

theorem State.mgmtWrite_root (s : State) (d : Nat) {k : Nat} (hk : k < 16) (v : Word) : s.mgmtWrite d (0x20000 + 8 * k) v = s.modDie d (fun x => x.rootWrite k v) := by
  have hj : (0x20000 + 8 * k - 0x20000) / 8 = k := by omega
  unfold State.mgmtWrite
  rw [if_pos (by simp; omega), hj]

theorem State.mgmtWrite_shva (s : State) (d : Nat) (v : Word) :
    s.mgmtWrite d 0x20100 v = s.modDie d (fun x => if x.shctl.getLsbD 9 then { x with shva := v } else x) := rfl

theorem State.mgmtWrite_weir (s : State) (v : Word) : s.mgmtWrite 0 0 v = { s with pw := { s.pw with
    en := v.getLsbD 0, fillEn := v.getLsbD 1, balEn := v.getLsbD 2, fresh := s.pw.fresh || (v.getLsbD 0 && !s.pw.en) } } := rfl

theorem State.mgmtWrite_mapStage (s : State) (d : Nat) {j : Nat} (hj : j < 4) (v : Word) : s.mgmtWrite d (0x20208 + 8 * j) v =
    s.modDie d (fun x => { x with mapStage := (List.range 8).foldl (fun m k => put m (8 * j + k) (wfld v (8 * k) 5)) x.mapStage }) := by
  have hi : (0x20208 + 8 * j - 0x20208) / 8 = j := by omega
  unfold State.mgmtWrite
  rw [if_neg (by simp; omega), if_neg (by simp; omega), if_neg (by omega), if_neg (by omega), if_pos (by simp; omega), hi]

/-- What a map holds after a run of keys has been set one by one. -/
theorem get_foldl_put {α : Type} (d : α) (b : Nat) (f : Nat → α) (m : SMap α) (n k : Nat) :
    get d ((List.range n).foldl (fun m j => put m (b + j) (f j)) m) k = if b ≤ k ∧ k < b + n then f (k - b) else get d m k := by
  induction n with
  | zero => rw [if_neg (by omega)]; rfl
  | succ n ih =>
    rw [List.range_succ, List.foldl_append, List.foldl_cons, List.foldl_nil, get_put, ih]
    by_cases h : k = b + n
    · rw [if_pos h, if_pos (by omega), h, Nat.add_sub_cancel_left]
    · have hin : (b ≤ k ∧ k < b + (n + 1)) ↔ (b ≤ k ∧ k < b + n) := by omega
      rw [if_neg h]
      simp only [hin]

/-- A staged word of the slice map sets eight entries (R86). -/
theorem get_stagedEntries (m : SMap Nat) (j : Nat) (v : Word) (k : Nat) :
    get 0 ((List.range 8).foldl (fun m i => put m (8 * j + i) (wfld v (8 * i) 5)) m) k = if k / 8 = j then wfld v (8 * (k % 8)) 5 else get 0 m k := by
  rw [get_foldl_put 0 (8 * j) (fun i => wfld v (8 * i) 5)]
  by_cases h : k / 8 = j
  · have hk : k - 8 * j = k % 8 := by omega
    rw [if_pos (by omega), if_pos h, hk]
  · rw [if_neg (by omega), if_neg h]

/-- A collective engine that the carve-outs leave room for is enabled, and the ways that its buffer takes lose their lines (R58, R88). -/
theorem State.engineEnable_fits (s : State) (d : Nat) {pg : Nat} (hp : pg < 4) (hoff : (s.die d).engOn.getLsbD pg = false)
    (hroom : (s.die d).carveTotal 8 + 4 ≤ (s.die d).carveLimit) :
    MemOnly s (s.engineEnable d pg true) ∧ ((s.engineEnable d pg true).die d).engOn = (s.die d).engOn ||| BitVec.ofNat 4 (2 ^ pg) := by
  have hm := memOnly_modDie s d (fun x => { x with engOn := x.engOn ||| BitVec.ofNat 4 (2 ^ pg) })
  have he : ((s.modDie d (fun x => { x with engOn := x.engOn ||| BitVec.ofNat 4 (2 ^ pg) })).die d).engOn = (s.die d).engOn ||| BitVec.ofNat 4 (2 ^ pg) := by
    rw [State.die_modDie_same]
  unfold State.engineEnable
  rw [if_neg (by omega), if_neg (by decide), if_neg (by simp [hoff]; omega)]
  dsimp only
  split
  · exact ⟨hm.trans (memOnly_giveWays ..), (LinesOnly.engOn (linesOnly_giveWays _ d) d).trans he⟩
  · exact ⟨hm, he⟩

theorem State.engineEnable_off (s : State) (d : Nat) {pg : Nat} (hp : pg < 4) :
    s.engineEnable d pg false = s.modDie d (fun x => { x with engOn := x.engOn &&& ~~~(BitVec.ofNat 4 (2 ^ pg)) }) := by
  unfold State.engineEnable
  rw [if_neg (by omega)]
  rfl

theorem State.engineEnable_full (s : State) (d pg : Nat)
    (hfull : ¬((s.die d).engOn.getLsbD pg = false ∧ (s.die d).carveTotal 8 + 4 ≤ (s.die d).carveLimit)) : s.engineEnable d pg true = s := by
  unfold State.engineEnable
  dsimp only
  split
  · rfl
  · rw [if_neg (by decide), if_pos]
    cases h : (s.die d).engOn.getLsbD pg <;> simp_all

theorem State.portBringUp_eq (s : State) (port size : Nat) : s.portBringUp port size =
    if port < 16 then { s with cxlUp := s.cxlUp ||| BitVec.ofNat 16 (2 ^ port), cxlSize := put s.cxlSize port size } else s := by
  unfold State.portBringUp
  rw [← ite_not]
  simp

/-! ### The obligation -/

/-- Settles O45: each access and each register write of the host, by what the lemmas above say of it. -/
theorem hostEventsComplete : Obligations.HostEventsComplete := by
  intro s a p x becomes part
  refine ⟨?disabled, ?aperture, ?queues, ?beyondQueues, ?beyondRings, ?rings, ?herr, ?herrKept, ?frcons, ?frctl, ?frctlKept, ?save, ?hwin,
    fun hn h4 h5 => completes_eq (exec_registerWrite_misaligned hn h4 h5), ?vfPage, fun hi hn => completes_eq (exec_registerWrite_table rfl hn hi), ?noEngine, ?engine, ?port, ?mgmt⟩
  case disabled =>
    intro hst
    obtain ⟨⟨hrd, hwr⟩, ⟨hqb, hqc, hqf, hqt⟩, hring, hsave, hclear, hcons, hclr⟩ := exec_disabled hst
    refine ⟨completes_eq hrd, completes_eq hwr, completes_eq hqb, completes_eq hqc, completes_eq hqf, completes_eq hqt, completes_eq hring, completes_eq hsave,
      completes_eq hclear, completes_eq hcons, completes_eq hclr, fun hi => completes_eq ?_⟩
    by_cases hn : a.num % 8 = 0
    · rw [exec_registerWrite_vf rfl hn hi, State.vfWrite_disabled hst]
    · exact exec_registerWrite_misaligned hn (by rw [hi]; decide) (by rw [hi]; decide)
  case aperture =>
    intro w va fault rd wr hst
    have hva : s.hostVa p a.num = (va, w.getLsbD 0) := rfl
    refine ⟨fun hw => ?closed, fun hw => ?opened⟩ <;> rw [hw] at hva
    case closed =>
      obtain ⟨hrd, hwr⟩ := exec_host_closed hst hva
      exact ⟨completes_of_exec hrd (State.hostFault_spec _ _ _ _ _ (by decide)), completes_of_exec hwr (State.hostFault_spec _ _ _ _ _ (by decide))⟩
    case opened =>
      obtain ⟨hrm, rwait, rok, rfault⟩ := exec_hostRead_open hst hva (Prod.eta rd).symm
      obtain ⟨hwm, wwait, wok, wfault⟩ := exec_hostWrite_open hst hva (Prod.eta wr).symm
      exact ⟨fun e => completes_eq (rwait e), fun bs e => ⟨hrm, completes_eq (rok bs e)⟩,
        fun f e => ⟨hrm, fun hf => completes_of_exec (rfault f e) (State.hostFault_spec _ _ _ _ _ hf)⟩, fun e => completes_eq (wwait e), fun e => ⟨hwm, completes_eq (wok e)⟩,
        fun f e => ⟨hwm, fun hf => completes_of_exec (wfault f e) (State.hostFault_spec _ _ _ _ _ hf)⟩⟩
  case queues =>
    intro hst hi q on set v bad
    have hbase := exec_qbaseWrite_live hst hi
    rw [Queue.writeBase_eq] at hbase
    obtain ⟨hbad, hset⟩ := completes_ite_of set hbase
    refine ⟨hbad, hset, ⟨?_, qctl_completes hst hi rfl rfl⟩, fun h2 => completes_eq (if_pos (.inr (.inr h2))), fun h2 => ?_⟩
    · exact qctl_completes hst hi (bits := 0) rfl (BitVec.or_zero ..).symm
    · have htail := exec_qtailWrite_live hst hi h2
      rw [Queue.writeTail_eq] at htail
      exact completes_ite_of set htail
  case beyondQueues =>
    intro hi
    obtain ⟨hqb, hqc, hqf, hqt⟩ := exec_queueWrite_beyond hi
    exact ⟨completes_eq hqb, completes_eq hqc, completes_eq hqf, completes_eq hqt⟩
  case beyondRings => exact fun hi => ⟨completes_eq (if_pos (.inr hi)), completes_eq (if_pos (.inr hi)), completes_eq (if_pos (.inl hi))⟩
  case rings =>
    intro hst hi r old v n on set bad b0 b1 b2
    have he : exec .ringConfigWrite s = ok (s.setRing p a.idx (r.write a.num v)) := exec_ringConfigWrite_live hst hi
    refine ⟨fun hn => ?_, fun hn => ?_, fun hn => ?_⟩
    · rw [Ring.write_base r hn] at he
      exact completes_ite_of (s.setRing p a.idx) he
    · rw [Ring.write_paddr r hn] at he
      exact completes_ite_of (s.setRing p a.idx) he
    · rw [Ring.write_ctl r hn] at he
      exact completes_ite_of (s.setRing p a.idx) he
  case herr => exact fun hst hv hsub => (completes_ite (exec_partHerrClear_eq s)).1 ⟨hst, hv, hsub⟩
  case herrKept => exact fun hno => (completes_ite (exec_partHerrClear_eq s)).2 (fun ⟨_, hv, hsub⟩ => hno.elim (ne_false_of_eq_true hv) hsub)
  case frcons => exact fun hst => completes_ite (exec_partFrconsWrite_live hst)
  case frctl => exact fun hst hv hsub => (completes_ite (exec_partFrctlClr_eq s)).1 ⟨hst, hv, hsub⟩
  case frctlKept => exact fun hno => (completes_ite (exec_partFrctlClr_eq s)).2 (fun ⟨_, hv, hsub⟩ => hno.elim (ne_false_of_eq_true hv) hsub)
  case save => exact fun hst hi => completes_ite_of (fun w => part (fun y => { y with save := put y.save a.idx w })) (exec_partSaveWrite_live hst hi)
  case hwin => exact fun hi => (completes_ite (exec_partHwinWrite_eq hi)).symm
  case vfPage =>
    intro hst hi
    obtain ⟨hch, hfr, hcidx⟩ := State.vfWrite_live hst a.sub a.val
    refine ⟨fun hn => completes_eq ?_, fun hn => completes_eq ?_, fun j hj hn hsub => completes_eq ?_⟩ <;> rw [exec_registerWrite_vf hn (by omega) hi]
    · exact congrArg ok hch
    · exact congrArg ok hfr
    · exact congrArg ok (hcidx j hj hsub)
  case noEngine => exact fun hi hn => completes_eq ((exec_registerWrite_engine hi).trans (congrArg ok (if_pos hn)))
  case engine =>
    intro hi hn y bit fits
    have he := exec_registerWrite_engine hi
    refine ⟨fun hv => completes_eq ?_, fun hv hf => completes_eq ?_, fun hv hf => ?_⟩ <;> rw [hv] at he
    · rw [he, State.engineEnable_off s a.die hn]
    · rw [he, State.engineEnable_full s a.die a.num hf]
    · exact completes_of_exec he (State.engineEnable_fits s a.die hn hf.1 hf.2)
  case port => exact fun hi => completes_eq (by rw [exec_registerWrite_port hi, State.portBringUp_eq])
  case mgmt =>
    refine fun hi => ⟨fun k hk hn => completes_eq ?_, fun hn => completes_eq ?_, fun j hj hn => ?_, fun hd hn => completes_eq ?_⟩ <;>
      have he := exec_registerWrite_mgmt hn (by omega) hi
    · rw [he, State.mgmtWrite_root s a.die hk]
      exact congrArg (fun f => ok (s.modDie a.die f)) (funext fun y => Die.rootWrite_eq y k a.val)
    · rw [he, State.mgmtWrite_shva]
    · rw [State.mgmtWrite_mapStage s a.die hj] at he
      refine completes_of_exec he ⟨memOnly_modDie .., rfl, fun k => ?_⟩
      rw [State.die_modDie_same]
      exact get_stagedEntries ..
    · rw [he, hd, State.mgmtWrite_weir]

end Sys2Proof.Machine
end

section
/-! SUPPORT. The writes of WEIR.SLOPE, TIME.FREQ and TIME.START, taken or refused, and what package reset leaves in each record of the state. -/
namespace Sys2Proof.Machine

open Sys2Proof

/-! ### The writes that a range or the counter refuses (R32, R40, R41, R435) -/

theorem exec_weirSlopeWrite_eq (s : State) : exec .weirSlopeWrite s =
    let up := wfld s.arg.val 16 14
    let dn := wfld s.arg.val 0 14
    ok (if up = 0 ∨ 10000 < up ∨ dn = 0 ∨ 10000 < dn then { s with pw := { s.pw with badw := true } }
      else { s with pw := { s.pw with up := BitVec.ofNat 14 up, dn := BitVec.ofNat 14 dn } }) := by
  rw [apply_ite ok]
  simp [execWeirSlopeWrite, State.modPw, or_assoc]

theorem exec_timeFreqWrite_eq (s : State) : exec .timeFreqWrite s =
    let v : BitVec 32 := s.arg.val.setWidth 32
    ok (if v.toInt < -109951162 ∨ 109951162 < v.toInt then { s with tm := { s.tm with badw := true } }
      else { s with tm := { s.tm with freq := v } }) := by
  rw [apply_ite ok]
  simp [execTimeFreqWrite, State.modTm, freqMax]

section
variable {s : State}

/-- An armed start at a count that has passed is refused, whether or not the counter runs, and disarmed (R41). -/
theorem exec_timeStartWrite_passed (harm : s.tm.arm = true) (hle : s.arg.val.toNat ≤ s.tm.pre) :
    exec .timeStartWrite s = ok { s with tm := { s.tm with badw := true, arm := false } } := by
  simp [execTimeStartWrite, State.modTm, harm, hle]

/-- Any other write is taken before the epoch; after it none changes the register (R40, R435). -/
theorem exec_timeStartWrite_eq (h : s.tm.arm = false ∨ s.tm.pre < s.arg.val.toNat) : exec .timeStartWrite s =
    ok (if s.tm.run = true then (if s.arg.val = s.tm.start then s else { s with tm := { s.tm with badw := true } })
      else { s with tm := { s.tm with start := s.arg.val } }) := by
  have hp : ¬((s.tm.arm && decide (s.arg.val.toNat ≤ s.tm.pre)) = true) := by
    rw [Bool.and_eq_true, decide_eq_true_eq]
    rintro ⟨harm, hle⟩
    exact h.elim (ne_false_of_eq_true harm) (Nat.not_lt.2 hle)
  rw [exec_timeStartWrite, execTimeStartWrite, if_neg hp]
  simp only [apply_ite ok]
  rfl

end

/-- Settles O40: each of the three writes is its equation, split at the condition that refuses it. -/
theorem refusedRegisterWrites : Obligations.RefusedRegisterWrites := by
  intro s p m becomes
  refine ⟨?slope, ?freq, ?start⟩
  case slope =>
    obtain ⟨refused, taken⟩ := completes_ite (exec_weirSlopeWrite_eq s)
    exact ⟨refused, fun _ _ _ _ => taken (by omega)⟩
  case freq =>
    obtain ⟨refused, taken⟩ := completes_ite (exec_timeFreqWrite_eq s)
    exact ⟨refused, fun _ _ => taken (by omega)⟩
  case start =>
    refine ⟨fun harm hle => completes_eq (exec_timeStartWrite_passed harm hle), fun h hrun => ?stopped, fun h hrun => ?running⟩
    case stopped => exact (completes_ite (exec_timeStartWrite_eq h)).2 (ne_true_of_eq_false hrun)
    case running =>
      have he := exec_timeStartWrite_eq h
      rw [if_pos hrun] at he
      exact ⟨fun hsame => (completes_ite he).1 hsame, completes_of_exec he (by split <;> rfl)⟩

/-! ### What package reset leaves: no map has an entry, so each record reads as its own reset value -/

namespace State

/-- Each tile is about to send its beat 0 (R239). -/
theorem agenda_reset : reset.agenda = (List.range 512).map (fun n => .ev .beat { Arg.zero with tile := n }) := by rw [reset]

@[simp] theorem tile_reset (n : Nat) : reset.tile n = Tile.reset := get_nil ..
@[simp] theorem die_reset (d : Nat) : reset.die d = Die.reset d := get_nil ..
@[simp] theorem part_reset (p : Nat) : reset.part p = Part.reset := get_nil ..
@[simp] theorem port_reset (p : Nat) : reset.port p = Port.reset := get_nil ..
@[simp] theorem queue_reset (p q : Nat) : reset.queue p q = Queue.reset := get_nil ..
@[simp] theorem ring_reset (p r : Nat) : reset.ring p r = Ring.reset := get_nil ..

/-- No memory lists a byte, and no tile has a scratchpad of its own. -/
theorem memOk_reset : reset.memOk = true := by decide

end State

namespace Tile

@[simp] theorem g_reset (r : Nat) : reset.g r = 0 := by
  unfold Tile.g
  split
  · rfl
  · exact get_nil ..

@[simp] theorem queue_reset (q : Nat) : reset.queue q = [] := get_nil ..
@[simp] theorem sem_reset (k : Nat) : reset.sem k = 0 := get_nil ..
@[simp] theorem iq_reset (c : Col) : reset.iq c = [] := get_nil ..

/-- Nobody owns the tile, and it has been cleared. -/
theorem ownByte_reset : reset.ownByte = 0x40 := rfl

end Tile

/-- Settles O57: every record reads as its reset value, whose fields are the spec's. -/
theorem resetState : Obligations.ResetState := by
  unfold Obligations.ResetState
  intro s
  refine ⟨State.memOk_reset, rfl, rfl, State.agenda_reset, rfl, rfl, ?power, ?time, ?telemetry, fun p => ?port, fun p => ?part, fun p q => ?queue, fun p r => ?ring, fun d => ?die,
    fun n => ?tile⟩
  case power => exact ⟨rfl, rfl, rfl, rfl, rfl⟩
  case time => exact ⟨rfl, rfl, rfl, rfl, rfl, rfl, rfl, rfl, rfl, rfl⟩
  case telemetry => exact ⟨rfl, rfl, rfl, rfl, rfl, rfl⟩
  case port => rw [State.port_reset]; rfl
  case part => rw [State.part_reset]; exact ⟨rfl, rfl, rfl, rfl, rfl, rfl, rfl⟩
  case queue => rw [State.queue_reset]; exact ⟨rfl, rfl, rfl⟩
  case ring => rw [State.ring_reset]; exact ⟨rfl, rfl⟩
  case die => rw [State.die_reset]; exact ⟨rfl, rfl, rfl, rfl, rfl⟩
  case tile =>
    rw [State.tile_reset]
    exact ⟨rfl, Tile.g_reset, Tile.queue_reset, Tile.sem_reset, rfl, rfl, rfl, rfl, rfl, Tile.iq_reset, rfl, rfl, rfl, rfl, rfl, rfl, Tile.ownByte_reset, rfl⟩

end Sys2Proof.Machine
end

section
/-! SUPPORT. The carries of `SCSND` and `SCRCV` (R54, R57, R207, R384): what each word does when it starts. -/
namespace Sys2Proof.Machine

open Sys2Proof

/-! ### What issuing leaves -/

/-- A synchronous word that starts does so in a state that differs from the present one in the queues and the fetch unit of its own tile only. -/
theorem SyncStarts.keeps {s s' : State} {dly : BitVec 3} {stamp : Option Lane} {k : Needs} (h : SyncStarts s dly stamp k s') :
    OnlyTile s s' s.cur.tile ∧ { s'.tile s.cur.tile with qs := (s.tile s.cur.tile).qs, fe := (s.tile s.cur.tile).fe } = s.tile s.cur.tile := by
  obtain ⟨-, -, h⟩ := h
  rcases h with ⟨-, -, -, -, rfl⟩ | ⟨-, -, -, -, -, rfl⟩ | ⟨-, -, -, -, rfl, -⟩ | ⟨-, -, -, lim, -, -, rfl⟩
  · exact ⟨.refl .., rfl⟩
  · exact ⟨.refl .., rfl⟩
  · exact ⟨.refl .., rfl⟩
  · exact ⟨onlyTile_modTile .., by rw [State.tile_modTile_same]; rfl⟩

namespace OnlyTile
variable {s t : State} {n : Nat} (h : OnlyTile s t n)
include h

theorem cur : t.cur = s.cur := (congrArg State.cur h.1 :)
theorem pkg : t.pkg = s.pkg := (congrArg State.pkg h.1 :)
theorem carries : t.carries = s.carries := (congrArg State.carries h.1 :)
theorem place (m : Nat) : t.place m = s.place m := (congrArg (State.place · m) h.1 :)
theorem hop (p : Place) : t.hop p = s.hop p := (congrArg (State.hop · p) h.1 :)
theorem towPorts (m : Nat) (p : Place) : t.towPorts m p = s.towPorts m p := (congrArg (State.towPorts · m p) h.1 :)

/-- What is bound for a tile is bound for the task that it holds, which one with the same identities holds too. -/
theorem boundFor (hid : (t.tile n).id = (s.tile n).id) (p : Place) : t.boundFor p = s.boundFor p := by
  unfold State.boundFor
  rw [h.pkg]
  by_cases hp : p.tile = n
  · rw [hp, hid]
  · rw [h.2 _ hp]

end OnlyTile

/-- A word that fires leaves its tile as its effect makes it, but for the fetch unit. -/
theorem tile_fire (s : State) (k : Needs) (hold : Nat) (g : Tile → Tile) :
    ∃ x, (s.fire k hold g).tile s.cur.tile = { g ((s.tile s.cur.tile).take k) with fe := x } := by
  unfold State.fire State.issued
  rw [State.cur_modTile, State.tile_modTile_same, State.tile_modTile_same]
  cases s.cur.body <;> exact ⟨_, rfl⟩

/-- A word of SQ that uses no sub-array, leaves SQ as u and has the landings l has issued. -/
theorem fire_arrDone (s : State) (k : Needs) (lat hold : Nat) (g : Tile → Tile) (u : Sq) (l : List Pend) (ha : k.arrays = false)
    (hg : let x := (s.tile s.cur.tile).take k; { g x with pend := x.pend } = { x with sq := u })
    (hp : (g ((s.tile s.cur.tile).take k)).pend = landAll l (s.tile s.cur.tile).pend) :
    ArrDone s (s.fire k hold (fun t => (g t).pushToks k.outs lat)) k lat hold (s.tile s.cur.tile).mx u l := by
  have keep : ∀ {γ : Type} (p : Tile → γ), (∀ t l, p { t with pend := l } = p t) →
      p (g ((s.tile s.cur.tile).take k)) = p { (s.tile s.cur.tile).take k with sq := u } := by
    intro γ p h
    have := congrArg p hg
    rwa [h] at this
  have hcnt := (keep (·.cnt) (fun _ _ => rfl)).trans (Tile.cnt_take ..)
  obtain ⟨hdone, hmx, hsq, hqueue⟩ := fire_done s k hold (fun t => (g t).pushToks k.outs lat) (l ++ tokLandings (s.tile s.cur.tile) k lat)
    ⟨(Tile.ct_pushToks ..).trans (keep (·.ct) (fun _ _ => rfl)), (Tile.st_pushToks ..).trans (keep (·.st) (fun _ _ => rfl)),
      (Tile.en_pushToks ..).trans (keep (·.en) (fun _ _ => rfl)), (Tile.id_pushToks ..).trans (keep (·.id) (fun _ _ => rfl)),
      (Tile.wa_pushToks ..).trans (keep (·.wa) (fun _ _ => rfl)), (Tile.cnt_pushToks ..).trans (keep (·.cnt) (fun _ _ => rfl)),
      (Tile.run_pushToks ..).trans (keep (·.run) (fun _ _ => rfl)), (Tile.cache_pushToks ..).trans (keep (·.cache) (fun _ _ => rfl)),
      (Tile.old_pushToks ..).trans (keep (·.old) (fun _ _ => rfl)), (Tile.fe_pushToks ..).trans (keep (·.fe) (fun _ _ => rfl)),
      (congrArg Queues.sm (Tile.qs_pushToks ..)).trans (keep (·.qs.sm) (fun _ _ => rfl)),
      (congrArg Queues.raises (Tile.qs_pushToks ..)).trans (keep (·.qs.raises) (fun _ _ => rfl))⟩
    (by rw [pend_pushToks, hp, landAll_append, hcnt]; rfl)
  refine ⟨hdone, ?_, ?_, ?_⟩
  · rw [hmx, Tile.mx_pushToks, keep (·.mx) (fun _ _ => rfl)]
    exact Tile.mx_take _ _ ha
  · rw [hsq, Tile.sq_pushToks, keep (·.sq) (fun _ _ => rfl)]
  · have hq : (g ((s.tile s.cur.tile).take k)).queue = (s.tile s.cur.tile).queue := (keep (·.queue) (fun _ _ => rfl)).trans (Tile.queue_take ..)
    rw [hqueue, ← hq]
    exact congrArg (fun q : Queues => get [] q.q) (Tile.qs_pushToks ..)

/-- The landings of rows are all that `Tile.rowsOut` adds. -/
theorem Tile.rowsOut_spec (t : Tile) (lat r : Nat) (rows : List Row) : { t.rowsOut lat r rows with pend := t.pend } = t ∧
    (t.rowsOut lat r rows).pend = landAll (t.rowsDue lat r rows) t.pend := by
  unfold Tile.rowsOut Tile.rowsDue
  generalize List.range rows.length = l
  have key : ∀ u : Tile, u.cnt = t.cnt →
      { l.foldl (fun t i => t.after .sq lat (.row (r + i) (rows.getD i 0))) u with pend := u.pend } = u ∧
      (l.foldl (fun t i => t.after .sq lat (.row (r + i) (rows.getD i 0))) u).pend =
        landAll (l.map (fun i => t.due .sq lat (.row (r + i) (rows.getD i 0)))) u.pend := by
    induction l with
    | nil => exact fun _ _ => ⟨rfl, rfl⟩
    | cons i l ih =>
      intro u hu
      obtain ⟨hrest, hpend⟩ := ih (u.after .sq lat (.row (r + i) (rows.getD i 0))) hu
      refine ⟨congrArg (fun x : Tile => { x with pend := u.pend }) hrest, ?_⟩
      rw [List.foldl_cons, hpend, Tile.pend_after, hu]
      rfl
  exact key t rfl

/-! ### `SCSND` -/

section
variable {s s' : State} {k : MTok} {ch tag : BitVec 8} {rb : BitVec 3}

/-- The bytes of a carry: its K rows (R207). -/
def Tile.carryBytes (x : Tile) : Nat := 512 * (wfld x.sq.cfg 16 2 + 1)
/-- What `SCSND` asks of its channel. -/
def carrySend (x : Tile) : ChanUse := ⟨[1], permSend, [], x.carryBytes⟩

variable (hs : SyncStarts s k.tok.dly k.stamp (sqNeeds k) s') (hw : wellFormed (.scsnd k ch tag rb) = true)
include hs hw

theorem exec_scsnd_denied {sub : Nat} (hc : s'.chanCheck s.cur.tile ch.toNat (carrySend (s'.tile s.cur.tile)) = some sub) :
    exec (.scsnd k ch tag rb) s = ok (s'.trapCur tCHANNEL sub) := by
  rw [← hs.keeps.1.cur] at hc
  rw [exec_scsnd, execScsnd, hw, syncIssue_starts hs]
  simp only [carrySend, Tile.carryBytes] at hc
  simp only [hc]

variable (hc : s'.chanCheck s.cur.tile ch.toNat (carrySend (s'.tile s.cur.tile)) = none)
include hc

theorem exec_scsnd_unreachable (hg : s'.carryGoes s.cur.tile (chPlace ((s'.tile s.cur.tile).chan ch.toNat)) = false) :
    exec (.scsnd k ch tag rb) s = ok (s'.trapCur tTOWPATH 0) := by
  rw [← hs.keeps.1.cur] at hc hg
  rw [exec_scsnd, execScsnd, hw, syncIssue_starts hs]
  simp only [carrySend, Tile.carryBytes] at hc
  simp only [hc, hg, Bool.not_false, if_true]

variable (hg : s'.carryGoes s.cur.tile (chPlace ((s'.tile s.cur.tile).chan ch.toNat)) = true)
include hg

theorem exec_scsnd_full (ha : (s'.tile s.cur.tile).allowOk ch.toNat (s'.tile s.cur.tile).carryBytes = false) :
    exec (.scsnd k ch tag rb) s = ok (s'.keepWord (sqNeeds k) k.stamp) := by
  rw [← hs.keeps.1.cur] at hc hg ha
  rw [exec_scsnd, execScsnd, hw, syncIssue_starts hs]
  simp only [carrySend, Tile.carryBytes] at hc ha
  simp [hc, hg, ha]

/-- The carry that `SCSND` hands to the network in a state, through a port (R54, R207). -/
def State.carrySent (s : State) (ch tag : BitVec 8) (rb : BitVec 3) (port : Option Nat) : Carry :=
  let n := s.cur.tile
  let x := s.tile n
  let dst := chPlace (x.chan ch.toNat)
  ⟨s.place n, dst, tag, x.vrows (16 * rb.toNat) (wfld x.sq.cfg 16 2 + 1), x.en.nextKey, ch.toNat, s.cur.q.addr, s.boundFor dst, { s.hop dst with port := port }, x.id.part⟩

/-- The state in which `SCSND` has issued and holds SQ. -/
def State.carryIssued (s : State) (k : MTok) (ch : BitVec 8) : State :=
  let x := s.tile s.cur.tile
  (s.fire (sqNeeds k) 1 (fun t => t.newKey.1.allowTake ch.toNat x.carryBytes)).modTile s.cur.tile
    (fun t => t.setCol .sq { t.col .sq with ackKey := some x.en.nextKey, ackToks := (sqNeeds k).outs })

/-- The port that a carry takes is free among those that it may take; inside the package it takes none. -/
theorem exec_scsnd_sends (ha : (s'.tile s.cur.tile).allowOk ch.toNat (s'.tile s.cur.tile).carryBytes = true) :
    ∃ port, exec (.scsnd k ch tag rb) s = ok { s'.carryIssued k ch with
        carries := s'.carries ++ [s'.carrySent ch tag rb port], free := s'.free + 1, packets := s'.packets + 1 } ∧
      let dst := chPlace ((s'.tile s.cur.tile).chan ch.toNat)
      (dst.pkg = s'.pkg → port = none) ∧ ∀ p, port = some p → p ∈ s'.towPorts s.cur.tile dst := by
  rw [← hs.keeps.1.cur] at hc hg ha ⊢
  rw [exec_scsnd, execScsnd, hw, syncIssue_starts hs]
  simp only [carrySend, Tile.carryBytes] at hc ha
  simp only [hc, hg, ha, Bool.not_true, Bool.false_eq_true, if_false]
  refine ⟨_, rfl, fun hp => if_pos hp, fun p hp => ?_⟩
  split at hp
  · cases hp
  · exact List.mem_of_getElem? hp

end

/-- SQ waits for the acknowledgement of its carry, whose allowance is taken; of its own tile nothing else but the queues' reservations and fetch has
changed, and nothing of the rest of the state (R107, R207). -/
theorem State.carryIssued_spec (s : State) (k : MTok) (ch : BitVec 8) :
    let u := s.carryIssued k ch
    let x := s.tile s.cur.tile
    let y := u.tile s.cur.tile
    OnlyTile s u s.cur.tile ∧ (y.col .sq).ackKey = some x.en.nextKey ∧ (y.col .sq).ackToks = (sqNeeds k).outs ∧
      get 0 y.en.allow ch.toNat = get 0 x.en.allow ch.toNat + x.carryBytes ∧ { y.en with allow := x.en.allow, nextKey := x.en.nextKey } = x.en ∧
      y.ct = x.ct ∧ y.st = x.st ∧ y.mx = x.mx ∧ y.sq = x.sq ∧ y.id = x.id ∧ y.wa = x.wa ∧ y.cnt = x.cnt ∧ y.pend = x.pend ∧ y.queue = x.queue ∧ y.cache = x.cache := by
  intro u x y
  have hmx : (x.take (sqNeeds k)).mx = x.mx := Tile.mx_take _ _ rfl
  have hg : (x.take (sqNeeds k)).newKey.1.allowTake ch.toNat x.carryBytes =
      { x.take (sqNeeds k) with en := { x.en with nextKey := x.en.nextKey + 1, allow := upd 0 x.en.allow ch.toNat (· + x.carryBytes) } } := by
    simp only [Tile.newKey, Tile.allowTake, Tile.en_take]
  obtain ⟨fe, hfe⟩ := tile_fire s (sqNeeds k) 1 (fun t => t.newKey.1.allowTake ch.toNat x.carryBytes)
  have hy : y = Tile.setCol _ .sq _ := State.tile_modTile_same ..
  rw [hfe, hg] at hy
  rw [hy, Tile.col_setCol_same]
  refine ⟨(onlyTile_fire ..).trans (onlyTile_modTile ..), rfl, rfl, ?_⟩
  simp only [Tile.ct_setCol, Tile.st_setCol, Tile.mx_setCol, Tile.sq_setCol, Tile.en_setCol, Tile.id_setCol, Tile.wa_setCol, Tile.cnt_setCol, Tile.pend_setCol,
    Tile.cache_setCol, get_upd, if_true, hmx]
  exact ⟨trivial, trivial, Tile.ct_take x _, Tile.st_take x _, trivial, Tile.sq_take x _, Tile.id_take x _, Tile.wa_take x _, Tile.cnt_take x _, Tile.pend_take x _,
    Tile.queue_take x _, Tile.cache_take x _⟩

/-- A column that holds its word keeps what was held for a stamped one (R207). -/
theorem State.keepWord_spec (s : State) (k : Needs) (stamp : Option Lane) :
    (s.keepWord k stamp).carries = s.carries ∧ (stamp = none ∨ s.cur.body = true → s.keepWord k stamp = s) ∧
      (stamp ≠ none → s.cur.body = false → (((s.keepWord k stamp).tile s.cur.tile).col s.cur.col).st = .issueAt (s.tile s.cur.tile).cnt) := by
  unfold State.keepWord
  cases stamp with
  | none => exact ⟨rfl, fun _ => rfl, fun h => absurd rfl h⟩
  | some w =>
    cases s.cur.body with
    | true => exact ⟨rfl, fun _ => rfl, nofun⟩
    | false => exact ⟨rfl, fun h => by simp at h, fun _ _ => by simp⟩

/-! ### `SCRCV` -/

section
variable {s s' : State} {k : MTok} {ch tag : BitVec 8} {rb : BitVec 3}

/-- What `SCRCV` needs beside its operands: an entry of its source and tag, when its channel check passes (R207). -/
def State.scrcvNeeds (s : State) (k : MTok) (ch tag : BitVec 8) : Needs :=
  { sqNeeds k with carry := if (s.chanCheck s.cur.tile ch.toNat ⟨[1], permRecv, [], 0⟩).isSome then none
                            else some (chPlace ((s.tile s.cur.tile).chan ch.toNat), tag) }

/-- What `SCRCV` does to its tile when its channel check passes: the entry leaves the receive buffer, and its rows are due. -/
def Tile.carryTaken (t : Tile) (src : Place) (tag : BitVec 8) (r : Nat) : Tile :=
  let c := takeCarry src tag t.sq.carries
  ({ t with sq := { t.sq with carries := c.1 } } : Tile).rowsOut 4 r c.2

/-- What `SCRCV` does when it issues, by the outcome of its channel check. -/
def State.scrcvDone (s : State) (nd : Needs) (src : Place) (tag : BitVec 8) (r : Nat) : Option Nat → State
  | some sub => s.trapCur tCHANNEL sub
  | none => s.fire nd 1 (fun t => (t.carryTaken src tag r).pushToks nd.outs 4)

theorem exec_scrcv_eq (s : State) (k : MTok) (ch tag : BitVec 8) (rb : BitVec 3) : exec (.scrcv k ch tag rb) s =
    syncIssue s (wellFormed (.scrcv k ch tag rb)) k.tok.dly k.stamp (s.scrcvNeeds k ch tag) (fun u => ok (u.scrcvDone (s.scrcvNeeds k ch tag)
      (chPlace ((s.tile s.cur.tile).chan ch.toNat)) tag (16 * rb.toNat) (s.chanCheck s.cur.tile ch.toNat ⟨[1], permRecv, [], 0⟩))) := by
  rw [exec_scrcv]
  unfold execScrcv State.scrcvNeeds
  dsimp only
  generalize s.chanCheck s.cur.tile ch.toNat ⟨[1], permRecv, [], 0⟩ = check
  cases check <;> rfl

/-- What has been taken is the oldest entry of the source and tag, with its rows due at issue + 4 (R384). -/
theorem State.scrcvDone_takes (s : State) (nd : Needs) (ha : nd.arrays = false) (src : Place) (tag : BitVec 8) (r : Nat) :
    let x := s.tile s.cur.tile
    let c := takeCarry src tag x.sq.carries
    ArrDone s (s.scrcvDone nd src tag r none) nd 4 1 x.mx { x.sq with carries := c.1 } (x.rowsDue 4 r c.2) := by
  intro x c
  have hsq : (x.take nd).sq = x.sq := Tile.sq_take ..
  obtain ⟨hrest, hpend⟩ := Tile.rowsOut_spec { x.take nd with sq := { x.sq with carries := c.1 } } 4 r c.2
  have hg : (x.take nd).carryTaken src tag r = Tile.rowsOut { x.take nd with sq := { x.sq with carries := c.1 } } 4 r c.2 := by
    unfold Tile.carryTaken
    rw [hsq]
  refine fire_arrDone s nd 4 1 (·.carryTaken src tag r) _ _ ha ?_ ?_
  · exact (congrArg (fun t : Tile => { t with pend := (x.take nd).pend }) hg).trans hrest
  · rw [hg, hpend]
    dsimp only [Tile.rowsDue, Tile.due]
    rw [Tile.cnt_take, Tile.pend_take]

end

/-! ### The obligation -/

/-- Settles O32: each branch of the two words by its own equation above, the carry's fields carried from the state of issue to the present one. -/
theorem carriesComplete : Obligations.CarriesComplete := by
  intro s s' k ch tag rb m x src n
  refine ⟨fun hs hw => ?send, fun hs hw => ?receive⟩
  case send =>
    obtain ⟨hfr, hx⟩ := hs.keeps
    refine ⟨fun sub hc => exec_scsnd_denied hs hw hc, exec_scsnd_unreachable hs hw, fun hc hg ha => ?full, fun hc hg ha => ?sends⟩
    case full =>
      obtain ⟨hcarries, hsame, hkept⟩ := s'.keepWord_spec (sqNeeds k) k.stamp
      rw [hfr.cur] at hsame hkept
      exact ⟨_, exec_scsnd_full hs hw hc hg ha, hcarries.trans hfr.carries, hsame, hkept⟩
    case sends =>
      obtain ⟨port, he, hhome, habroad⟩ := exec_scsnd_sends hs hw hc hg ha
      obtain ⟨hu, hkey, htoks, hallow, hen, htile⟩ := s'.carryIssued_spec k ch
      rw [hfr.cur] at hu hkey htoks hallow hen htile
      have hrest : OnlyTile s (s'.carryIssued k ch) m := hfr.trans hu
      have hcarry : s'.carrySent ch tag rb port = ⟨s.place m, src, tag, x.vrows (16 * rb.toNat) n, x.en.nextKey, ch.toNat, s.cur.q.addr, s.boundFor src,
          { s.hop src with port := port }, x.id.part⟩ := by
        have hid : x.id = (s.tile m).id := (congrArg Tile.id hx :)
        unfold State.carrySent
        rw [hfr.cur]
        dsimp only
        rw [hfr.place, hfr.hop, hfr.boundFor hid]
      refine ⟨_, he, ⟨port, ?_, fun hp => hhome (hp.trans hfr.pkg.symm), fun p hp => ?_⟩, hkey, htoks, hallow, hen, ?_, hrest.2, htile⟩
      · rw [hfr.carries, hcarry]
      · have hmem := habroad p hp
        rw [hfr.towPorts] at hmem
        exact List.mem_filter.1 hmem
      · exact congrArg (fun v : State => { v with carries := s.carries, packets := s.packets, free := s.free }) hrest.1
  case receive =>
    obtain ⟨hfr, hx⟩ := SyncStarts.keeps hs
    have hsrc : src = chPlace ((s.tile m).chan ch.toNat) := (congrArg (fun t : Tile => chPlace (t.chan ch.toNat)) hx :)
    rw [hsrc] at hs ⊢
    have he : exec (.scrcv k ch tag rb) s = _ := exec_scrcv_eq ..
    rw [hw, syncIssue_starts (k := s.scrcvNeeds k ch tag) hs] at he
    refine ⟨fun sub hc => ?_, fun hc => ⟨_, he, ?_⟩⟩
    · rw [he, hc]
      rfl
    · have htakes := s'.scrcvDone_takes (s.scrcvNeeds k ch tag) rfl (chPlace ((s.tile m).chan ch.toNat)) tag (16 * rb.toNat)
      rw [hfr.cur] at htakes
      rw [hc]
      exact htakes

end Sys2Proof.Machine
end

section
/-! SUPPORT. What arrives over the links (R54–R64, R183, R207, R339–R342, R394–R401): packets of the network, collectives and the ends of commands. -/
namespace Sys2Proof.Machine

open Sys2Proof

/-! ### Maps -/

@[simp] theorem find_put_same {α : Type} (m : SMap α) (k : Nat) (v : α) : find (put m k v) k = some v := by
  induction m with
  | nil => simp [put, find]
  | cons e r ih =>
    obtain ⟨j, u⟩ := e
    unfold put
    by_cases h1 : j = k
    · simp [h1, find]
    · by_cases h2 : k < j
      · simp [h1, h2, find]
      · simp [h1, h2, find, ih]

/-! ### Changes at the home of a command -/

/-- Nothing of the state but tiles and saved contexts has changed. -/
def OnlyHomes (s t : State) : Prop := { t with tiles := s.tiles, saved := s.saved } = s

namespace OnlyHomes
variable {s t u : State}

theorem refl (s : State) : OnlyHomes s s := rfl

theorem trans (a : OnlyHomes s t) (b : OnlyHomes t u) : OnlyHomes s u := by
  have h : { u with tiles := s.tiles, saved := s.saved } = { { u with tiles := t.tiles, saved := t.saved } with tiles := s.tiles, saved := s.saved } := rfl
  unfold OnlyHomes at a b ⊢
  rw [h, b, a]

theorem foldl {β : Type} (f : State → β → State) (hf : ∀ s x, OnlyHomes s (f s x)) (l : List β) : ∀ s, OnlyHomes s (l.foldl f s) := by
  induction l with
  | nil => exact fun s => .refl s
  | cons x r ih => exact fun s => (hf s x).trans (ih _)

theorem mem (h : OnlyHomes s t) : t.mem = s.mem := (congrArg State.mem h :)
theorem contribs (h : OnlyHomes s t) : t.contribs = s.contribs := (congrArg State.contribs h :)
theorem reds (h : OnlyHomes s t) : t.reds = s.reds := (congrArg State.reds h :)
theorem refused (h : OnlyHomes s t) : t.refused = s.refused := (congrArg State.refused h :)
theorem blocks (h : OnlyHomes s t) : t.blocks = s.blocks := (congrArg State.blocks h :)
theorem part (h : OnlyHomes s t) (p : Nat) : t.part p = s.part p := (congrArg (State.part · p) h :)

end OnlyHomes

theorem onlyHomes_modHome (s : State) (n key : Nat) (f : Tile → Tile) : OnlyHomes s (s.modHome n key f) := by
  unfold State.modHome
  split <;> rfl

theorem State.modHome_here {s : State} {n key : Nat} (h : s.awayHome n key = none) (f : Tile → Tile) : s.modHome n key f = s.modTile n f := by
  unfold State.modHome
  rw [h]

/-- A change at a home reaches a tile only when it is that home. -/
theorem State.tile_modHome (s : State) (n key : Nat) (f : Tile → Tile) (m : Nat) :
    (s.modHome n key f).tile m = s.tile m ∨ m = n ∧ (s.modHome n key f).tile m = f (s.tile m) := by
  unfold State.modHome
  split
  · exact .inl rfl
  · rw [State.tile_modTile]
    split
    · next h => exact .inr ⟨h, by rw [h]⟩
    · exact .inl rfl

theorem State.tile_modHome_other (s : State) {n m : Nat} (key : Nat) (f : Tile → Tile) (h : m ≠ n) : (s.modHome n key f).tile m = s.tile m :=
  (s.tile_modHome n key f m).resolve_right (fun h' => h h'.1)

theorem State.tile_modHome_keeps {γ : Type} (p : Tile → γ) {f : Tile → Tile} (hf : ∀ t, p (f t) = p t) (s : State) (n key m : Nat) :
    p ((s.modHome n key f).tile m) = p (s.tile m) := by
  rcases s.tile_modHome n key f m with h | ⟨-, h⟩ <;> rw [h]
  exact hf _

theorem State.tile_modTile_keeps {γ : Type} (p : Tile → γ) {f : Tile → Tile} (hf : ∀ t, p (f t) = p t) (s : State) (n m : Nat) :
    p ((s.modTile n f).tile m) = p (s.tile m) := by
  rw [State.tile_modTile]
  split
  · next h => rw [hf, h]
  · rfl

theorem Gang.away_congr (g : Gang) {t u : Tile} (h : t.run = u.run) : g.away t = g.away u := by
  unfold Gang.away
  rw [h]

/-- Where a key is at home depends on the gangs, on whether the tile runs, and on the keys of the saved contexts. -/
theorem State.awayHome_congr {s t : State} {n key : Nat} (hg : t.gangs = s.gangs) (hr : (t.tile n).run = (s.tile n).run)
    (hk : ∀ k, (get Tile.reset t.saved k).holdsKey key = (get Tile.reset s.saved k).holdsKey key) : t.awayHome n key = s.awayHome n key := by
  unfold State.awayHome
  simp only [hg, hk, fun g : Gang => g.away_congr hr]

theorem State.awayHome_modHome {f : Tile → Tile} (hr : ∀ t, (f t).run = t.run) {key : Nat} (hk : ∀ t, (f t).holdsKey key = t.holdsKey key)
    (s : State) (m j n : Nat) : (s.modHome m j f).awayHome n key = s.awayHome n key := by
  refine State.awayHome_congr (congrArg State.gangs (onlyHomes_modHome s m j f) :) (State.tile_modHome_keeps (·.run) hr ..) (fun k => ?_)
  unfold State.modHome
  split
  · rw [get_upd]
    split
    · next h => rw [hk, h]
    · rfl
  · rfl

/-! ### Changes of commands -/

@[simp] theorem Tile.cmds_setCmds (t : Tile) (c : Col) (l : List Cmd) : (t.setCmds c l).cmds c = l := by cases c <;> rfl

theorem Tile.setCmds_rest (t : Tile) (c : Col) (l : List Cmd) : ∃ x, t.setCmds c l = { t with en := x } ∧ x.allow = t.en.allow := by
  cases c <;> exact ⟨_, rfl, rfl⟩

/-- A change of commands that keeps their keys leaves every key where it is under way. -/
theorem Tile.holdsKey_modLk (t : Tile) (j : Nat) {f : Cmd → Cmd} (hf : ∀ c, (f c).key = c.key) (key : Nat) :
    (t.modCmd .lk j f).holdsKey key = t.holdsKey key := by
  have hmap : (t.en.lkq.map (fun x => if x.key = j then f x else x)).any (·.key == key) = t.en.lkq.any (·.key == key) := by
    rw [List.any_map]
    congr 1
    funext c
    dsimp only [Function.comp]
    split <;> simp [hf]
  show ((t.en.ceq ++ t.en.lkq.map _ ++ t.en.spq).any _ || _) = _
  unfold Tile.holdsKey
  rw [List.any_append, List.any_append, hmap, List.any_append, List.any_append]
  rfl

/-! ### Reductions that fail (R63, R64) -/

@[simp] theorem Reduction.is_take (r : Reduction) (now src : Nat) (data : List Byte) (kind part group : Nat) (gen : BitVec 16) (dest : Nat) :
    (r.take now src data).is kind part group gen dest = r.is kind part group gen dest := by
  unfold Reduction.take
  extract_lets fits
  split <;> rfl

theorem Reduction.is_iff (r : Reduction) (kind part group : Nat) (gen : BitVec 16) (dest : Nat) :
    r.is kind part group gen dest = true ↔ r.kind = kind ∧ r.part = part ∧ r.group = group ∧ r.gen = gen ∧ r.dest = dest := by
  simp [Reduction.is, and_assoc]

/-- The reduction that a change of it begins with: the one that stands, or a new one at the engine of a port group. -/
def State.redAt (s : State) (kind part group : Nat) (gen : BitVec 16) (dest pg : Nat) : Reduction :=
  (s.reds.find? (·.is kind part group gen dest)).getD ⟨kind, part, group, gen, dest, none, [], none, [], pg⟩

theorem State.redAt_is (s : State) (kind part group : Nat) (gen : BitVec 16) (dest pg : Nat) : (s.redAt kind part group gen dest pg).is kind part group gen dest = true := by
  unfold State.redAt
  cases h : s.reds.find? (·.is kind part group gen dest) with
  | none => simp [Reduction.is]
  | some r => exact (List.find?_some h :)

theorem State.redAt_mem_modRed (s : State) (kind part group : Nat) (gen : BitVec 16) (dest pg : Nat) (f : Reduction → Reduction) :
    f (s.redAt kind part group gen dest pg) ∈ (s.modRed kind part group gen dest pg f).reds := by
  refine List.mem_map.2 ⟨s.redAt kind part group gen dest pg, ?_, if_pos (s.redAt_is ..)⟩
  unfold State.redAt
  cases h : s.reds.find? (·.is kind part group gen dest) with
  | none =>
    have hany : s.reds.any (·.is kind part group gen dest) = false := by simpa using h
    rw [hany]
    exact List.mem_append_right _ (List.mem_singleton.2 rfl)
  | some r =>
    have hany : s.reds.any (·.is kind part group gen dest) = true := List.any_eq_true.2 ⟨r, List.mem_of_find?_eq_some h, (List.find?_some h :)⟩
    rw [hany]
    exact List.mem_of_find?_eq_some h

/-- How the failure of a reduction is noted: how many members its group has, and what the group keeps of it. -/
def State.failedAs (s : State) (cause : Nat) (r : Reduction) : Nat × Failed :=
  let new : Failed := ⟨r.kind, r.gen, r.dest, cause, r.parts.map (·.1), s.stamp, r.regs⟩
  match find (s.part r.part).groups r.group with
  | some g => (g.members.length, Failed.merge g.failed new)
  | none => (0, new)

/-- The failure of a reduction that is no draw as its group keeps it. -/
def State.noteFailed (s : State) (cause : Nat) (r : Reduction) : State :=
  s.modPart r.part (fun x => { x with groups := match find x.groups r.group with
    | some g => put x.groups r.group (g.lose (s.failedAs cause r).2)
    | none => x.groups })

/-- One reduction fails: its group or its draw job notes it, and the commands of its members learn it. -/
def State.failRed (cause : Nat) (s : State) (r : Reduction) : State :=
  (s.failedAs cause r).2.regs.foldl (fun u e => u.modHome e.2.1 e.2.2 (fun t => t.modCmd .lk e.2.2 (fun c =>
      c.fail (s.failedAs cause r).2.cause (s.failedAs cause r).1 (s.failedAs cause r).2.bits)))
    (if r.kind = 3 then s.drawFail r.part r.group r.gen cause else s.noteFailed cause r)

theorem State.failReds_eq (s : State) (cause : Nat) (p : Reduction → Bool) : s.failReds cause p =
    { (s.reds.filter p).foldl (State.failRed cause) s with reds := ((s.reds.filter p).foldl (State.failRed cause) s).reds.filter (fun r => !p r) } := rfl

/-- Nothing of the state but tiles, saved contexts and the partitions' notes has changed. -/
def OnlyNotes (s t : State) : Prop := { t with tiles := s.tiles, saved := s.saved, parts := s.parts } = s

theorem OnlyHomes.onlyNotes {s t : State} (h : OnlyHomes s t) : OnlyNotes s t := (congrArg (fun u : State => { u with parts := s.parts }) h :)

theorem OnlyNotes.trans {s t u : State} (a : OnlyNotes s t) (b : OnlyNotes t u) : OnlyNotes s u := by
  have h : { u with tiles := s.tiles, saved := s.saved, parts := s.parts } =
    { { u with tiles := t.tiles, saved := t.saved, parts := t.parts } with tiles := s.tiles, saved := s.saved, parts := s.parts } := rfl
  unfold OnlyNotes at a b ⊢
  rw [h, b, a]

theorem OnlyNotes.foldl {β : Type} {f : State → β → State} (l : List β) : (∀ x ∈ l, ∀ s, OnlyNotes s (f s x)) → ∀ s, OnlyNotes s (l.foldl f s) := by
  induction l with
  | nil => exact fun _ _ => rfl
  | cons x r ih => exact fun hf s => (hf x List.mem_cons_self s).trans (ih (fun y hy => hf y (List.mem_cons_of_mem x hy)) _)

section
variable {cause : Nat} {r : Reduction} (hk : r.kind ≠ 3)
include hk

theorem onlyHomes_failRed (s : State) : OnlyHomes (s.noteFailed cause r) (s.failRed cause r) := by
  unfold State.failRed
  rw [if_neg hk]
  exact OnlyHomes.foldl _ (fun _ _ => onlyHomes_modHome ..) _ _

theorem onlyNotes_failRed (s : State) : OnlyNotes s (s.failRed cause r) :=
  OnlyNotes.trans (t := s.noteFailed cause r) rfl (onlyHomes_failRed hk s).onlyNotes

end

/-- Reductions that are no draws fail: they are gone, and nothing else of the state but tiles, saved contexts and the partitions' notes has changed. -/
theorem State.failReds_spec (s : State) (cause : Nat) {p : Reduction → Bool} (hk : ∀ r, p r = true → r.kind ≠ 3) :
    let t := s.failReds cause p
    t.reds = s.reds.filter (fun r => !p r) ∧ { t with tiles := s.tiles, saved := s.saved, parts := s.parts, reds := s.reds } = s := by
  intro t
  have h : OnlyNotes s ((s.reds.filter p).foldl (State.failRed cause) s) :=
    OnlyNotes.foldl _ (fun r hr u => onlyNotes_failRed (hk r (List.mem_filter.1 hr).2) u) s
  have hreds : ((s.reds.filter p).foldl (State.failRed cause) s).reds = s.reds := (congrArg State.reds h :)
  have ht : t = _ := s.failReds_eq cause p
  rw [ht, hreds]
  exact ⟨rfl, (congrArg (fun u : State => { u with reds := s.reds }) h :)⟩

/-- A group knows of a failed collective, with a cause that is no higher than a given one. -/
def State.knowsFailed (s : State) (part group kind : Nat) (gen : BitVec 16) (dest cause : Nat) : Prop :=
  ∃ g, find (s.part part).groups group = some g ∧ ∃ f ∈ g.failed, f.kind = kind ∧ f.gen = gen ∧ f.dest = dest ∧ f.cause ≤ cause

theorem Failed.merge_spec (l : List Failed) (f : Failed) :
    (Failed.merge l f).kind = f.kind ∧ (Failed.merge l f).gen = f.gen ∧ (Failed.merge l f).dest = f.dest ∧ (Failed.merge l f).cause ≤ f.cause := by
  unfold Failed.merge
  split
  · next x h =>
    have hx := List.find?_some h
    simp only [Bool.and_eq_true, beq_iff_eq] at hx
    exact ⟨hx.1.1.1, hx.1.1.2, hx.1.2, Nat.min_le_right ..⟩
  · exact ⟨rfl, rfl, rfl, Nat.le_refl _⟩

theorem State.knowsFailed_failRed {cause : Nat} {r : Reduction} (hk : r.kind ≠ 3) (s : State) {g : Group} (hg : find (s.part r.part).groups r.group = some g) :
    (s.failRed cause r).knowsFailed r.part r.group r.kind r.gen r.dest cause := by
  have hf : (s.failedAs cause r).2 = Failed.merge g.failed ⟨r.kind, r.gen, r.dest, cause, r.parts.map (·.1), s.stamp, r.regs⟩ := by
    unfold State.failedAs
    rw [hg]
  refine ⟨g.lose (s.failedAs cause r).2, ?_, (s.failedAs cause r).2, List.mem_append_right _ (List.mem_singleton.2 rfl), ?_⟩
  · rw [(onlyHomes_failRed hk s).part, State.noteFailed, State.part_modPart_same]
    dsimp only
    rw [hg]
    exact find_put_same ..
  · rw [hf]
    exact Failed.merge_spec ..

/-- When the reductions of one collective fail, its group knows it (R63). -/
theorem State.knowsFailed_failReds (s : State) (cause : Nat) {kind part group : Nat} {gen : BitVec 16} {dest : Nat} (hk : kind ≠ 3) {g : Group}
    (hg : find (s.part part).groups group = some g) {r : Reduction} (hr : r ∈ s.reds) (his : r.is kind part group gen dest = true) :
    (s.failReds cause (·.is kind part group gen dest)).knowsFailed part group kind gen dest cause := by
  have step : ∀ (u : State) (r : Reduction), r.is kind part group gen dest = true → (∃ g, find (u.part part).groups group = some g) →
      (u.failRed cause r).knowsFailed part group kind gen dest cause := by
    intro u r his ⟨g, hg⟩
    obtain ⟨rfl, rfl, rfl, rfl, rfl⟩ := (r.is_iff ..).1 his
    exact u.knowsFailed_failRed hk hg
  have kept : ∀ (l : List Reduction), (∀ r ∈ l, r.is kind part group gen dest = true) → ∀ u : State, u.knowsFailed part group kind gen dest cause →
      (l.foldl (State.failRed cause) u).knowsFailed part group kind gen dest cause := by
    intro l
    induction l with
    | nil => exact fun _ u hu => hu
    | cons r l ih =>
      exact fun hl u ⟨g, hg, _⟩ => ih (fun x hx => hl x (List.mem_cons_of_mem r hx)) _ (step u r (hl r List.mem_cons_self) ⟨g, hg⟩)
  rw [State.failReds_eq]
  have hmem : r ∈ s.reds.filter (·.is kind part group gen dest) := List.mem_filter.2 ⟨hr, his⟩
  have hall : ∀ x ∈ s.reds.filter (·.is kind part group gen dest), x.is kind part group gen dest = true := fun x hx => (List.mem_filter.1 hx).2
  revert hmem hall
  cases s.reds.filter (·.is kind part group gen dest) with
  | nil => exact nofun
  | cons x l => exact fun _ hall => kept l (fun y hy => hall y (List.mem_cons_of_mem x hy)) _ (step s x (hall x List.mem_cons_self) ⟨g, hg⟩)

/-! ### Contributions (R59, R63, R246, R394) -/

/-- A contribution leaves the network. -/
def State.dropContrib (s : State) (c : Contribution) : State := { s with contribs := s.contribs.filter (· != c) }
/-- Is a rank of a contribution's collective a member in another package? -/
def State.rankAbroad (s : State) (c : Contribution) (k : Nat) : Bool := (memberPlace ((s.redMembers c.part c.group).getD k 0)).pkg != s.pkg
/-- Does a fenced rank of another package fail the reduction of a contribution? -/
def State.contribLost (s : State) (c : Contribution) (fenced : Bool) : Bool := c.kind != 3 && fenced && (s.rankAbroad c c.src || (c.kind != 0 && s.rankAbroad c c.dest))
/-- Is a contribution for a fenced member? -/
def State.contribFenced (s : State) (c : Contribution) (fenced : Bool) : Bool :=
  c.kind = 0 && (s.memberFenced ((s.redMembers c.part c.group).getD c.dest 0) || (fenced && s.rankAbroad c c.dest))

/-- The next rank that the reduction of a contribution needs, and the port group of its engine (R59). -/
def State.rankNeeded (s : State) (c : Contribution) : Nat :=
  match s.reds.find? (·.is c.kind c.part c.group c.gen c.dest) with
  | some r => r.ready (s.redMembers c.part c.group).length
  | none => 0
def State.engineOf (s : State) (c : Contribution) : Nat :=
  match s.reds.find? (·.is c.kind c.part c.group c.gen c.dest) with
  | some r => r.pg
  | none => if c.kind = 0 then Config.pick s.free % 4 else 0
/-- Does the engine refuse a contribution that counts: its carve-out is full, and the rank is not the next? -/
def State.contribRefused (s : State) (c : Contribution) : Bool :=
  !s.inSwitch c.kind c.part c.group && c.src != s.rankNeeded c &&
    { s.dropContrib c with free := s.free + 1 }.engineFull c.part c.group c.dest (s.engineOf c) c.data.length

theorem State.contribLost_iff (s : State) (c : Contribution) (fenced : Bool) : s.contribLost c fenced = true ↔
    c.kind ≠ 3 ∧ fenced = true ∧ ((memberPlace ((s.redMembers c.part c.group).getD c.src 0)).pkg ≠ s.pkg ∨
      c.kind ≠ 0 ∧ (memberPlace ((s.redMembers c.part c.group).getD c.dest 0)).pkg ≠ s.pkg) := by
  simp [State.contribLost, State.rankAbroad, and_assoc]

theorem State.contribFenced_iff (s : State) (c : Contribution) (fenced : Bool) : s.contribFenced c fenced = true ↔
    c.kind = 0 ∧ (s.memberFenced ((s.redMembers c.part c.group).getD c.dest 0) = true ∨
      fenced = true ∧ (memberPlace ((s.redMembers c.part c.group).getD c.dest 0)).pkg ≠ s.pkg) := by
  simp [State.contribFenced, State.rankAbroad]

theorem onlyHomes_ackContrib (s : State) (c : Contribution) : OnlyHomes s (s.ackContrib c) := by
  unfold State.ackContrib
  split
  · exact onlyHomes_modHome ..
  · exact .refl s

theorem onlyHomes_lostContrib (s s0 : State) (cause : Nat) {c : Contribution} (hk : c.kind ≠ 3) : OnlyHomes s (s.lostContrib s0 cause c) := by
  unfold State.lostContrib
  split
  · exact onlyHomes_modHome ..
  · rw [if_neg hk]
    exact .refl s

section
variable {s : State} {c : Contribution} {fenced : Bool}

theorem exec_contributionArrival_of (hl : s.arg.load = .contrib c) : exec .contributionArrival s = ok (s.contribArrives c s.arg.flag) := by
  rw [exec_contributionArrival, execContributionArrival, hl]

theorem State.contribArrives_shut {p : Nat} (h : s.shutOn c.hop [2] = some p) : s.contribArrives c fenced = s.portDown p := by
  unfold State.contribArrives
  rw [h]

variable (hs : s.shutOn c.hop [2] = none)
include hs

theorem State.contribArrives_behind (hb : s.contribBehind c = true) : s.contribArrives c fenced = s := by
  unfold State.contribArrives
  rw [hs]
  exact if_pos hb

variable (hb : s.contribBehind c = false)
include hb

theorem State.contribArrives_lost (h : s.contribLost c fenced = true) : s.contribArrives c fenced =
    ((s.dropContrib c).modRed c.kind c.part c.group c.gen c.dest 0 id).failReds 2 (·.is c.kind c.part c.group c.gen c.dest) := by
  unfold State.contribArrives
  rw [hs]
  exact (if_neg (ne_true_of_eq_false hb)).trans (if_pos h)

variable (hl : s.contribLost c fenced = false)
include hl

theorem State.contribArrives_fenced (h : s.contribFenced c fenced = true) : s.contribArrives c fenced = (s.dropContrib c).lostContrib s 2 c := by
  unfold State.contribArrives
  rw [hs]
  exact (if_neg (ne_true_of_eq_false hb)).trans ((if_neg (ne_true_of_eq_false hl)).trans (if_pos h))

variable (hf : s.contribFenced c fenced = false)
include hf

theorem State.contribArrives_stale (h : s.stale c = true) : s.contribArrives c fenced = (s.dropContrib c).ackContrib c := by
  unfold State.contribArrives
  rw [hs]
  exact (if_neg (ne_true_of_eq_false hb)).trans ((if_neg (ne_true_of_eq_false hl)).trans ((if_neg (ne_true_of_eq_false hf)).trans (if_pos h)))

/-- A contribution that counts is refused, or enters its reduction and is acknowledged. -/
theorem State.contribArrives_counts (h : s.stale c = false) : s.contribArrives c fenced =
    if s.contribRefused c then { s.dropContrib c with refused := s.refused ++ [(s.stamp + 700, c)], free := s.free + 2 }
    else ({ s.dropContrib c with free := s.free + 1 }.modRed c.kind c.part c.group c.gen c.dest (s.engineOf c) (·.take s.stamp c.src c.data)).ackContrib c := by
  unfold State.contribArrives
  rw [hs]
  exact (if_neg (ne_true_of_eq_false hb)).trans ((if_neg (ne_true_of_eq_false hl)).trans ((if_neg (ne_true_of_eq_false hf)).trans (if_neg (ne_true_of_eq_false h))))

end

/-- Only a contribution of another rank than the next is refused (R59). -/
theorem State.contribRefused_rank {s : State} {c : Contribution} (h : s.contribRefused c = true) {y : Reduction}
    (hy : s.reds.find? (·.is c.kind c.part c.group c.gen c.dest) = some y) : c.src ≠ y.ready (s.redMembers c.part c.group).length := by
  unfold State.contribRefused at h
  rw [Bool.and_eq_true, Bool.and_eq_true, bne_iff_ne, State.rankNeeded, hy] at h
  exact h.1.2

/-! ### Collectives that commit (R59, R61, R185) -/

/-- The commands of registered members take a change, each at its home. -/
def State.tellRegs (F : Cmd → Cmd) (l : SMap (Nat × Nat)) (s : State) : State :=
  l.foldl (fun s e => s.modHome e.2.1 e.2.2 (fun t => t.modCmd .lk e.2.2 F)) s

theorem onlyHomes_tellRegs (F : Cmd → Cmd) (l : SMap (Nat × Nat)) (s : State) : OnlyHomes s (s.tellRegs F l) :=
  OnlyHomes.foldl _ (fun _ _ => onlyHomes_modHome ..) _ _

theorem State.tile_tellRegs_other (F : Cmd → Cmd) {n : Nat} (l : SMap (Nat × Nat)) : (∀ e ∈ l, n ≠ e.2.1) → ∀ s : State, (s.tellRegs F l).tile n = s.tile n := by
  induction l with
  | nil => exact fun _ _ => rfl
  | cons e l ih =>
    exact fun hl s => (ih (fun x hx => hl x (List.mem_cons_of_mem e hx)) _).trans (State.tile_modHome_other s _ _ (hl e List.mem_cons_self))

/-- The commands of LK with a key, in a tile, have a property. -/
def State.lkAll (s : State) (n key : Nat) (Q : Cmd → Prop) : Prop := ∀ c ∈ (s.tile n).en.lkq, c.key = key → Q c

theorem lkAll_modTile {F : Cmd → Cmd} {Q : Cmd → Prop} (s : State) (n : Nat) {key : Nat} (hQ : ∀ c, c.key = key → Q (F c)) :
    (s.modTile n (fun t => t.modCmd .lk key F)).lkAll n key Q := by
  intro c hc hkey
  rw [State.tile_modTile_same] at hc
  obtain ⟨d, -, rfl⟩ := List.mem_map.1 hc
  split at hkey
  · next h => rw [if_pos h]; exact hQ d h
  · next h => exact absurd hkey h

section
variable {F : Cmd → Cmd} {Q : Cmd → Prop} (hQ : ∀ c, Q (F c))
include hQ

theorem State.lkAll.modHome {s : State} {n key : Nat} (h : s.lkAll n key Q) (m j : Nat) : (s.modHome m j (fun t => t.modCmd .lk j F)).lkAll n key Q := by
  intro c hc hkey
  rcases s.tile_modHome m j (fun t => t.modCmd .lk j F) n with he | ⟨-, he⟩ <;> rw [he] at hc
  · exact h c hc hkey
  · obtain ⟨d, hd, rfl⟩ := List.mem_map.1 hc
    split
    · exact hQ d
    · next hj => rw [if_neg hj] at hkey; exact h d hd hkey

theorem State.lkAll.tellRegs {n key : Nat} (l : SMap (Nat × Nat)) : ∀ {s : State}, s.lkAll n key Q → (s.tellRegs F l).lkAll n key Q := by
  induction l with
  | nil => exact fun h => h
  | cons e l ih => exact fun h => ih (h.modHome hQ e.2.1 e.2.2)

/-- A member whose command is at home in its tile learns the change. -/
theorem State.lkAll_tellRegs (hF : ∀ c, (F c).key = c.key) {e : Nat × Nat × Nat} (l : SMap (Nat × Nat)) :
    e ∈ l → ∀ s : State, s.awayHome e.2.1 e.2.2 = none → (s.tellRegs F l).lkAll e.2.1 e.2.2 Q := by
  induction l with
  | nil => exact nofun
  | cons x l ih =>
    intro he s hs
    rcases List.mem_cons.1 he with rfl | he
    · refine State.lkAll.tellRegs hQ l ?_
      dsimp only
      rw [State.modHome_here hs]
      exact lkAll_modTile s _ (fun c _ => hQ c)
    · have hkeys : ∀ t : Tile, (t.modCmd .lk x.2.2 F).holdsKey e.2.2 = t.holdsKey e.2.2 := fun t => t.holdsKey_modLk _ hF _
      exact ih he _ ((State.awayHome_modHome (f := fun t => t.modCmd .lk x.2.2 F) (fun _ => rfl) hkeys s x.2.1 x.2.2 e.2.1).trans hs)

end

/-- What a member's command holds once a `PRED` of `g` ranks has committed: the pairs reduced, and a status of every rank done. -/
def Cmd.pairsDone (r : Reduction) (g : Nat) (c : Cmd) : Cmd :=
  { c with buf := reducePairs (r.parts.map (·.2)), status := doneRec g r.gen.toNat, left := 0 }

/-- The registered members that bridges still reach. -/
def State.reachedRegs (s : State) (r : Reduction) : SMap (Nat × Nat) :=
  r.regs.filter (fun e => s.linked (dieOf e.2.1) (memberDie ((s.redMembers r.part r.group).getD r.dest 0)))

/-- A reduction of every rank of a `PRED` gives its result to the members that can still be reached. -/
theorem State.commitRed_pred {s : State} {r : Reduction} (hk : r.kind = 1) (hg : 0 < (s.redMembers r.part r.group).length)
    (hall : (s.redMembers r.part r.group).length ≤ r.parts.length) : s.commitRed r =
      ({ s with reds := s.reds.filter (· != r) } : State).tellRegs (Cmd.pairsDone r (s.redMembers r.part r.group).length) (s.reachedRegs r) := by
  have hready : ¬(((s.redMembers r.part r.group).length = 0 || decide (r.parts.length < (s.redMembers r.part r.group).length)) = true) := by
    rw [Bool.or_eq_true, decide_eq_true_eq, decide_eq_true_eq]
    omega
  unfold State.commitRed
  exact (if_neg hready).trans (by rw [hk]; rfl)

theorem State.commitRed_early {s : State} {r : Reduction} (h : r.parts.length < (s.redMembers r.part r.group).length) : s.commitRed r = s := by
  unfold State.commitRed
  exact if_pos (by simp [h])

/-! ### Collectives that fail (R63, R65, R396) -/

section
variable {s : State} {r : Reduction}

/-- A reduction that fails is gone, whatever its kind. -/
theorem State.not_mem_failReds (s : State) (cause : Nat) (r : Reduction) : r ∉ (s.failReds cause (· == r)).reds := by
  rw [State.failReds_eq]
  simp [List.mem_filter]

theorem State.failReds_one (s : State) (cause : Nat) (hk : r.kind ≠ 3) :
    (s.failReds cause (· == r)).reds = s.reds.filter (· != r) ∧ (s.failReds cause (· == r)).mem = s.mem := by
  obtain ⟨hreds, hrest⟩ := s.failReds_spec cause (p := (· == r)) (fun x hx => by rw [beq_iff_eq.1 hx]; exact hk)
  exact ⟨hreds, (congrArg State.mem hrest :)⟩

variable (hr : s.reds[s.arg.idx]? = some r)
include hr

theorem exec_collectiveCommit_of : exec .collectiveCommit s = ok (s.commitRed r) := by
  rw [exec_collectiveCommit, execCollectiveCommit, hr]

theorem exec_collectiveTimeout_red {t : Nat} (hfl : s.arg.flag = false) (hf : r.first = some t) (ht : t + 700 * wfld s.ctmo 0 24 ≤ s.stamp)
    (hw : r.parts.length < (s.redMembers r.part r.group).length) : exec .collectiveTimeout s = ok (s.failReds 1 (· == r)) := by
  rw [exec_collectiveTimeout, execCollectiveTimeout, hfl, if_neg Bool.false_ne_true, hr]
  dsimp only
  rw [hf]
  exact if_pos (by simp [ht, hw])

theorem exec_switchAbandon_of {g : Group} (hg : find (s.part r.part).groups r.group = some g) (hk : r.kind = 1) (hsw : g.switch = true) :
    exec .switchAbandon s = ok (s.failReds 4 (· == r)) := by
  rw [exec_switchAbandon, execSwitchAbandon, hr]
  dsimp only
  rw [hg]
  exact if_pos (by simp [hk, hsw])

end

section
variable {s : State} (hfl : s.arg.flag = true)
include hfl

theorem exec_collectiveTimeout_early (h : s.transferLate s.arg.tile s.arg.num = false) : exec .collectiveTimeout s = ok s := by
  rw [exec_collectiveTimeout, execCollectiveTimeout, hfl, if_pos rfl]
  exact if_neg (ne_true_of_eq_false h)

/-- A `COLL` with a transfer that has not been acknowledged in time fails where it is at home (R396). -/
theorem exec_collectiveTimeout_coll {c : Cmd} {o : LkOp} {g : Group} (h : s.transferLate s.arg.tile s.arg.num = true) (ha : s.awayHome s.arg.tile s.arg.num = none)
    (hc : (s.tile s.arg.tile).en.lkq.find? (·.key == s.arg.num) = some c) (hi : c.instr = .coll o) (hst : c.status = [])
    (hg : s.group (s.tile s.arg.tile).id.part ((s.tile s.arg.tile).chan o.ch.toNat) = some g) :
    exec .collectiveTimeout s = ok (s.setTile s.arg.tile
      ((s.tile s.arg.tile).modCmd .lk s.arg.num (fun _ => c.fail 1 g.members.length (collAcked s s.arg.tile g c)))) := by
  have hkey : c.key = s.arg.num := by simpa using List.find?_some hc
  rw [exec_collectiveTimeout, execCollectiveTimeout, hfl, if_pos rfl]
  refine (if_pos h).trans (congrArg ok ?_)
  rw [State.modHome_here ha, State.modTile, hc]
  dsimp only
  rw [hi]
  dsimp only
  rw [State.failColl, hg]
  dsimp only
  rw [hst, hkey]
  rfl

end

/-! ### Blocks (R183, R247, R400) -/

section
variable {s : State} {d : Delivery}

theorem exec_blockArrival (hl : s.arg.load = .delivery d) (hh : s.blockHere d = true) :
    exec (if d.mcast then .multicastLineArrival else .putArrival) s = ok (s.blockLands d s.arg.flag) := by
  cases hm : d.mcast with
  | true =>
    rw [if_pos rfl, exec_multicastLineArrival, execMulticastLineArrival, hl]
    exact congrArg ok (if_pos (by rw [hm, hh]; rfl))
  | false =>
    rw [if_neg Bool.false_ne_true, exec_putArrival, execPutArrival, hl]
    exact congrArg ok (if_pos (by rw [hm, hh]; rfl))

/-- A block that would change nothing changes nothing, by whichever event it comes. -/
theorem exec_blockArrival_same (hl : s.arg.load = .delivery d) (h : s.blockLands d s.arg.flag = s) :
    exec .putArrival s = ok s ∧ exec .multicastLineArrival s = ok s := by
  rw [exec_putArrival, exec_multicastLineArrival, execPutArrival, execMulticastLineArrival, hl]
  dsimp only
  rw [h, ite_self, ite_self]
  exact ⟨rfl, rfl⟩

theorem State.blockLands_shut {p : Nat} {fenced : Bool} (h : s.shutOn d.hop [0, 1] = some p) : s.blockLands d fenced = s.portDown p := by
  unfold State.blockLands
  rw [h]

variable {fenced : Bool} (hs : s.shutOn d.hop [0, 1] = none)
include hs

theorem State.blockLands_behind (hb : s.blockBehind d = true) : s.blockLands d fenced = s := by
  unfold State.blockLands
  rw [hs]
  exact if_pos hb

variable (hp : d.dst.pkg = s.pkg) (hf : (s.tile d.dst.tile).isFenced = false) (ho : s.ownsTile d.part d.dst.tile = true)
include hp hf ho

theorem State.blockLands_held (hh : s.heldBack d.src d.dst.tile d.bound = true) : s.blockLands d fenced = s := by
  cases hb : s.blockBehind d with
  | true => exact State.blockLands_behind hs hb
  | false =>
    unfold State.blockLands
    rw [hs]
    exact (if_neg (ne_true_of_eq_false hb)).trans ((if_neg (by simp [hp])).trans ((if_neg (by simp [hf, ho])).trans (if_pos hh)))

/-- The sender's command learns that its block has landed. -/
def State.ackBlock (s : State) (d : Delivery) : State :=
  if d.src.pkg = s.pkg then s.modHome d.src.tile d.key (fun t => t.modAny d.key Cmd.ack) else s

/-- The bytes of a block are stored, and its semaphore rises by their count. -/
def Tile.blockStored (t : Tile) (d : Delivery) : Tile :=
  match d.sem with
  | some sm => (t.engStore d.addr d.data).raise sm d.data.length true
  | none => t.engStore d.addr d.data

theorem State.blockLands_stores (hb : s.blockBehind d = false) (hh : s.heldBack d.src d.dst.tile d.bound = false) : s.blockLands d fenced =
    (({ s with blocks := s.blocks.filter (· != d) } : State).modTile d.dst.tile (·.blockStored d)).ackBlock d := by
  unfold State.blockLands
  rw [hs]
  exact (if_neg (ne_true_of_eq_false hb)).trans ((if_neg (by simp [hp])).trans ((if_neg (by simp [hf, ho])).trans (if_neg (ne_true_of_eq_false hh))))

end

theorem onlyHomes_ackBlock (s : State) (d : Delivery) : OnlyHomes s (s.ackBlock d) := by
  unfold State.ackBlock
  split
  · exact onlyHomes_modHome ..
  · exact .refl s

/-- An acknowledgement reaches the engines of its sender only. -/
theorem State.tile_ackBlock {γ : Type} (p : Tile → γ) (hp : ∀ t x, p { t with en := x } = p t) (s : State) (d : Delivery) (n : Nat) :
    p ((s.ackBlock d).tile n) = p (s.tile n) := by
  unfold State.ackBlock
  split
  · exact State.tile_modHome_keeps p (fun t => hp t _) ..
  · rfl

theorem Tile.spad_blockStored (t : Tile) (d : Delivery) : (t.blockStored d).st.spad = t.st.spad.store d.addr d.data := by
  unfold Tile.blockStored
  split <;> rfl

theorem Tile.raises_blockStored (t : Tile) {d : Delivery} {sm : Nat} (h : d.sem = some sm) :
    (t.blockStored d).qs.raises = t.qs.raises ++ [(sm, BitVec.ofNat 32 d.data.length)] ∧ (t.blockStored d).ct.latch = true := by
  unfold Tile.blockStored
  rw [h]
  exact ⟨rfl, Bool.or_true _⟩

/-! ### Messages (R340–R342, R400) -/

section
variable {s : State} {m : Msg}

theorem exec_messageArrival_of (hl : s.arg.load = .msg m) : exec .messageArrival s = ok (s.messageArrives m s.arg.flag) := by
  rw [exec_messageArrival, execMessageArrival, hl]

theorem State.messageArrives_shut {p : Nat} {fenced : Bool} (h : s.shutOn m.hop [0, 1] = some p) : s.messageArrives m fenced = s.portDown p := by
  unfold State.messageArrives
  rw [h]

variable {fenced : Bool} (hs : s.shutOn m.hop [0, 1] = none) (hp : m.dst.pkg = s.pkg) (hf : (s.tile m.dst.tile).isFenced = false)
  (ho : s.ownsTile m.part m.dst.tile = true)
include hs hp hf ho

theorem State.messageArrives_held (hh : s.heldBack m.src m.dst.tile m.bound = true) : s.messageArrives m fenced = s := by
  unfold State.messageArrives
  rw [hs]
  exact (congrArg (ite _ s) ((if_neg (by simp [hp])).trans ((if_neg (by simp [hf, ho])).trans (if_pos hh)))).trans (ite_self s)

variable (hfirst : s.msgs.find? (fun y => y.src == m.src && y.dst == m.dst) = some m) (hh : s.heldBack m.src m.dst.tile m.bound = false)
  (hb : s.behind m.src m.dst m.hop none = false)
include hfirst hh hb

/-- A message that no receive accepts enters the overflow queue; one that finds it full raises OVERFLOW, once. -/
theorem State.messageArrives_unmatched (hq : (s.tile m.dst.tile).en.posted.find? (·.accepts m) = none) : s.messageArrives m fenced =
    if 16 ≤ (s.tile m.dst.tile).en.overflow.length then
      if m.told || !(s.tile m.dst.tile).run then s
      else { s with msgs := s.msgs.map (fun z => if z = m then { z with told := true } else z) }.modTile m.dst.tile
        (fun t => t.request (trapReq tOVERFLOW (colCode .ce) (t.pc .ce) 0))
    else { s with msgs := s.msgs.filter (· != m) }.modTile m.dst.tile
      (fun t => { t with en := { t.en with overflow := t.en.overflow ++ [m] }, ct := { t.ct with latch := true } }) := by
  unfold State.messageArrives
  rw [hs, hfirst]
  dsimp only
  rw [if_neg (by simp [hb]), if_neg (by simp [hp]), if_neg (by simp [hf, ho]), if_neg (ne_true_of_eq_false hh), hq]

/-- The first receive that accepts a message takes it; one whose delivery faults stays in the network. -/
theorem State.messageArrives_matched {q : Posted} {t : State} {va : Nat} {w : Ans Unit} (hq : (s.tile m.dst.tile).en.posted.find? (·.accepts m) = some q)
    (hd : { s with msgs := s.msgs.filter (· != m) }.deliver m.dst.tile q m = (t, va, w)) :
    (w = .ok () → s.messageArrives m fenced = t.modTile m.dst.tile (fun x => x.modEn (fun e => { e with posted := e.posted.filter (· != q) }))) ∧
    (w = .wait → s.messageArrives m fenced = s) ∧
    ∀ f, w = .fault f → ∃ r : Tile → TrapReq, s.messageArrives m fenced = { t with msgs := s.msgs }.modTile m.dst.tile (fun x => x.request (r x)) := by
  refine ⟨?taken, ?waits, fun f => ?faults⟩
  all_goals
    rintro rfl
    unfold State.messageArrives
    rw [hs, hfirst]
    dsimp only
    rw [if_neg (by simp [hb]), if_neg (by simp [hp]), if_neg (by simp [hf, ho]), if_neg (ne_true_of_eq_false hh), hq]
    dsimp only
    rw [hd]
  exact ⟨_, rfl⟩

end

/-! ### Carries (R57, R207) -/

/-- A carry enters the receive buffer. -/
def Tile.carryEnters (t : Tile) (c : Carry) : Tile := t.modSq (fun q => { q with carries := q.carries ++ [c] })

/-- The acknowledgement of a carry at its sender: SQ goes on, with its tokens pushed and the allowance back. -/
def Tile.carryAcked (t : Tile) (c : Carry) : Tile :=
  let x := t.col .sq
  if x.ackKey = some c.key then ((t.setCol .sq { x with ackKey := none, ackToks := [] }).pushToks x.ackToks 0).allowGive c.chan (512 * c.rows.length) else t

theorem State.ackCarry_eq (s : State) {c : Carry} (h : c.src.pkg = s.pkg) : s.ackCarry c = s.modHome c.src.tile c.key (·.carryAcked c) := by
  unfold State.ackCarry
  exact if_neg (by simp [h])

@[simp] theorem Tile.sq_carryAcked (t : Tile) (c : Carry) : (t.carryAcked c).sq = t.sq := by
  unfold Tile.carryAcked
  extract_lets x
  split
  · exact Tile.sq_pushToks ..
  · rfl

theorem Tile.ackKey_carryAcked (t : Tile) {c : Carry} (h : (t.col .sq).ackKey = some c.key) : ((t.carryAcked c).col .sq).ackKey = none := by
  unfold Tile.carryAcked
  extract_lets x
  rw [if_pos h]
  show (get ColSt.init (Tile.pushToks _ _ 0).fe.cols (colCode .sq)).ackKey = none
  rw [Tile.fe_pushToks]
  exact congrArg ColSt.ackKey (Tile.col_setCol_same t .sq _)

section
variable {s : State} {c : Carry}

theorem exec_towpathArrival_of (hl : s.arg.load = .carry c) : exec .towpathArrival s = ok (s.carryArrives c s.arg.flag) := by
  rw [exec_towpathArrival, execTowpathArrival, hl]

theorem State.carryArrives_shut {p : Nat} {fenced : Bool} (h : s.shutOn c.hop [3] = some p) : s.carryArrives c fenced = s.portDown p := by
  unfold State.carryArrives
  rw [h]

/-- A carry that can be delivered, with room in the receive buffer, enters it and is acknowledged. -/
theorem State.carryArrives_enters {fenced : Bool} (hfirst : s.carries.find? (fun y => y.src == c.src && y.dst == c.dst) = some c) (hs : s.shutOn c.hop [3] = none)
    (hdst : c.dst.pkg = s.pkg) (hr : s.reachable c.src.tile c.dst = true) (ho : s.ownsTile c.part c.dst.tile = true)
    (hroom : (s.tile c.dst.tile).sq.carries.length < 8) (hh : s.heldBack c.src c.dst.tile c.bound = false) : s.carryArrives c fenced =
      (({ s with carries := s.carries.filter (· != c) } : State).modTile c.dst.tile (·.carryEnters c)).ackCarry c := by
  have hf : (s.tile c.dst.tile).isFenced = false := by
    unfold State.reachable at hr
    simpa [hdst] using (Bool.and_eq_true_iff.1 hr).2
  have hlen : ¬8 ≤ (s.tile c.dst.tile).sq.carries.length := by omega
  unfold State.carryArrives
  rw [hs, hfirst]
  dsimp only
  rw [if_neg (by simp), if_neg (by simp [hdst, hr, ho]), if_neg (by simp [hdst]), if_neg (by simp [hf, ho]), if_neg (by simp [hh, hlen])]
  rfl

end

/-! ### Matched sends (R401) -/

section
variable {s : State}

/-- What another package sends lands in the receive that names its source. -/
theorem exec_sendMatch_fromAbroad {r : Cmd} {m : Msg} (hfl : s.arg.flag = false) (hp : s.arg.idx / 512 ≠ s.pkg)
    (hr : (s.tile s.arg.tile).en.lkq.find? (fun c => isRecvCmd c && c.started && !c.performed && decide (0 < c.left) &&
      cmdPeer (s.tile s.arg.tile) c == ⟨s.arg.idx / 512, s.arg.idx % 512⟩) = some r) (hl : s.arg.load = .msg m) :
    ∃ status, exec .sendMatch s = ok (s.modTile s.arg.tile (fun t => t.modCmd .lk r.key (fun c =>
      { c with buf := m.data.take (Nat.min m.data.length (r.opnd 1)), status := status, left := 0, peer := none }))) := by
  rw [exec_sendMatch, execSendMatch, hfl]
  rw [if_neg Bool.false_ne_true, State.sendMatch]
  dsimp only
  rw [hr]
  dsimp only
  rw [if_pos (bne_iff_ne.2 hp), hl]
  exact ⟨_, rfl⟩

/-- The payload of a send to another package is read, and the send is matched. -/
theorem exec_sendMatch_toAbroad {c : Cmd} {b : List Byte} {u : State} {va : Nat} (hfl : s.arg.flag = true) (hp : s.arg.idx / 512 ≠ s.pkg)
    (hc : (s.tile s.arg.tile).en.lkq.find? (fun c => isSendCmd c && c.started && !c.performed && decide (0 < c.left) && c.peer.isNone &&
      cmdPeer (s.tile s.arg.tile) c == ⟨s.arg.idx / 512, s.arg.idx % 512⟩) = some c) (hf : (s.tile s.arg.tile).faulted .lk = false)
    (hm : s.mayRead s.arg.tile .lk c.key (startRead s s.arg.tile c) = true) (hg : s.leaves (dieOf s.arg.tile) ⟨s.arg.idx / 512, s.arg.idx % 512⟩ = true)
    (hb : s.spRead (s.tile s.arg.tile).id.part (startRead s s.arg.tile c).1 (c.opnd 0) (c.opnd 1) = (u, va, .ok b)) :
    exec .sendMatch s = ok (u.modTile s.arg.tile (fun t => t.modCmd .lk c.key (fun x => { x with peer := some (s.arg.tile, x.key), left := 0 }))) := by
  rw [exec_sendMatch, execSendMatch, hfl]
  rw [if_pos rfl, State.sendAbroad]
  dsimp only
  rw [hc]
  dsimp only
  rw [if_neg (by simp [hp, hf, hm, hg]), hb]

end

/-! ### The ends of commands (R182, R389, R399) -/

/-- The raise of a command that ends; a `RECV` sets the latch (R151, R401). -/
def Tile.endRaise (t : Tile) (c : Cmd) : Tile :=
  match c.raise, c.instr with
  | some sm, _ => t.raise sm 1 true
  | none, .recv _ => { t with ct := { t.ct with latch := true } }
  | none, _ => t
/-- The allowance of a command that ends returns. -/
def Tile.endAllow (t : Tile) (c : Cmd) : Tile := match c.chan with | some ch => t.allowGive ch c.allow | none => t
/-- The last spill or fill of a slot clears BUSY (R211). -/
def Tile.endSlot (t : Tile) (c : Cmd) : Tile :=
  match (match c.instr with | .pspill _ ps _ _ _ => some ps.toNat | .pfill _ ps _ _ _ => some ps.toNat | _ => none) with
  | none => t
  | some ps =>
    let k := get 0 t.st.spills ps - 1
    let t := { t with st := { t.st with spills := put t.st.spills ps k } }
    let d := t.desc ps
    if k = 0 then t.setDesc ps (BitVec.ofNat 16 (d.toNat - d.toNat / 2 ^ 14 % 2 * 2 ^ 14)) else t
/-- A command leaves its engine. -/
def Tile.ended (t : Tile) (col : Col) (c : Cmd) : Tile :=
  (((t.setCmds col ((t.cmds col).filter (fun x => x.key != c.key))).endRaise c).endAllow c).endSlot c

/-- A command that is no `RECV` ends in its own tile only. -/
theorem State.endCommand_eq (s : State) (n : Nat) (col : Col) {c : Cmd} (h : ∀ o, c.instr ≠ .recv o) : s.endCommand n col c = s.modTile n (·.ended col c) := by
  have he : s.endCommand n col c = (match c.instr, c.peer with
      | .recv _, some (m, key) => (s.modTile n (·.ended col c)).modHome m key (·.modCmd .lk key Cmd.ack)
      | _, _ => s.modTile n (·.ended col c)) := rfl
  rw [he]
  split
  · next o _ _ hi _ => exact absurd hi (h o)
  · rfl

theorem Tile.endSlot_rest (t : Tile) (c : Cmd) : ∃ x, t.endSlot c = { t with st := x } := by
  unfold Tile.endSlot
  split
  · exact ⟨_, rfl⟩
  · extract_lets k u d
    split <;> exact ⟨_, rfl⟩

theorem Tile.endAllow_rest (t : Tile) (c : Cmd) : ∃ x, t.endAllow c = { t with en := { t.en with allow := x } } := by
  unfold Tile.endAllow
  split <;> exact ⟨_, rfl⟩

theorem Tile.endRaise_rest (t : Tile) (c : Cmd) : (t.endRaise c).en = t.en := by
  unfold Tile.endRaise
  split <;> rfl

theorem Tile.endRaise_raises (t : Tile) {c : Cmd} {sm : Nat} (h : c.raise = some sm) : t.endRaise c = t.raise sm 1 true := by
  unfold Tile.endRaise
  rw [h]

theorem Tile.cmds_congr {t u : Tile} (h : t.en = u.en) (col : Col) : t.cmds col = u.cmds col := by
  unfold Tile.cmds
  rw [h]

/-- What a command that has ended leaves: the other commands of its engine, its raise, and its allowance free again. -/
theorem Tile.ended_spec (t : Tile) (col : Col) (c : Cmd) :
    (t.ended col c).cmds col = (t.cmds col).filter (fun x => x.key != c.key) ∧
    (∀ sm, c.raise = some sm → (t.ended col c).qs.raises = t.qs.raises ++ [(sm, 1)] ∧ (t.ended col c).ct.latch = true) ∧
    (∀ ch, c.chan = some ch → get 0 (t.ended col c).en.allow ch = get 0 t.en.allow ch - c.allow) := by
  unfold Tile.ended
  obtain ⟨en, hset, hallow⟩ := t.setCmds_rest col ((t.cmds col).filter (fun x => x.key != c.key))
  have hcmds := t.cmds_setCmds col ((t.cmds col).filter (fun x => x.key != c.key))
  rw [hset] at hcmds ⊢
  generalize hu : ({ t with en := en } : Tile) = u at hcmds ⊢
  have huen : (u.endRaise c).en = en := by rw [u.endRaise_rest, ← hu]
  obtain ⟨st, hslot⟩ := ((u.endRaise c).endAllow c).endSlot_rest c
  rw [hslot]
  refine ⟨?cmds, fun sm hsm => ?raised, fun ch hch => ?allowed⟩
  case cmds =>
    obtain ⟨al, hal⟩ := (u.endRaise c).endAllow_rest c
    rw [hal, ← hcmds, ← Tile.cmds_congr (u.endRaise_rest c) col]
    cases col <;> rfl
  case raised =>
    obtain ⟨al, hal⟩ := (u.endRaise c).endAllow_rest c
    rw [hal, u.endRaise_raises hsm, ← hu]
    exact ⟨rfl, Bool.or_true _⟩
  case allowed =>
    show get 0 ((u.endRaise c).endAllow c).en.allow ch = _
    rw [Tile.endAllow, hch]
    show get 0 (upd 0 (u.endRaise c).en.allow ch (· - c.allow)) ch = _
    rw [get_upd, if_pos rfl, huen, hallow]

/-- What a command that ends acquires: an `LBAR` its mask (R399). -/
def Cmd.acquireMask (c : Cmd) : BitVec 4 := match c.instr with | .lbar o => o.fn | _ => 0

/-- A command that may end acquires first; with no dirty bytes held back it ends. -/
theorem exec_commandEnd_of {s : State} {c : Cmd} (hf : (s.tile s.arg.tile).faulted (engineCol s.arg.idx) = false)
    (hc : ((s.tile s.arg.tile).cmds (engineCol s.arg.idx)).find? (fun c => (s.tile s.arg.tile).mayEnd (engineCol s.arg.idx) c) = some c) :
    exec .commandEnd s =
      let u := s.acquireCache s.arg.tile c.acquireMask 4
      ok (if u.cacheHeld s.arg.tile c.acquireMask 4 then u else u.endCommand s.arg.tile (engineCol s.arg.idx) c) := by
  rw [exec_commandEnd, execCommandEnd, State.commandEnd]
  dsimp only
  rw [if_neg (ne_true_of_eq_false hf), hc]
  rfl

/-! ### The obligation -/

/-- Settles O43: each way that something arrives, by its own equation above. -/
theorem arrivalEventsComplete : Obligations.ArrivalEventsComplete := by
  intro s a becomes
  refine ⟨fun c p hl hs => ?contribShut, fun d p hl hh hs => ?blockShut, fun m p hl hs => ?msgShut, fun c p hl hs => ?carryShut,
    fun c hl hs hb => ?contribBehind, fun d hl hs hb => ?blockBehind, fun c hl hs hb => ?contrib, fun t c hr ht => ?retry, fun r hr hk => ?commit,
    fun r t hfl hr hf ht hw => ?timeout, ?transfers, fun r g hr hg hk hsw => ?abandon, fun d hl hh hs hp hf ho hwf hheld hb => ?block,
    fun m hl hfirst hs hp hf ho hq hh hb => ?overflow, fun m q t' va w hl hfirst hs hp hf ho hh hb hq hd => ?receive,
    fun c hl hfirst hs hsrc hdst hr ho hroom hh ha => ?carry, fun d hl hs hp hf ho hh => ?blockHeld, fun m hl hs hp hf ho hh => ?msgHeld, ?fromAbroad, ?toAbroad, ?ends⟩
  case contribShut => exact completes_eq ((exec_contributionArrival_of hl).trans (congrArg ok (State.contribArrives_shut hs)))
  case blockShut => exact completes_eq ((exec_blockArrival hl hh).trans (congrArg ok (State.blockLands_shut hs)))
  case msgShut => exact completes_eq ((exec_messageArrival_of hl).trans (congrArg ok (State.messageArrives_shut hs)))
  case carryShut => exact completes_eq ((exec_towpathArrival_of hl).trans (congrArg ok (State.carryArrives_shut hs)))
  case contribBehind => exact completes_eq ((exec_contributionArrival_of hl).trans (congrArg ok (State.contribArrives_behind hs hb)))
  case blockBehind => exact completes_eq (exec_blockArrival_same hl (State.blockLands_behind hs hb)).1
  case contrib =>
    intro ms m abroad lost fenced r
    have he := exec_contributionArrival_of hl
    have hlost : s.contribLost c a.flag = true ↔ lost := s.contribLost_iff c a.flag
    have hfenced : s.contribFenced c a.flag = true ↔ fenced := s.contribFenced_iff c a.flag
    refine ⟨fun hy => ?lost, fun hn hy => ?discarded, fun hn hnf hst => ?counts⟩
    case lost =>
      rw [State.contribArrives_lost hs hb (hlost.2 hy)] at he
      obtain ⟨hreds, hrest⟩ := State.failReds_spec ((s.dropContrib c).modRed c.kind c.part c.group c.gen c.dest 0 id) 2
        (p := (·.is c.kind c.part c.group c.gen c.dest)) (fun x hx => by rw [((x.is_iff ..).1 hx).1]; exact hy.1)
      refine completes_of_exec he ⟨(congrArg State.mem hrest :), (congrArg State.contribs hrest :), (congrArg State.refused hrest :), fun y hmem => ?_, fun g hg => ?_⟩
      · rw [hreds] at hmem
        simpa using (List.mem_filter.1 hmem).2
      · exact State.knowsFailed_failReds _ 2 hy.1 hg (State.redAt_mem_modRed ..) (State.redAt_is ..)
    all_goals have hl' : s.contribLost c a.flag = false := Bool.eq_false_iff.2 (mt hlost.1 hn)
    case discarded =>
      have hdrop : ∀ t, OnlyHomes (s.dropContrib c) t → t.mem = s.mem ∧ t.contribs = s.contribs.filter (· != c) ∧ t.reds = s.reds ∧ t.refused = s.refused :=
        fun t h => ⟨h.mem, h.contribs, h.reds, h.refused⟩
      cases hf : s.contribFenced c a.flag with
      | true =>
        have hk : c.kind ≠ 3 := by rw [(hfenced.1 hf).1]; decide
        rw [State.contribArrives_fenced hs hb hl' hf] at he
        exact completes_of_exec he (hdrop _ (onlyHomes_lostContrib _ _ _ hk))
      | false =>
        have hst : s.stale c = true := hy.resolve_left (mt hfenced.2 (ne_true_of_eq_false hf))
        rw [State.contribArrives_stale hs hb hl' hf hst] at he
        exact completes_of_exec he (hdrop _ (onlyHomes_ackContrib ..))
    case counts =>
      rw [State.contribArrives_counts hs hb hl' (Bool.eq_false_iff.2 (mt hfenced.1 hnf)) hst] at he
      cases hrf : s.contribRefused c with
      | true =>
        rw [hrf, if_pos rfl] at he
        exact completes_of_exec he ⟨rfl, rfl, .inl ⟨rfl, rfl, fun y hy => State.contribRefused_rank hrf hy⟩⟩
      | false =>
        rw [hrf, if_neg Bool.false_ne_true] at he
        have hack := onlyHomes_ackContrib ({ s.dropContrib c with free := s.free + 1 }.modRed c.kind c.part c.group c.gen c.dest (s.engineOf c) (·.take s.stamp c.src c.data)) c
        refine completes_of_exec he ⟨hack.mem, hack.contribs, .inr ⟨hack.refused, s.engineOf c, _, hack.reds ▸ State.redAt_mem_modRed .., ?_, rfl⟩⟩
        exact (Reduction.is_take ..).trans (State.redAt_is ..)
  case retry =>
    intro at_ hlink
    refine completes_eq ?_
    rw [exec_contributionRetry, execContributionRetry, hr]
    exact (if_pos ht).trans (congrArg ok (if_pos hlink))
  case commit =>
    intro g reached
    have he := exec_collectiveCommit_of hr
    refine ⟨fun hg hall => ?_, fun h => completes_eq (he.trans (congrArg ok (State.commitRed_early h)))⟩
    rw [State.commitRed_pred hk hg hall] at he
    have htell := onlyHomes_tellRegs (Cmd.pairsDone r g) (s.reachedRegs r) { s with reds := s.reds.filter (· != r) }
    refine completes_of_exec he ⟨htell.reds, htell.mem, fun n hn => ?_, fun e hmem hreach haway => ?_⟩
    · exact State.tile_tellRegs_other _ _ (fun e hmem heq => hn (by rw [heq]; exact (List.mem_filter.1 hmem).2)) _
    · exact State.lkAll_tellRegs (F := Cmd.pairsDone r g) (Q := fun c => c.buf = reducePairs (r.parts.map (·.2)) ∧ c.status = doneRec g r.gen.toNat ∧ c.left = 0)
        (fun _ => ⟨rfl, rfl, rfl⟩) (fun _ => rfl) _ (List.mem_filter.2 ⟨hmem, hreach⟩) _ haway
  case timeout => exact completes_of_exec (exec_collectiveTimeout_red hr hfl hf ht hw) ⟨s.not_mem_failReds 1 r, s.failReds_one 1⟩
  case transfers =>
    intro n k hfl ha
    refine ⟨fun h => completes_eq (exec_collectiveTimeout_early hfl h), fun h c o g hc hi hst hg => ?_⟩
    refine completes_of_exec (exec_collectiveTimeout_coll hfl h ha hc hi hst hg) ⟨onlyTile_setTile .., ?_⟩
    rw [State.tile_setTile_same]
    rfl
  case abandon => exact completes_of_exec (exec_switchAbandon_of hr hg hk hsw) (s.failReds_one 4 (by rw [hk]; decide))
  case block =>
    have he := exec_blockArrival hl hh
    rw [State.blockLands_stores hs hp hf ho hb hheld] at he
    generalize hv : ({ s with blocks := s.blocks.filter (· != d) } : State).modTile d.dst.tile (·.blockStored d) = v at he
    have hack := onlyHomes_ackBlock v d
    have htile : v.tile d.dst.tile = (s.tile d.dst.tile).blockStored d := by rw [← hv, State.tile_modTile_same]; rfl
    refine completes_of_exec he ⟨by rw [hack.blocks, ← hv]; rfl, by rw [hack.mem, ← hv]; rfl, fun k => ?_, fun sm hsm => ?_⟩
    · rw [State.tile_ackBlock (·.st.spad) (fun _ _ => rfl), htile, Tile.spad_blockStored]
      exact Memory.read_store _ _ _ _ hwf
    · rw [State.tile_ackBlock (·.qs.raises) (fun _ _ => rfl), State.tile_ackBlock (·.ct.latch) (fun _ _ => rfl), htile]
      exact Tile.raises_blockStored _ hsm
  case overflow =>
    intro y
    have he := exec_messageArrival_of hl
    rw [State.messageArrives_unmatched hs hp hf ho hfirst hh hb (List.find?_eq_none.2 (fun q hmem => ne_true_of_eq_false (hq q hmem)))] at he
    refine ⟨fun hroom => ?_, fun hfull htold hrun => ?_, fun hfull h => completes_eq ?_⟩
    · rw [if_neg (Nat.not_le.2 hroom)] at he
      refine completes_of_exec he ⟨rfl, ?_⟩
      rw [State.tile_modTile_same]
      exact ⟨rfl, rfl⟩
    · rw [if_pos hfull, if_neg (by rw [htold, hrun]; decide)] at he
      refine completes_of_exec he ⟨onlyTile_modTile .., rfl, ?_⟩
      rw [State.tile_modTile_same]
      rfl
    · rw [he, if_pos hfull, if_pos (by simpa using h)]
  case receive =>
    have he := exec_messageArrival_of hl
    obtain ⟨hok, hwait, hfault⟩ := State.messageArrives_matched (fenced := a.flag) hs hp hf ho hfirst hh hb hq hd
    refine ⟨fun hw => ?_, fun hw => completes_eq (he.trans (congrArg ok (hwait hw))), fun f hw => ?_⟩
    · rw [hok hw] at he
      refine completes_of_exec he ⟨?_, rfl, rfl⟩
      rw [State.tile_modTile_same]
      rfl
    · obtain ⟨req, hreq⟩ := hfault f hw
      rw [hreq] at he
      refine completes_of_exec he ⟨?_, rfl, rfl⟩
      rw [State.tile_modTile_same]
      rfl
  case carry =>
    have he := exec_towpathArrival_of hl
    rw [State.carryArrives_enters hfirst hs hdst hr ho hroom hh] at he
    generalize hv : ({ s with carries := s.carries.filter (· != c) } : State).modTile c.dst.tile (·.carryEnters c) = v at he
    have haway : v.awayHome c.src.tile c.key = none := by
      rw [← ha, ← hv]
      exact State.awayHome_congr rfl (State.tile_modTile_keeps (f := (·.carryEnters c)) (·.run) (fun _ => rfl) ..) (fun _ => rfl)
    rw [State.ackCarry_eq v (by rw [← hv]; exact hsrc), State.modHome_here haway] at he
    refine completes_of_exec he ⟨by rw [← hv]; rfl, by rw [← hv]; rfl, ?_, fun hk => ?_⟩
    · rw [State.tile_modTile_keeps (·.sq) (fun t => t.sq_carryAcked c), ← hv, State.tile_modTile_same]
      rfl
    · rw [State.tile_modTile_same]
      refine Tile.ackKey_carryAcked _ ?_
      rw [← hk, ← hv]
      exact State.tile_modTile_keeps (f := (·.carryEnters c)) (fun t => (t.col .sq).ackKey) (fun _ => rfl) ..
  case blockHeld =>
    obtain ⟨hput, hmulti⟩ := exec_blockArrival_same hl (State.blockLands_held hs hp hf ho hh)
    exact ⟨completes_eq hput, completes_eq hmulti⟩
  case msgHeld => exact completes_eq ((exec_messageArrival_of hl).trans (congrArg ok (State.messageArrives_held hs hp hf ho hh)))
  case fromAbroad =>
    intro r n src hfl hr hp m hl
    obtain ⟨status, he⟩ := exec_sendMatch_fromAbroad hfl hp hr hl
    exact completes_of_exec he ⟨onlyTile_modTile .., lkAll_modTile s n (fun _ _ => ⟨rfl, rfl⟩)⟩
  case toAbroad =>
    intro n dst c b u va hfl hp hc hf hm hg hb
    refine completes_of_exec (exec_sendMatch_toAbroad hfl hp hc hf hm hg hb) ⟨rfl, ?_⟩
    exact lkAll_modTile u n (Q := fun k => k.left = 0 ∧ k.peer = some (n, c.key)) (fun x hx => ⟨rfl, by rw [hx]⟩)
  case ends =>
    intro n col c hf hc hi mask
    have he := exec_commandEnd_of hf hc
    have htile := (memOnly_acquireCache s n mask 4).tiles n
    refine ⟨(completes_ite he).1, fun hheld => ?_⟩
    generalize hu : s.acquireCache n mask 4 = u at htile
    have hen : (u.tile n).en = (s.tile n).en := (congrArg Tile.en htile :)
    have hqs : (u.tile n).qs = (s.tile n).qs := (congrArg Tile.qs htile :)
    have hend : exec .commandEnd s = ok (u.endCommand n col c) := by
      rw [he, ← hu]
      exact congrArg ok (if_neg (ne_true_of_eq_false hheld))
    rw [State.endCommand_eq u n col hi] at hend
    refine completes_of_exec hend ?_
    rw [State.tile_modTile_same]
    obtain ⟨hkept, hraise, hallow⟩ := (u.tile n).ended_spec col c
    rw [Tile.cmds_congr hen] at hkept
    rw [hqs] at hraise
    rw [hen] at hallow
    exact ⟨hkept, hraise, hallow⟩

end Sys2Proof.Machine
end

section
/-! SUPPORT. The graph walkers (R127, R132–R134): the writes of their registers, how a node is read and ends, and what each kind of node does. -/
namespace Sys2Proof.Machine

open Sys2Proof

variable {s t u : State} {p w : Nat}

/-! ### Walkers of the state -/

theorem State.walker_modWalker (s : State) (p w : Nat) (f : Walker → Walker) (k : Nat) :
    (s.modWalker p w f).walker p k = if k = w then f (s.walker p w) else s.walker p k := by
  simp [State.walker, State.modWalker, get_upd]

theorem State.modWalker_const (s : State) (p w : Nat) (f : Walker → Walker) : s.modWalker p w f = s.modWalker p w (fun _ => f (s.walker p w)) := rfl

theorem State.walker_congr (h : t.part p = s.part p) (w : Nat) : t.walker p w = s.walker p w := congrArg (fun x : Part => get Walker.reset x.walkers w) h

theorem State.walker_modPart (s : State) (p w q : Nat) {f : Part → Part} (hf : ∀ x, (f x).walkers = x.walkers) : (s.modPart q f).walker p w = s.walker p w := by
  unfold State.walker
  rw [State.part_modPart]
  split
  next h => rw [hf, h]
  next => rfl

theorem MemOnly.part (h : MemOnly s t) (p : Nat) : t.part p = s.part p := (congrArg (State.part · p) h.rest :)

theorem MemOnly.walker (h : MemOnly s t) (p w : Nat) : t.walker p w = s.walker p w := State.walker_congr (h.part p) w

theorem memOnly_of_read {d va n : Nat} {acc : Acc} {r : Ans (List Byte)} (h : s.coReadVia d p va n acc = (t, r)) : MemOnly s t := by
  have hm := memOnly_coReadVia s d p va n acc
  rwa [h] at hm

theorem memOnly_of_write {d va : Nat} {bs : List (Option Byte)} {r : Ans Unit} (h : s.coWriteVia d p va bs = (t, r)) : MemOnly s t := by
  have hm := memOnly_coWriteVia s d p va bs
  rwa [h] at hm

/-! ### The registers of a walker (R134) -/

theorem wfld_lt (v : Word) (lo n : Nat) : wfld v lo n < 2 ^ n := Nat.mod_lt _ (Nat.two_pow_pos n)

theorem Walker.writeBase_eq (x : Walker) (v : Word) : x.writeBase v =
    if v.toNat % 32 ≠ 0 ∨ (x.state = 1 ∧ v ≠ x.base) then { x with ctl := x.ctl ||| 4 } else { x with base := v } := by
  simp [Walker.writeBase]

/-- A write of GW.CTL that is refused as a whole; `st` is the state of the partition. -/
def Walker.refusesCtl (x : Walker) (st : Nat) (v : Word) : Prop :=
  65536 < wfld v 32 17 ∨ (x.state = 1 ∧ (wfld v 32 17 ≠ x.len ∨ wfld v 16 16 ≠ wfld x.ctl 16 16)) ∨
    (v.getLsbD 0 = true ∧ (x.state = 1 ∨ wfld v 32 17 = 0 ∨ wfld v 32 17 ≤ wfld v 16 16 ∨ st ≠ 2))

theorem Walker.writeCtl_refused {x : Walker} {st : Nat} {v : Word} (h : x.refusesCtl st v) : x.writeCtl (st == 2) v = { x with ctl := x.ctl ||| 4 } :=
  if_pos (by simpa [Walker.refusesCtl, or_assoc] using h)

/-- The walker after a write of GW.CTL that is taken. -/
def Walker.ctlTaken (x : Walker) (v : Word) : Walker where
  base := x.base
  ctl := BitVec.ofNat 64 (wfld v 32 17 * 2 ^ 32 + wfld v 16 16 * 2 ^ 16 + b2n (x.ctl.getLsbD 2 && !v.getLsbD 2) * 4)
  stat := if v.getLsbD 0 then walkStat (wfld v 16 16) 0 0 1 else x.stat
  waiting := !v.getLsbD 0 && x.waiting
  stopping := !v.getLsbD 0 && (x.stopping || (v.getLsbD 1 && x.state == 1))

theorem Walker.writeCtl_taken {x : Walker} {st : Nat} {v : Word} (h : ¬x.refusesCtl st v) : x.writeCtl (st == 2) v = x.ctlTaken v := by
  refine (if_neg (by simpa [Walker.refusesCtl, or_assoc] using h)).trans ?_
  unfold Walker.ctlTaken
  cases v.getLsbD 0 <;> rfl

/-- The fields of GW.CTL as a taken write composes it. -/
theorem wfld_walkCtl {len entry badw : Nat} (hl : len < 2 ^ 17) (he : entry < 2 ^ 16) (hb : badw ≤ 1) :
    let c : Word := BitVec.ofNat 64 (len * 2 ^ 32 + entry * 2 ^ 16 + badw * 4)
    wfld c 32 17 = len ∧ wfld c 16 16 = entry := by
  simp only [wfld, BitVec.toNat_ofNat]
  omega

/-- NODE and STATE of a walk that goes on. -/
theorem wfld_walkStat_run {node : Nat} (h : node < 2 ^ 16) : wfld (walkStat node 0 0 1) 0 2 = 1 ∧ wfld (walkStat node 0 0 1) 32 16 = node := by
  simp only [wfld, walkStat, BitVec.toNat_ofNat]
  omega

/-- By cases on the walker: compared with an opaque one, the kernel would first compute the word of GW.CTL. -/
theorem Walker.base_ctlTaken (x : Walker) (v : Word) : (x.ctlTaken v).base = x.base := by
  cases x with
  | mk base ctl stat waiting stopping => exact (rfl : (Walker.ctlTaken ⟨base, ctl, stat, waiting, stopping⟩ v).base = base)

theorem Walker.fields_ctlTaken (x : Walker) (v : Word) : (x.ctlTaken v).len = wfld v 32 17 ∧ wfld (x.ctlTaken v).ctl 16 16 = wfld v 16 16 := by
  have hbadw : b2n (x.ctl.getLsbD 2 && !v.getLsbD 2) ≤ 1 := by unfold b2n; split <;> decide
  obtain ⟨hlen, hentry⟩ := wfld_walkCtl (wfld_lt v 32 17) (wfld_lt v 16 16) hbadw
  exact ⟨by rw [Walker.len, Walker.ctlTaken, hlen], by rw [Walker.ctlTaken, hentry]⟩

/-- START puts the walk at ENTRY. -/
theorem Walker.ctlTaken_start (x : Walker) {v : Word} (h : v.getLsbD 0 = true) :
    (x.ctlTaken v).state = 1 ∧ (x.ctlTaken v).node = wfld v 16 16 ∧ (x.ctlTaken v).stopping = false := by
  obtain ⟨hstate, hnode⟩ := wfld_walkStat_run (wfld_lt v 16 16)
  have hstat : (x.ctlTaken v).stat = walkStat (wfld v 16 16) 0 0 1 := if_pos h
  exact ⟨by rw [Walker.state, hstat, hstate], by rw [Walker.node, hstat, hnode], by rw [Walker.ctlTaken, h]; rfl⟩

/-- Without START the walk stays where it is, and STOP of a running walk is noted. -/
theorem Walker.ctlTaken_noStart (x : Walker) {v : Word} (h : v.getLsbD 0 = false) :
    (x.ctlTaken v).stat = x.stat ∧ (x.state = 1 → v.getLsbD 1 = true → (x.ctlTaken v).stopping = true) :=
  ⟨if_neg (ne_true_of_eq_false h), fun hrun hstop => by rw [Walker.ctlTaken, h, hstop, hrun]; simp⟩

/-- A write of a walker's registers leaves a DISABLED partition and a walker beyond the fourth alone. -/
theorem exec_gw_beyond (h : (s.part s.arg.part).st = 0 ∨ 4 ≤ s.arg.idx) : exec .gwConfigWrite s = ok s ∧ exec .gwStart s = ok s ∧ exec .gwStop s = ok s :=
  ⟨if_pos h, congrArg ok (if_pos h), congrArg ok (if_pos h)⟩

section
variable (hl : ¬((s.part s.arg.part).st = 0 ∨ 4 ≤ s.arg.idx))
include hl

theorem exec_gwConfigWrite_base (h0 : s.arg.num = 0) : exec .gwConfigWrite s = ok (s.modWalker s.arg.part s.arg.idx (fun _ =>
    (s.walker s.arg.part s.arg.idx).writeBase (halfWrite s.arg.sub (s.walker s.arg.part s.arg.idx).base 0 s.arg.val))) :=
  (if_neg hl).trans (if_pos h0)

theorem exec_gwConfigWrite_ctl (h0 : s.arg.num ≠ 0) : exec .gwConfigWrite s = ok (s.gwCtl 0) := (if_neg hl).trans (if_neg h0)

/-- A write of GW.CTL only sets BADW of its walker, or is taken whole. -/
theorem gwCtl_completes {i : Instr} {bits v : Word} (he : exec i s = ok (s.gwCtl bits))
    (hv : halfWrite s.arg.sub (s.walker s.arg.part s.arg.idx).ctl 7 s.arg.val ||| bits = v) :
    let p := s.arg.part
    let w := s.arg.idx
    let x := s.walker p w
    (x.refusesCtl (s.part p).st v → Completes i s (fun t => t = s.modWalker p w (fun _ => { x with ctl := x.ctl ||| 4 }))) ∧
    (¬x.refusesCtl (s.part p).st v → Completes i s (fun t => { t with parts := s.parts } = s ∧ (∀ k, k ≠ w → t.walker p k = s.walker p k) ∧ (t.walker p w).base = x.base ∧
      (t.walker p w).len = wfld v 32 17 ∧ wfld (t.walker p w).ctl 16 16 = wfld v 16 16 ∧
      (v.getLsbD 0 = true → (t.walker p w).state = 1 ∧ (t.walker p w).node = wfld v 16 16 ∧ (t.walker p w).stopping = false) ∧
      (v.getLsbD 0 = false → (t.walker p w).stat = x.stat ∧ (x.state = 1 → v.getLsbD 1 = true → (t.walker p w).stopping = true)))) := by
  intro p w x
  have hset : exec i s = ok (s.modWalker p w (fun _ => x.writeCtl ((s.part p).st == 2) v)) := by
    rw [he, ← hv]
    exact congrArg ok (if_neg hl)
  refine ⟨fun hr => completes_eq ?_, fun hr => ?_⟩
  · rw [hset, Walker.writeCtl_refused hr]
  · refine completes_of_exec hset ⟨rfl, fun k hk => by rw [State.walker_modWalker, if_neg hk], ?_⟩
    rw [State.walker_modWalker, if_pos rfl, Walker.writeCtl_taken hr]
    exact ⟨x.base_ctlTaken v, (x.fields_ctlTaken v).1, (x.fields_ctlTaken v).2, fun h => x.ctlTaken_start h, fun h => x.ctlTaken_noStart h⟩

end

/-! ### The accesses of a node -/

section
variable {va n : Nat} {acc : Acc} {bs : List Byte}

theorem walkRead_ok (h : s.coReadVia 0 p va n acc = (t, .ok bs)) (f : State → List Byte → State × Option Nat) : walkRead s p va n acc f = f t bs := by
  unfold walkRead
  rw [h]

theorem walkWrite_ok (h : s.coWriteVia 0 p va (bs.map some) = (t, .ok ())) (f : State → State × Option Nat) : walkWrite s p va bs f = f t := by
  unfold walkWrite
  rw [h]

end

/-- Writes that all end change only the memory, and the node goes on behind the last one. -/
theorem rearm_ok {v : Nat} (f : State → State × Option Nat) (k : Nat) : ∀ {s t : State} {va : Nat}, rearm s p va k v (fun u => (u, none)) = (t, none) →
    MemOnly s t ∧ rearm s p va k v f = f t := by
  induction k with
  | zero =>
    intro s t va h
    obtain ⟨rfl, -⟩ := Prod.mk.inj h
    exact ⟨.refl s, rfl⟩
  | succ k ih =>
    intro s t va h
    unfold rearm at h ⊢
    unfold walkWrite at h ⊢
    have hm := memOnly_coWriteVia s 0 p va ((leBytes 8 v).map some)
    generalize s.coWriteVia 0 p va ((leBytes 8 v).map some) = q at h hm ⊢
    obtain ⟨u, _ | _ | _⟩ := q
    · exact absurd (congrArg Prod.snd h) nofun
    · exact absurd (congrArg Prod.snd h) nofun
    · obtain ⟨hrest, hend⟩ := ih h
      exact ⟨hm.trans hrest, hend⟩

/-! ### How a node is read and ends (R132, R134) -/

/-- The walker that the event names runs, and waits for no job. -/
def State.walks (s : State) : Prop :=
  (s.part s.arg.part).st = 2 ∧ (s.walker s.arg.part s.arg.idx).state = 1 ∧ (s.walker s.arg.part s.arg.idx).waiting = false ∧ s.arg.idx < 4

/-- The read of its present node. -/
def State.nodeRead (s : State) : State × Ans (List Byte) :=
  s.coReadVia 0 s.arg.part ((s.walker s.arg.part s.arg.idx).base.toNat + 32 * (s.walker s.arg.part s.arg.idx).node) 32 .rd

/-- The node that 32 bytes hold. -/
def Node.ofBytes (b : List Byte) : Node := ⟨leNat (b.take 8), leNat ((b.drop 8).take 8), leNat ((b.drop 16).take 8), leNat (b.drop 24)⟩

/-- The node as it is read, with the checks of its record and of its target, by the event of a kind. -/
def State.nodeChecked (s : State) (kind : Nat) (f : NodeAct) (u : State) (n : Node) : State × Option Nat :=
  let p := s.arg.part
  let x := s.walker p s.arg.idx
  if n.bad then (u, some 1)
  else if n.kind != kind then (u, some 512)
  else if n.kind = 7 then walkRead u p n.w2 (2 * n.imm) .rd fun u b =>
    if (List.range n.imm).any (fun k => x.len ≤ leNat ((b.drop (2 * k)).take 2)) then (u, some 1)
    else if x.len ≤ n.tgt then (u, some 2) else f u p s.arg.idx n
  else if n.branches && decide (x.len ≤ n.tgt) then (u, some 2)
  else f u p s.arg.idx n

/-- What the code with which a node ends makes of the state. -/
def State.nodeEnd (s : State) : State × Option Nat → State
  | (t, r) => match r with
    | none => t
    | some 512 => s
    | some c => if 256 ≤ c then t.walkFail s.arg.part s.arg.idx 3 (c - 256) else t.walkFail s.arg.part s.arg.idx c 0

theorem State.nodeEnd_fault (s t : State) {k : Nat} (h : k < 256) : s.nodeEnd (t, some (256 + k)) = t.walkFail s.arg.part s.arg.idx 3 k := by
  simp only [State.nodeEnd]
  split
  next he => exact absurd he nofun
  next he => exact absurd (Option.some.inj he) (by omega)
  next c _ he =>
    obtain rfl : 256 + k = c := Option.some.inj he
    rw [if_pos (Nat.le_add_right ..), Nat.add_sub_cancel_left]

theorem State.nodeStep_idle (h : (s.part s.arg.part).st ≠ 2 ∨ (s.walker s.arg.part s.arg.idx).state ≠ 1 ∨ (s.walker s.arg.part s.arg.idx).waiting = true ∨ 4 ≤ s.arg.idx)
    (kind : Nat) (f : NodeAct) : s.nodeStep kind f = s :=
  if_pos (by simpa only [Bool.or_eq_true, bne_iff_ne, decide_eq_true_eq, or_assoc] using h)

section
variable (hw : s.walks)
include hw

theorem State.nodeStep_walks (kind : Nat) (f : NodeAct) : s.nodeStep kind f =
    s.nodeEnd (walkRead s s.arg.part ((s.walker s.arg.part s.arg.idx).base.toNat + 32 * (s.walker s.arg.part s.arg.idx).node) 32 .rd
      (fun u b => s.nodeChecked kind f u (Node.ofBytes b))) := by
  obtain ⟨hst, hrun, hwait, hidx⟩ := hw
  exact if_neg (by simp [hst, hrun, hwait, hidx])

theorem State.nodeStep_held (h : s.nodeRead.2 = .wait) (kind : Nat) (f : NodeAct) : s.nodeStep kind f = s := by
  rw [State.nodeStep_walks hw, walkRead, ← State.nodeRead]
  generalize s.nodeRead = q at h
  obtain ⟨t, a⟩ := q
  subst h
  rfl

theorem State.nodeStep_faults {e : Flt} (h : s.nodeRead.2 = .fault e) (he : e.sub < 256) (kind : Nat) (f : NodeAct) :
    s.nodeStep kind f = s.nodeRead.1.walkFail s.arg.part s.arg.idx 3 e.sub := by
  rw [State.nodeStep_walks hw, walkRead, ← State.nodeRead]
  generalize s.nodeRead = q at h ⊢
  obtain ⟨t, a⟩ := q
  subst h
  exact s.nodeEnd_fault t he

variable {b : List Byte} (hr : s.nodeRead = (u, .ok b))
include hr

theorem State.nodeStep_read (kind : Nat) (f : NodeAct) : s.nodeStep kind f = s.nodeEnd (s.nodeChecked kind f u (Node.ofBytes b)) := by
  rw [State.nodeStep_walks hw, walkRead_ok hr]

theorem State.nodeStep_bad (hb : (Node.ofBytes b).bad = true) (kind : Nat) (f : NodeAct) : s.nodeStep kind f = u.walkFail s.arg.part s.arg.idx 1 0 := by
  rw [State.nodeStep_read hw hr, State.nodeChecked, if_pos hb]
  rfl

variable (hb : (Node.ofBytes b).bad = false) {kind : Nat}
include hb

theorem State.nodeStep_other (hk : kind ≠ (Node.ofBytes b).kind) (f : NodeAct) : s.nodeStep kind f = s := by
  rw [State.nodeStep_read hw hr, State.nodeChecked, if_neg (ne_true_of_eq_false hb), if_pos (bne_iff_ne.2 hk.symm)]
  rfl

variable (hk : (Node.ofBytes b).kind = kind)
include hk

/-- A node without a target acts once it is read. -/
theorem State.nodeStep_acts (h5 : kind ≠ 5) (h6 : kind ≠ 6) (h7 : kind ≠ 7) (f : NodeAct) :
    s.nodeStep kind f = s.nodeEnd (f u s.arg.part s.arg.idx (Node.ofBytes b)) := by
  rw [State.nodeStep_read hw hr, State.nodeChecked, if_neg (ne_true_of_eq_false hb), if_neg (by simp [hk]), if_neg (by rwa [hk]), if_neg (by simp [Node.branches, hk, h5, h6, h7])]

/-- A branch fails when its target lies beyond the array, and acts otherwise. -/
theorem State.nodeStep_branch (h : kind = 5 ∨ kind = 6) (f : NodeAct) : s.nodeStep kind f =
    if (s.walker s.arg.part s.arg.idx).len ≤ (Node.ofBytes b).tgt then u.walkFail s.arg.part s.arg.idx 2 0
    else s.nodeEnd (f u s.arg.part s.arg.idx (Node.ofBytes b)) := by
  have hbr : (Node.ofBytes b).branches = true := by simpa [Node.branches, hk, or_assoc] using Or.inl h
  rw [State.nodeStep_read hw hr, State.nodeChecked, if_neg (ne_true_of_eq_false hb), if_neg (by simp [hk]), if_neg (by omega), hbr, Bool.true_and]
  simp only [decide_eq_true_eq]
  rw [apply_ite s.nodeEnd]
  rfl

/-- A SWITCH node reads its table, fails when an entry or the target lies beyond the array, and acts otherwise. -/
theorem State.nodeStep_switch (h : kind = 7) {v : State} {tab : List Byte}
    (ht : u.coReadVia 0 s.arg.part (Node.ofBytes b).w2 (2 * (Node.ofBytes b).imm) .rd = (v, .ok tab)) (f : NodeAct) : s.nodeStep kind f =
    if ∃ k, k < (Node.ofBytes b).imm ∧ (s.walker s.arg.part s.arg.idx).len ≤ leNat ((tab.drop (2 * k)).take 2) then v.walkFail s.arg.part s.arg.idx 1 0
    else if (s.walker s.arg.part s.arg.idx).len ≤ (Node.ofBytes b).tgt then v.walkFail s.arg.part s.arg.idx 2 0
    else s.nodeEnd (f v s.arg.part s.arg.idx (Node.ofBytes b)) := by
  rw [State.nodeStep_read hw hr, State.nodeChecked, if_neg (ne_true_of_eq_false hb), if_neg (by simp [hk]), if_pos (hk.trans h), walkRead_ok ht]
  simp only [List.any_eq_true, List.mem_range, decide_eq_true_eq]
  rw [apply_ite s.nodeEnd, apply_ite s.nodeEnd]
  rfl

variable {i : Instr} {f : NodeAct} (hi : exec i s = ok (s.nodeStep kind f)) {e : State × Option Nat}
include hi

theorem node_completes (h5 : kind ≠ 5) (h6 : kind ≠ 6) (h7 : kind ≠ 7) (he : f u s.arg.part s.arg.idx (Node.ofBytes b) = e) :
    Completes i s (fun t => t = s.nodeEnd e) :=
  completes_eq (by rw [hi, State.nodeStep_acts hw hr hb hk h5 h6 h7, he])

theorem branch_fails (h : kind = 5 ∨ kind = 6) (hfar : (s.walker s.arg.part s.arg.idx).len ≤ (Node.ofBytes b).tgt) :
    Completes i s (fun t => t = u.walkFail s.arg.part s.arg.idx 2 0) :=
  completes_eq (by rw [hi, State.nodeStep_branch hw hr hb hk h, if_pos hfar])

theorem branch_completes (h : kind = 5 ∨ kind = 6) (hnear : (Node.ofBytes b).tgt < (s.walker s.arg.part s.arg.idx).len)
    (he : f u s.arg.part s.arg.idx (Node.ofBytes b) = e) : Completes i s (fun t => t = s.nodeEnd e) :=
  completes_eq (by rw [hi, State.nodeStep_branch hw hr hb hk h, if_neg (Nat.not_le.2 hnear), he])

end

/-! ### Starting a job (R217) -/

theorem memOnly_vmRead (d part : Nat) (ps : List (Nat × Nat)) : ∀ s : State, MemOnly s (s.vmRead d part ps).1 := by
  induction ps with
  | nil => exact fun s => .refl s
  | cons e r ih =>
    intro s
    unfold State.vmRead
    refine memOnly_ite (.refl s) ?_
    have hm := memOnly_coRead s part e.1 e.2 .rd
    split
    next h => rwa [h] at hm
    next h => rwa [h] at hm
    next v _ h =>
      rw [h] at hm
      have hrest := hm.trans (ih v)
      split
      next h' => rwa [h'] at hrest
      next => exact hrest

theorem memOnly_jread (s : State) (d part va n : Nat) : MemOnly s (jread s d part va n).1 := by
  unfold jread
  have hm := memOnly_vmRead d part (linePieces va n) s
  split
  next h => rwa [h] at hm
  next h =>
    rw [h] at hm
    dsimp only
    split
    · exact hm.trans (memOnly_nameWay ..)
    · exact hm
  next h => rwa [h] at hm

theorem State.parts_foldl_modDie (f : Die → Die) (l : List Nat) : ∀ s : State, (l.foldl (fun s d => s.modDie d f) s).parts = s.parts := by
  induction l with
  | nil => exact fun _ => rfl
  | cons d r ih => exact fun s => ih _

/-- A job that no walker waits for leaves every walker as it is, started or not. -/
theorem State.walker_startJob (s : State) (kind part home va p w : Nat) : (s.startJob kind part home none va).1.walker p w = s.walker p w := by
  unfold State.startJob
  split
  · rfl
  have hm := memOnly_jread s home part va 64
  split
  next => rfl
  next h => rw [h] at hm; exact hm.walker p w
  next v b h =>
    rw [h] at hm
    refine Eq.trans ?_ (hm.walker p w)
    dsimp only
    split
    · rfl
    split
    · split
      · rfl
      · exact (State.walker_congr (congrArg (fun m => get Part.reset m p) (State.parts_foldl_modDie ..)) w).trans (State.walker_modPart _ _ _ _ (fun _ => rfl))
    · rfl

/-! ### What each kind of node does (R127, R132, R133) -/

section
variable {n : Node} {v z : State} {r : List Byte} {x : Walker}

theorem bargeNode_noSource (h : (s.queue p n.imm).ctl.getLsbD 9 = false) : bargeNode s p w n = (s, some 4) := if_pos (by rw [h]; rfl)

section
variable (h : (s.queue p n.imm).ctl.getLsbD 9 = true)
include h

theorem bargeNode_full (hf : 2 ^ (s.queue p n.imm).log2n ≤ (s.queue p n.imm).used) : bargeNode s p w n = (s, some 512) :=
  (if_neg (by rw [h]; decide)).trans (if_pos hf)

theorem bargeNode_enters (hx : s.walker p w = x) (hf : (s.queue p n.imm).used < 2 ^ (s.queue p n.imm).log2n) (hr : s.coReadVia 0 p n.w1 64 .rd = (v, .ok r))
    (hz : v.coWriteVia 0 p ((s.queue p n.imm).base.toNat + 64 * ((s.queue p n.imm).tail % 2 ^ (s.queue p n.imm).log2n)) (r.map some) = (z, .ok ())) :
    bargeNode s p w n = ((z.modQueue p n.imm (fun q => { q with tail := (q.tail + 1) % 2 ^ 32 })).walkGo p w (x.node + 1), none) := by
  have hm := (memOnly_of_read hr).trans (memOnly_of_write hz)
  unfold bargeNode
  extract_lets q
  rw [if_neg (by rw [h]; decide), if_neg (Nat.not_le.2 hf), walkRead_ok hr, walkWrite_ok hz, hm.walker, hx]

end

theorem engineNode_noVisit (h : (s.part p).deficit = 0 ∨ s.visiting = false ∨ s.visit ≠ p) : engineNode s p w n = (s, some 512) :=
  if_pos (by simpa [or_assoc] using h)

section
variable (hd : 0 < (s.part p).deficit) (hv : s.visiting = true) (hp : s.visit = p)
include hd hv hp

theorem engineNode_goesOn (hx : s.walker p w = x) (hfl : n.fl % 2 = 0) (h : s.startJob (n.imm % 4) p (n.imm / 16 % 4) none n.w1 = (v, true)) :
    engineNode s p w n = ((v.modPart p (fun y => { y with deficit := y.deficit - 1 })).walkGo p w (x.node + 1), none) := by
  have hwalk := s.walker_startJob (n.imm % 4) p (n.imm / 16 % 4) n.w1 p w
  rw [h] at hwalk
  unfold engineNode
  rw [if_neg (by simp [Nat.ne_of_gt hd, hv, hp])]
  have hj : (n.fl % 2 == 1) = false := by rw [hfl]; rfl
  simp only [hj, Bool.false_eq_true, if_false, h]
  rw [State.walker_modPart _ _ _ _ (f := fun y => { y with deficit := y.deficit - 1 }) (fun _ => rfl), hwalk, hx]

theorem engineNode_waitsForJob (hfl : n.fl % 2 = 1)
    (h : (s.modWalker p w (fun y => { y with waiting := true })).startJob (n.imm % 4) p (n.imm / 16 % 4) (some w) n.w1 = (v, true)) :
    engineNode s p w n = (v.modPart p (fun y => { y with deficit := y.deficit - 1 }), none) := by
  unfold engineNode
  rw [if_neg (by simp [Nat.ne_of_gt hd, hv, hp])]
  simp [hfl, h]

end

/-- The condition of a WAIT node on the value that it has read. -/
def Node.waitHolds (n : Node) (k : Nat) : Prop := if n.fl = 1 then k = n.w2 else n.w2 ≤ k

section
variable (hr : s.coReadVia 0 p n.w1 8 .rd = (v, .ok r))
include hr

theorem waitNode_holds (hx : s.walker p w = x) (h : n.waitHolds (leNat r)) : waitNode s p w n = (v.walkGo p w (x.node + 1), none) := by
  unfold Node.waitHolds at h
  unfold waitNode
  rw [walkRead_ok hr, (memOnly_of_read hr).walker, hx]
  exact if_pos (by split <;> simp_all)

theorem waitNode_unmet (hx : s.walker p w = x) (h : ¬n.waitHolds (leNat r)) : waitNode s p w n = (if x.stopping then v.walkFail p w 5 0 else v, none) := by
  unfold Node.waitHolds at h
  unfold waitNode
  rw [walkRead_ok hr, (memOnly_of_read hr).walker, hx, apply_ite (Prod.mk · none)]
  exact if_neg (by split <;> simp_all)

theorem waitNode_stops (hx : s.walker p w = x) (h : ¬n.waitHolds (leNat r)) (hs : x.stopping = true) : waitNode s p w n = (v.walkFail p w 5 0, none) := by
  rw [waitNode_unmet hr hx h, if_pos hs]

theorem waitNode_polls (hx : s.walker p w = x) (h : ¬n.waitHolds (leNat r)) (hs : x.stopping = false) : waitNode s p w n = (v, none) := by
  rw [waitNode_unmet hr hx h, if_neg (ne_true_of_eq_false hs)]

theorem condNode_ok (hx : s.walker p w = x) : condNode s p w n = (if condHolds n.fl (leNat r &&& n.w3) n.w2 then v.walkGo p w n.tgt else v.walkGo p w (x.node + 1), none) := by
  unfold condNode
  rw [walkRead_ok hr, (memOnly_of_read hr).walker, hx, apply_ite (v.walkGo p w)]

end

section
variable (hr : s.coReadVia 0 p n.w1 8 .rmw = (v, .ok r))
include hr

theorem raiseNode_ok (hx : s.walker p w = x) (hz : v.coWriteVia 0 p n.w1 ((leBytes 8 ((leNat r + n.w2) % 2 ^ 64)).map some) = (z, .ok ())) :
    raiseNode s p w n = (z.walkGo p w (x.node + 1), none) := by
  unfold raiseNode
  rw [walkRead_ok hr, walkWrite_ok hz, ((memOnly_of_read hr).trans (memOnly_of_write hz)).walker, hx]

theorem loopNode_ok (hx : s.walker p w = x) (hz : v.coWriteVia 0 p n.w1 ((leBytes 8 (if leNat r + 1 < n.w2 then leNat r + 1 else 0)).map some) = (z, .ok ())) :
    loopNode s p w n = (if leNat r + 1 < n.w2 then z.walkGo p w n.tgt else z.walkGo p w (x.node + 1), none) := by
  unfold loopNode
  rw [walkRead_ok hr]
  simp only [decide_eq_true_eq]
  rw [walkWrite_ok hz, ((memOnly_of_read hr).trans (memOnly_of_write hz)).walker, hx, apply_ite (z.walkGo p w)]

end

theorem switchNode_ok (ht : s.coReadVia 0 p n.w2 (2 * n.imm) .rd = (v, .ok t1)) (hr : v.coReadVia 0 p n.w1 8 .rd = (z, .ok r)) :
    switchNode s p w n = (z.walkGo p w (if leNat r < n.imm then leNat ((t1.drop (2 * leNat r)).take 2) else n.tgt), none) := by
  unfold switchNode
  rw [walkRead_ok ht, walkRead_ok hr]

theorem rearmNode_ok (hx : s.walker p w = x) (h : rearm s p n.w1 n.imm n.w2 (fun t => (t, none)) = (z, none)) : rearmNode s p w n = (z.walkGo p w (x.node + 1), none) := by
  obtain ⟨hm, he⟩ := rearm_ok (fun t => (t.walkGo p w ((t.walker p w).node + 1), none)) n.imm h
  rwa [hm.walker, hx] at he

/-- The walk that has ended at a node. -/
def State.walkDone (s : State) (p w node : Nat) : State := s.modWalker p w (fun y => { y with stat := walkStat node 0 0 2, stopping := false })

theorem State.modWalker_walkDone (s : State) (p w : Nat) :
    s.modWalker p w (fun y => { y with stat := walkStat y.node 0 0 2, stopping := false }) = s.walkDone p w (s.walker p w).node :=
  (State.modWalker_const ..).trans (State.modWalker_const s p w (fun y => { y with stat := walkStat (s.walker p w).node 0 0 2, stopping := false })).symm

theorem endNode_quiet (hx : s.walker p w = x) (h : n.w1 = 0) : endNode s p w n = (s.walkDone p w x.node, none) := by
  unfold endNode
  extract_lets fin
  rw [if_pos h, ← hx, ← State.modWalker_walkDone]

theorem endNode_writes (hx : s.walker p w = x) (h : n.w1 ≠ 0) (hz : s.coWriteVia 0 p n.w1 ((leBytes 8 n.w2).map some) = (z, .ok ())) :
    endNode s p w n = (z.walkDone p w x.node, none) := by
  unfold endNode
  extract_lets fin
  rw [if_neg h, walkWrite_ok hz, ← hx, ← (memOnly_of_write hz).walker, ← State.modWalker_walkDone]

end

/-! ### The obligation -/

/-- The events of the nodes, each with its kind. -/
def nodeEvents : List (Nat × Instr) :=
  [(1, .bargeNode), (2, .engineNode), (3, .waitNode), (4, .raiseNode), (5, .condNode), (6, .loopNode), (7, .switchNode), (8, .rearmNode), (9, .endNode)]

theorem exec_nodeEvents (s : State) : ∀ e ∈ nodeEvents, ∃ f, exec e.2 s = ok (s.nodeStep e.1 f) := by
  simp only [nodeEvents, List.forall_mem_cons]
  exact ⟨⟨bargeNode, rfl⟩, ⟨engineNode, rfl⟩, ⟨waitNode, rfl⟩, ⟨raiseNode, rfl⟩, ⟨condNode, rfl⟩, ⟨loopNode, rfl⟩, ⟨switchNode, rfl⟩, ⟨rearmNode, rfl⟩, ⟨endNode, rfl⟩, List.forall_mem_nil _⟩

/-- What every act makes of the node, every event of a node completes with. -/
theorem nodeEvents_complete {P : Nat → Prop} (h : ∀ kind, P kind → ∀ f, s.nodeStep kind f = t) : ∀ e ∈ nodeEvents, P e.1 → Completes e.2 s (fun r => r = t) :=
  fun e he hp => by
    obtain ⟨f, hf⟩ := exec_nodeEvents s e he
    exact completes_eq (hf.trans (congrArg ok (h e.1 hp f)))

/-- Settles O46: the registers by what a write makes of its walker, and each kind of node by what it does once it is read. -/
theorem graphEventsComplete : Obligations.GraphEventsComplete := by
  intro s a p w x becomes set
  refine ⟨fun h => ?beyond, fun hst hidx => ?registers, ?nodes⟩
  case beyond =>
    obtain ⟨hconfig, hstart, hstop⟩ := exec_gw_beyond h
    exact ⟨completes_eq hconfig, completes_eq hstart, completes_eq hstop⟩
  case registers =>
    intro bad v no ctl
    have hl : ¬((s.part p).st = 0 ∨ 4 ≤ w) := by omega
    refine ⟨fun h0 => ?base, fun h0 => gwCtl_completes hl (exec_gwConfigWrite_ctl hl h0) BitVec.or_zero, gwCtl_completes hl rfl rfl, gwCtl_completes hl rfl rfl⟩
    have he := exec_gwConfigWrite_base hl h0
    rw [Walker.writeBase_eq] at he
    exact completes_ite_of (fun y => s.modWalker p w (fun _ => y)) he
  case nodes =>
    intro nodes rd
    have every : ∀ {t}, (∀ kind f, s.nodeStep kind f = t) → ∀ e ∈ nodes, becomes e.2 t := fun h e he =>
      nodeEvents_complete (P := fun _ => True) (fun k _ => h k) e he trivial
    refine ⟨fun h => every (State.nodeStep_idle h), fun hst hrun hwait hidx => ?_⟩
    have hw : s.walks := ⟨hst, hrun, hwait, hidx⟩
    refine ⟨fun h => every (State.nodeStep_held hw h), fun f h hf => every (State.nodeStep_faults hw h hf), fun b u hr => ?_⟩
    intro n on
    refine ⟨fun hb => every (State.nodeStep_bad hw hr hb), fun hb => ⟨nodeEvents_complete (fun _ hk => State.nodeStep_other hw hr hb hk), ?_⟩⟩
    have hm : MemOnly s u := memOnly_of_read hr
    have hpart : u.part p = s.part p := hm.part p
    have hx : u.walker p w = x := hm.walker p w
    have hvisiting : u.visiting = s.visiting := (congrArg State.visiting hm.rest :)
    have hvisit : u.visit = s.visit := (congrArg State.visit hm.rest :)
    refine ⟨fun hk => ?barge, fun hk => ?engine, fun hk v r hv => ?wait, fun hk v r z hv hz => ?raise, fun hk => ?cond, fun hk => ?loop, fun hk v t0 ht => ?switch,
      fun hk z hz => ?rearm, fun hk => ?fin⟩
    case barge =>
      have act := fun {e} => node_completes (e := e) hw hr hb hk (exec_bargeNode s) (by decide) (by decide) (by decide)
      exact ⟨fun h9 => act (bargeNode_noSource h9), fun h9 hf => act (bargeNode_full h9 hf), fun v r z h9 hf hv hz => act (bargeNode_enters h9 hx hf hv hz)⟩
    case engine =>
      have act := fun {e} => node_completes (e := e) hw hr hb hk (exec_engineNode s) (by decide) (by decide) (by decide)
      rw [← hpart, ← hvisiting, ← hvisit]
      exact ⟨fun h => act (engineNode_noVisit h), fun v hd hv hp hfl hj => act (engineNode_goesOn hd hv hp hx hfl hj),
        fun v hd hv hp hfl hj => act (engineNode_waitsForJob hd hv hp hfl hj)⟩
    case wait =>
      have act := fun {e} => node_completes (e := e) hw hr hb hk (exec_waitNode s) (by decide) (by decide) (by decide)
      exact ⟨fun h => act (waitNode_holds hv hx h), fun h hs => act (waitNode_stops hv hx h hs), fun h hs => act (waitNode_polls hv hx h hs)⟩
    case raise => exact node_completes hw hr hb hk (exec_raiseNode s) (by decide) (by decide) (by decide) (raiseNode_ok hv hx hz)
    case cond =>
      exact ⟨fun h => branch_fails hw hr hb hk (exec_condNode s) (.inl rfl) h,
        fun v r htgt hv => branch_completes hw hr hb hk (exec_condNode s) (.inl rfl) htgt (condNode_ok hv hx)⟩
    case loop =>
      exact ⟨fun h => branch_fails hw hr hb hk (exec_loopNode s) (.inr rfl) h,
        fun v r z htgt hv hz => branch_completes hw hr hb hk (exec_loopNode s) (.inr rfl) htgt (loopNode_ok hv hx hz)⟩
    case switch =>
      intro far
      have hstep := (exec_switchNode s).trans (congrArg ok (State.nodeStep_switch hw hr hb hk rfl ht switchNode))
      refine ⟨fun h => completes_eq (hstep.trans (congrArg ok (if_pos h))), fun h htgt => completes_eq (hstep.trans (congrArg ok ((if_neg h).trans (if_pos htgt)))),
        fun v' t1 z r h htgt ht1 hz => completes_eq (hstep.trans (congrArg ok ((if_neg h).trans ((if_neg (Nat.not_le.2 htgt)).trans ?_))))⟩
      exact congrArg s.nodeEnd (switchNode_ok ht1 hz)
    case rearm => exact node_completes hw hr hb hk (exec_rearmNode s) (by decide) (by decide) (by decide) (rearmNode_ok hx hz)
    case fin =>
      have act := fun {e} => node_completes (e := e) hw hr hb hk (exec_endNode s) (by decide) (by decide) (by decide)
      exact ⟨fun h => act (endNode_quiet hx h), fun z h hz => act (endNode_writes hx h hz)⟩

end Sys2Proof.Machine
end
